-- ==== Sys2Proof/Word.lean ====
section
/-! DEFINITION. The words the manual counts in: bytes, ticks, and the numbers of slots, lines and rings. -/

namespace Sys2Proof

/-- One byte of a memory record. -/
abbrev Byte := BitVec 8

/-- A tick: a 64-bit unsigned count of the timebase (00 "Time", R71). -/
abbrev Tick := BitVec 64

/-- A 64-byte command record (R174): byte `o` is bits `8o+7` to `8o`, so that a multi-byte field is little-endian. -/
abbrev CommandRecord := BitVec 512

/-- The 128-byte setup block (Table 10-13), laid out as `CommandRecord` is. -/
abbrev SetupBlock := BitVec 1024

/-- A 32-byte notice record (Table 10-7), laid out as `CommandRecord` is. -/
abbrev NoticeRecord := BitVec 256

/-- Slot 0 to slot 255. -/
abbrev SlotId := Fin 256

/-- OUT0 to OUT15. -/
abbrev LineId := Fin 16

/-- CAP0 to CAP7. -/
abbrev CaptureId := Fin 8

/-- CR0 to CR3. -/
abbrev CommandRingId := Fin 4

/-- NR0 and NR1. -/
abbrev NoticeRingId := Fin 2

/-- The level of an output or capture line (Table 10-1). -/
inductive Level where
  | low
  | high
deriving DecidableEq, Repr

/-- The other level. -/
def Level.opposite : Level → Level
  | .low => .high
  | .high => .low

end Sys2Proof
end

