-- ==== Sys2Proof/Config.lean ====
section
/-! DEFINITION. The figures of Table 0-1 and the free values: what the manual leaves open stands here as a constant with no body. -/

namespace Sys2Proof.Config

/-- Ticks in one second of timebase (R80). -/
def ticksPerSecond : Nat := 100000000

/-- The greatest tick, at which the timebase stays (R72). -/
def maxTick : Nat := 18446744073709551615

/-- 2^40: the greatest delay, period, timebase step and WAIT timeout (Table 0-1). -/
def maxSpan : Nat := 1099511627776

/-- The least period of a repeating event (R10). -/
def minPeriod : Nat := 100

/-- 2^24: the greatest pulse width (R11) and holdoff (R163). -/
def maxWidth : Nat := 16777216

/-- Calendar seconds in the 400-year span (section 4.4). -/
def calendarSpan : Nat := 12622780800

/-- Days in the 400-year span (section 4.4). -/
def calendarDays : Nat := 146097

/-- The horizon of a resolution in seconds: 1,461 days (R93). -/
def horizon : Nat := 126230400

/-- The most calendar events started at once (R89). -/
def maxStarted : Nat := 32

/-- The greatest magnitude of a trim (R75). -/
def maxTrim : Nat := 20000

/-- The value IDENT reads: part code 2416h, design level 01h (R178). -/
def ident : BitVec 32 := 0x24160100#32

/-- FREE VALUE (log entry 5): the byte that a notice write ending with a bus error leaves at one of its
addresses. The manual does not say what reached memory. The argument is the State's counter of free values. -/
opaque freeByte : Nat → Byte

end Sys2Proof.Config
end

