-- ==== Sys2Proof/Syntax.lean ====
section
/-! DEFINITION. The commands of the block: one constructor of `Instr` for each row of spec/opcode_table.json, with the row's operands. -/

namespace Sys2Proof

/-- The header of a command record that every kind is read with (Table 10-2, R175). -/
structure Header where
  ident : BitVec 16
  slot : SlotId
  generation : BitVec 8
deriving DecidableEq, Repr

/-- An action word as it stands in a record (Table 10-6). -/
structure ActionWord where
  kind : Byte
  target : Byte
  level : Byte
  divider : Byte
  value : BitVec 32
deriving DecidableEq, Repr

/-- The LOAD fields as they stand in a record (Tables 10-4 and 10-5). `area` is bytes 10h to 17h: the start
value of a TICK definition, the match pattern of a CALENDAR one. -/
structure LoadFields where
  kind : BitVec 2
  startMode : BitVec 2
  triggerMode : BitVec 1
  triggerLine : BitVec 3
  policy : BitVec 2
  ring : BitVec 1
  actionCount : BitVec 3
  tag : BitVec 64
  area : BitVec 64
  period : BitVec 48
  repeatCount : BitVec 16
  words : Vector ActionWord 4
deriving DecidableEq, Repr

/-- The RETIME fields: a value is absent where its flag bit is clear (Table 10-4). -/
structure RetimeFields where
  start : Option (BitVec 64)
  period : Option (BitVec 64)
  expiry : Option (BitVec 64)
deriving DecidableEq, Repr

/-- The six fields of SET_CALENDAR (Table 10-4). -/
structure CalendarFields where
  year : BitVec 16
  month : Byte
  day : Byte
  hour : Byte
  minute : Byte
  second : Byte
deriving DecidableEq, Repr

/-- The LINE_SETUP bytes (Table 10-4). -/
structure LineSetupFields where
  line : Byte
  enable : Byte
  safe : Byte
  initial : Byte
deriving DecidableEq, Repr

/-- The CAPTURE_SETUP fields (Table 10-4). -/
structure CaptureSetupFields where
  line : Byte
  mode : Byte
  qualify : Byte
  notify : Byte
  ring : Byte
  interval : BitVec 16
deriving DecidableEq, Repr

/-- What a command record carries beside its header, by command kind (Table 10-3). CAPTURE_SETUP takes its
first sample within its own happening (R111), so it carries the level then on the line's pin (log entry 8). -/
inductive Command where
  | load (d : LoadFields)
  | start
  | stop
  | retime (f : RetimeFields)
  | unload
  | query
  | wait (timeout : BitVec 64)
  | nop
  | readTime
  | trimRate (value : BitVec 32)
  | stepTimebase (delta : BitVec 64)
  | setCalendar (f : CalendarFields)
  | lineSetup (f : LineSetupFields)
  | lineForce (w : ActionWord)
  | captureSetup (f : CaptureSetupFields) (level : Level)
deriving DecidableEq, Repr

/-- How the read of a command record ends (R146, R147). -/
inductive FetchEnd where
  | good (record : CommandRecord)
  | busError
deriving DecidableEq, Repr

/-- How the read of the setup block ends (R162, R163). -/
inductive SetupEnd where
  | good (block : SetupBlock)
  | busError
deriving DecidableEq, Repr

/-- How the write of a notice record ends (R121, R132). -/
inductive WriteEnd where
  | good
  | busError
deriving DecidableEq, Repr

/-- The mode a RESUME carries (R160). -/
inductive ResumeMode where
  | catchup
  | discard
deriving DecidableEq, Repr

/-- The commands. The first fifteen are the end of the fetch in flight with a good read of a record of that
kind (R146, log entry 9). `registerWrite` is a write of `bytes` bytes at a byte offset of the register window
(R178). `fetchEnd` carries the levels on CAP0 to CAP7 in bits 0 to 7, read if the record is a CAPTURE_SETUP
(log entry 8). `setupReadEnd` names the read that ends by its place among those under way, oldest first
(log entry 17). -/
inductive Instr where
  | load (h : Header) (d : LoadFields)
  | start (h : Header)
  | stop (h : Header)
  | retime (h : Header) (f : RetimeFields)
  | unload (h : Header)
  | query (h : Header)
  | wait (h : Header) (timeout : BitVec 64)
  | nop (h : Header)
  | readTime (h : Header)
  | trimRate (h : Header) (value : BitVec 32)
  | stepTimebase (h : Header) (delta : BitVec 64)
  | setCalendar (h : Header) (f : CalendarFields)
  | lineSetup (h : Header) (f : LineSetupFields)
  | lineForce (h : Header) (w : ActionWord)
  | captureSetup (h : Header) (f : CaptureSetupFields) (level : Level)
  | controlStart
  | halt
  | resume (mode : ResumeMode)
  | coreReset
  | clearFlags
  | noticeRingReset (k : NoticeRingId)
  | commandRingReset (r : CommandRingId)
  | postIndexWrite (r : CommandRingId) (value : BitVec 32)
  | releaseIndexWrite (k : NoticeRingId) (value : BitVec 32)
  | intStatusWrite (value : BitVec 32)
  | intEnableWrite (value : BitVec 32)
  | registerWrite (offset : BitVec 6) (value : BitVec 32) (bytes : Nat)
  | powerOn
  | resetNAssert
  | resetNRelease
  | haltInAssert
  | haltInRelease
  | firing
  | pulseEnd (l : LineId)
  | frameStart (l : LineId)
  | secondBoundary
  | sample (c : CaptureId) (level : Level)
  | holdoffExpiry (k : NoticeRingId)
  | deadlineExpiry (r : CommandRingId)
  | fetchEnd (e : FetchEnd) (pins : BitVec 8)
  | writeEnd (k : NoticeRingId) (e : WriteEnd)
  | setupReadEnd (i : Nat) (e : SetupEnd)
  | take
  | workEnd
  | referenceClockPeriod
  | densityClock (l : LineId)
deriving DecidableEq, Repr

end Sys2Proof
end

