-- ==== Sys2Proof/WellFormed.lean ====
section
/-! DEFINITION. Which terms of `Instr` are commands of the block. The operand types hold most bounds already
(slots, lines and rings by number, record fields by width), so that the register access of R178 is what is left
to check. -/

namespace Sys2Proof

/-- An access of at least one byte. -/
def WellFormed.someByte (bytes : Nat) : Bool := 1 ≤ bytes

/-- An access of at most the four bytes of one register (R178). -/
def WellFormed.atMostWord (bytes : Nat) : Bool := bytes ≤ 4

/-- An access that stays inside one register (R178: a full access stands at a multiple of 4). -/
def WellFormed.insideWord (offset : BitVec 6) (bytes : Nat) : Bool := offset.toNat % 4 + bytes ≤ 4

/-- The commands the block can be sent. -/
def Instr.wellFormed : Instr → Bool
  | .registerWrite offset _ bytes =>
    WellFormed.someByte bytes && WellFormed.atMostWord bytes && WellFormed.insideWord offset bytes
  | .load _ _ | .start _ | .stop _ | .retime _ _ | .unload _ | .query _ | .wait _ _ | .nop _
  | .readTime _ | .trimRate _ _ | .stepTimebase _ _ | .setCalendar _ _ | .lineSetup _ _ | .lineForce _ _
  | .captureSetup _ _ _ | .controlStart | .halt | .resume _ | .coreReset | .clearFlags
  | .noticeRingReset _ | .commandRingReset _ | .postIndexWrite _ _ | .releaseIndexWrite _ _
  | .intStatusWrite _ | .intEnableWrite _ | .powerOn | .resetNAssert | .resetNRelease
  | .haltInAssert | .haltInRelease | .firing | .pulseEnd _ | .frameStart _ | .secondBoundary
  | .sample _ _ | .holdoffExpiry _ | .deadlineExpiry _ | .fetchEnd _ _ | .writeEnd _ _
  | .setupReadEnd _ _ | .take | .workEnd | .referenceClockPeriod | .densityClock _ => true

end Sys2Proof
end

