-- ==== Sys2Proof/Decode.lean ====
section
/-! DEFINITION. The words of spec/opcode_table.json. No row of the table gives a command any bits: commands
reach the block as happenings, and the encodings of the command records are Machine/Formats.lean's. -/

namespace Sys2Proof

/-- The command that a word spells by the table's bits. The table gives bits to no row, so no word spells one. -/
def decodeTableWord (_nbits _w : Nat) : Option Instr := none

end Sys2Proof
end

