-- ==== Sys2Proof/Machine/State.lean ====
section
/-! DEFINITION. The state of the controller, block by block as Table 0-3 lists the blocks, and its values right
after power-on. INVENTORY.md gives the rule and the reset value of every field. -/

namespace Sys2Proof.Machine

open Sys2Proof

/-! ### Event table -/

/-- ONCE or RETRIGGER (Table 1-1). -/
inductive TriggerMode where
  | once
  | retrigger
deriving DecidableEq, Repr

/-- The start mode of a TICK definition, with the line and mode of a TRIGGER one (Table 1-1). -/
inductive StartMode where
  | absolute
  | relative
  | trigger (line : CaptureId) (mode : TriggerMode)
deriving DecidableEq, Repr

/-- A match pattern: six fields, each present with a value or absent (R90). -/
structure Pattern where
  second : Option Nat
  minute : Option Nat
  hour : Option Nat
  day : Option Nat
  month : Option Nat
  weekday : Option Nat
deriving DecidableEq, Repr

/-- The kind of a definition with the fields of that kind. `start` is an expiry tick under ABSOLUTE and a delay
under RELATIVE and TRIGGER (Table 1-1). -/
inductive Timing where
  | tick (mode : StartMode) (start : Tick) (period : Nat)
  | calendar (pattern : Pattern)
deriving DecidableEq, Repr

/-- EVERY, LAST or NONE (R37). -/
inductive NotifyPolicy where
  | every
  | last
  | none
deriving DecidableEq, Repr

/-- A density value and the code of its divider, 2 to the power of the code reference periods (R53). -/
structure Density where
  value : Nat
  code : Fin 8
deriving DecidableEq, Repr

/-- An action of an event (R11). -/
inductive Action where
  | drive (line : LineId) (level : Level)
  | toggle (line : LineId)
  | pulse (line : LineId) (level : Level) (width : Nat)
  | density (line : LineId) (d : Density)
  | start (slot : SlotId)
  | stop (slot : SlotId)
  | mark
deriving DecidableEq, Repr

/-- The definition fields of a slot (Table 1-1). -/
structure Definition where
  timing : Timing
  repeatCount : Nat
  policy : NotifyPolicy
  ring : NoticeRingId
  tag : BitVec 64
  actions : List Action
deriving DecidableEq, Repr

/-- The state of a loaded slot, with the expiry and sequence that an ARMED one has (Tables 1-1, 1-2). -/
inductive Run where
  | dormant
  | waiting
  | resolving
  | armed (expiry : Tick) (sequence : BitVec 64)
deriving DecidableEq, Repr

/-- A loaded slot: its definition and run fields (R1, R2). -/
@[ext] structure Event where
  defn : Definition
  run : Run
  remaining : Option Nat
  firingsDone : Nat
deriving DecidableEq, Repr

/-- A slot record (Table 1-1). A FREE slot holds no event. -/
@[ext] structure Slot where
  generation : BitVec 8
  noticePending : Bool
  event : Option Event
deriving DecidableEq, Repr

/-! ### Timeline -/

/-- A timeline entry (Table 2-1). -/
structure Entry where
  slot : SlotId
  expiry : Tick
  sequence : BitVec 64
  haltedOver : Bool
deriving DecidableEq, Repr

/-- The timeline scheduler's state (R23, R24, R27). -/
@[ext] structure Timeline where
  entries : List Entry
  nextSequence : BitVec 64
  lateThreshold : Nat
deriving DecidableEq, Repr

/-! ### Resolver -/

/-- A resolution item (Table 5-2). -/
structure Item where
  slot : SlotId
  base : Nat
  beginTick : Tick
  member : Bool
deriving DecidableEq, Repr

/-- The work in progress (Table 5-1). -/
structure Work where
  item : Item
  abandoned : Bool
deriving DecidableEq, Repr

/-- The pass record (Table 5-3). -/
structure Pass where
  ring : CommandRingId
  ident : BitVec 16
  takeIndex : Nat
  anchorTick : Tick
  anchorSecond : Nat
  placed : Nat
  matched : Nat
  noMatch : Nat
  stopped : Nat
deriving DecidableEq, Repr

/-- The calendar resolver's state (Table 5-1). -/
@[ext] structure Resolver where
  queue : List Item
  work : Option Work
  started : Nat
  pass : Option Pass
deriving DecidableEq, Repr

/-! ### Time unit -/

/-- A trim accepted and not yet applied (Table 4-1). -/
structure PendingTrim where
  value : Int
  ring : CommandRingId
  ident : BitVec 16
  takeIndex : Nat
deriving DecidableEq, Repr

/-- The time unit's state (Table 4-1). `nextBoundary` is the least boundary tick beyond the timebase; it may lie
beyond the range of the timebase. `dueBoundaries` holds the boundary ticks that counting has reached and no second
boundary has taken since the anchor was set, oldest first (R74, log entry 15). -/
@[ext] structure TimeUnit where
  timebase : Tick
  trim : Int
  accumulator : Nat
  pendingTrim : Option PendingTrim
  anchorTick : Tick
  anchorSecond : Nat
  nextBoundary : Nat
  dueBoundaries : List Nat
deriving DecidableEq, Repr

/-! ### Line block -/

/-- The state of an output line with the fields each state has (Table 3-1). `elapsed` counts the reference
periods of the present density clock (R58, log entry 14). -/
inductive LineMode where
  | disabled
  | held (level : Level)
  | pulsing (held : Level) (pulse : Level) (endTick : Tick)
  | density (held : Level) (now : Density) (position : BitVec 16) (next : Option Density) (elapsed : Nat)
deriving DecidableEq, Repr

/-- An output line record (Table 3-1). -/
@[ext] structure Line where
  safe : Level
  mode : LineMode
deriving DecidableEq, Repr

/-! ### Capture unit -/

/-- OFF, RISING, FALLING or BOTH (R103). -/
inductive EdgeMode where
  | off
  | rising
  | falling
  | both
deriving DecidableEq, Repr

/-- The sampling fields of a line that is not OFF (Table 6-1). `spent` says that a sample was taken with tick
2^64-1, after which no further sample is taken (R104, log entry 25). -/
structure Sampling where
  next : Tick
  stable : Level
  count : Nat
  first : Option Tick
  spent : Bool
deriving DecidableEq, Repr

/-- A held edge record (R107). The direction is given by the level the line went to. -/
structure Held where
  direction : Level
  timestamp : Tick
  sequence : BitVec 16
  ring : NoticeRingId
deriving DecidableEq, Repr

/-- A capture line record (Table 6-1). -/
@[ext] structure CaptureLine where
  edgeMode : EdgeMode
  qualify : Nat
  interval : Nat
  notify : Bool
  ring : NoticeRingId
  sampling : Option Sampling
  edgeSequence : BitVec 16
  held : Option Held
  lost : Nat
  waiting : List SlotId
deriving DecidableEq, Repr

/-- The capture unit's state (R103, R116). -/
@[ext] structure CaptureUnit where
  lines : Vector CaptureLine 8
  suppressed : Bool
deriving DecidableEq, Repr

/-! ### Notices and completions -/

/-- The sixteen status codes (Table 10-9). -/
inductive Status where
  | ok
  | alreadyStopped
  | notLoaded
  | stale
  | slotBusy
  | notDormant
  | wrongKind
  | noticePending
  | calendarFull
  | busy
  | superseded
  | timedOut
  | lineDisabled
  | halted
  | badCommand
  | badParam
deriving DecidableEq, Repr

/-- The slot row of Table 10-12. `state` is the slot state's code (Table 10-1). -/
structure SlotResult where
  state : Nat
  generation : BitVec 8
  remaining : Option Nat
  expiry : Option Tick
  noticePending : Bool
  expiryApplied : Bool
  triggerLine : Option CaptureId
  calendarKind : Bool
  firingsDone : Nat
deriving DecidableEq, Repr

/-- The READ_TIME row of Table 10-12 (R84). -/
structure TimeResult where
  tick : Tick
  year : Nat
  month : Nat
  day : Nat
  hour : Nat
  minute : Nat
  second : Nat
  weekday : Nat
  into : Nat
  trim : Int
  pending : Option Int
deriving DecidableEq, Repr

/-- The CAPTURE_SETUP row of Table 10-12 (R111). -/
structure CaptureResult where
  edgeMode : EdgeMode
  qualify : Nat
  notify : Bool
  ring : NoticeRingId
  interval : Nat
  stable : Option Level
  heldPresent : Bool
  lost : Nat
  edgeSequence : BitVec 16
  waiting : Nat
deriving DecidableEq, Repr

/-- The 24 result bytes of a completion, by the rows of Table 10-12. `lineState` fields are the codes of
Table 10-1. -/
inductive Result where
  | zero
  | slot (r : SlotResult)
  | time (r : TimeResult)
  | trim (value : Int) (pending : Option Int) (tick : Tick) (second : Nat)
  | step (before stepped : Tick) (second : Nat) (applied : Bool)
  | calendar (tick : Tick) (second placed matched noMatch stopped : Nat)
  | lineSetup (lineState : Nat) (safe : Level) (held : Option Level) (pin : Level)
  | lineForce (lineState : Nat) (held : Option Level) (densityPending : Bool) (pin : Level)
  | capture (r : CaptureResult)
deriving DecidableEq, Repr

/-- The flags of a firing notice (Table 10-10). -/
structure FiringFlags where
  late : Bool
  last : Bool
  coalesced : Bool
  actionFailed : Bool
  haltedOver : Bool
  missed : Bool
  noMatch : Bool
deriving DecidableEq, Repr

/-- What a firing offer says beside the slot, its generation and its tag; also the deferred firing record of a
listed slot (R37, R127). -/
structure FiringReport where
  expiry : Tick
  fire : Tick
  count : Nat
  overruns : Nat
  flags : FiringFlags
  mask : BitVec 4
deriving DecidableEq, Repr

/-- The subkinds of a system notice with their details (Table 10-11). The lost-record count of a QUEUE_FAULT
naming NR1 is filled in when it is posted (R132). -/
inductive SystemBody where
  | commandFault (r : CommandRingId)
  | noticeFault (k : NoticeRingId) (lostRecords : Nat)
  | badIndex (offset : Byte)
  | halted (software pin : Bool)
  | resumed (mode : ResumeMode)
deriving DecidableEq, Repr

/-- A system notice as it is offered (R129). -/
structure SystemNotice where
  body : SystemBody
  tick : Tick
deriving DecidableEq, Repr

/-- The contents of a notice record (Table 10-8). -/
inductive Notice where
  | completion (ring : CommandRingId) (status : Status) (ident : BitVec 16) (takeIndex : Nat) (result : Result)
  | firing (slot : SlotId) (generation : BitVec 8) (tag : BitVec 64) (report : FiringReport)
  | edge (line : CaptureId) (direction : Level) (timestamp : Tick) (sequence : BitVec 16) (lost : Nat)
  | system (n : SystemNotice) (lost : Nat)
deriving DecidableEq, Repr

/-! ### Notice unit -/

/-- The configuration of a notice ring (Table 7-1). -/
structure NoticeConfig where
  base : BitVec 64
  size : Nat
  threshold : Nat
  holdoff : Nat
  enabled : Bool
deriving DecidableEq, Repr

/-- DISABLED, ACTIVE or FAULTED (R119). -/
inductive NoticeRingState where
  | disabled
  | active
  | faulted
deriving DecidableEq, Repr

/-- A record that has taken a place and is not yet written (R121). `released` says that the host has released
its place meanwhile (R130, log entry 20). -/
structure Queued where
  place : Nat
  address : Nat
  phase : Bool
  notice : Notice
  released : Bool
deriving DecidableEq, Repr

/-- A source on a deferred list, with what it carries (R126). -/
inductive Deferred where
  | slot (i : SlotId) (report : FiringReport)
  | line (c : CaptureId)
  | system (kept : SystemNotice) (lost : Nat)
deriving DecidableEq, Repr

/-- A notice ring record (Table 7-1). `written` holds the ticks at which the unreleased written records were
written, oldest first: its length is the unreleased count and its head the oldest post tick (log entry 19).
`stale` is a record whose write was in flight at a reset of the ring (R138). -/
@[ext] structure NoticeRing where
  config : Option NoticeConfig
  state : NoticeRingState
  writeIndex : Nat
  releaseIndex : Nat
  phase : Bool
  occupied : Nat
  reserved : Nat
  queue : List Queued
  written : List Tick
  deferred : List Deferred
  requests : List CommandRingId
  lostRecords : Nat
  ready : Bool
  stale : Option Queued
deriving DecidableEq, Repr

/-! ### Command intake -/

/-- The configuration of a command ring (Table 8-1). -/
structure CommandConfig where
  base : BitVec 64
  size : Nat
  bound : NoticeRingId
  burst : Nat
  enabled : Bool
deriving DecidableEq, Repr

/-- DISABLED, ACTIVE, STALLED, BLOCKED or FAULTED (R141). -/
inductive CommandRingState where
  | disabled
  | active
  | stalled
  | blocked
  | faulted
deriving DecidableEq, Repr

/-- A fetch in flight (Table 8-1): the place it reads, and that place's address (R146). -/
structure Fetch where
  place : Nat
  address : Nat
  discarded : Bool
deriving DecidableEq, Repr

/-- A WAIT in flight (Table 8-1). -/
structure WaitInFlight where
  slot : SlotId
  generation : BitVec 8
  deadline : Option Tick
  ident : BitVec 16
  takeIndex : Nat
deriving DecidableEq, Repr

/-- The kinds of command whose completion may be deferred (R151). -/
inductive OwedKind where
  | trimRate
  | setCalendar
  | wait
deriving DecidableEq, Repr

/-- An entry of an outstanding list (Table 8-1). -/
structure Owed where
  kind : OwedKind
  ident : BitVec 16
  takeIndex : Nat
deriving DecidableEq, Repr

/-- A command ring record (Table 8-1). -/
@[ext] structure CommandRing where
  config : Option CommandConfig
  state : CommandRingState
  take : Nat
  post : Nat
  fetchReservation : Bool
  requestOutstanding : Bool
  fetch : Option Fetch
  wait : Option WaitInFlight
  outstanding : List Owed
deriving DecidableEq, Repr

/-- The command intake's state. `turnOver` says that the turn ring has left ACTIVE or run out of commands
since it was chosen, so that the next choice passes the turn on (R143, log entry 12). -/
@[ext] structure Intake where
  rings : Vector CommandRing 4
  turn : CommandRingId
  count : Nat
  turnOver : Bool
deriving DecidableEq, Repr

/-! ### Control unit -/

/-- OFF, LOADING, RUNNING or FAILED (R158). -/
inductive CoreState where
  | off
  | loading
  | running
  | failed
deriving DecidableEq, Repr

/-- A read of the setup block under way (R162, R164). -/
structure SetupRead where
  address : BitVec 64
  abandoned : Bool
deriving DecidableEq, Repr

/-- The control unit's state (Table 9-1) with the levels of the two input pins. -/
@[ext] structure Control where
  core : CoreState
  software : Bool
  pin : Bool
  haltIn : Bool
  resetAsserted : Bool
  setupAddress : BitVec 64
  setupReads : List SetupRead
  badIndex : Bool
  startIgnored : Bool
  resumeRefused : Bool
  fault : Bool
  enable : BitVec 4
deriving DecidableEq, Repr

/-! ### The whole machine -/

/-- System memory as far as the controller has written it: cells at strictly rising addresses (R121, log
entry 4). An address not listed has not been written by the controller and reads as no value. -/
abbrev Memory := List Host.Cell

/-- Why the machine stops. The manual describes no stop: bus errors, failed loads and rejected writes all have
effects it states, so this type has no constructor and every command answers a next state. -/
inductive Fault where
deriving DecidableEq, Repr

/-- Why a command has no meaning. -/
inductive Refusal where
  /-- Raised by an arm of `exec` whose command has no meaning yet. No arm raises it now. Safe: nothing can be
  proved about the command's effect. -/
  | notModelled (mnemonic : String)
deriving DecidableEq, Repr

/-- The machine, and the commands waiting for it. -/
@[ext]
structure State where
  control : Control
  intake : Intake
  slots : Vector Slot 256
  timeline : Timeline
  resolver : Resolver
  time : TimeUnit
  lines : Vector Line 16
  capture : CaptureUnit
  notices : Vector NoticeRing 2
  memory : Memory
  freeCount : Nat
  pending : List Instr
deriving DecidableEq, Repr

/-! ### Values after power-on -/

/-- R22. -/
def Slot.reset : Slot := { generation := 0, noticePending := false, event := none }

/-- R46. -/
def Timeline.reset : Timeline := { entries := [], nextSequence := 0, lateThreshold := 0 }

/-- R102. -/
def Resolver.reset : Resolver := { queue := [], work := none, started := 0, pass := none }

/-- R87. -/
def TimeUnit.reset : TimeUnit :=
  { timebase := 0, trim := 0, accumulator := 0, pendingTrim := none, anchorTick := 0, anchorSecond := 0,
    nextBoundary := Config.ticksPerSecond, dueBoundaries := [] }

/-- R70. -/
def Line.reset : Line := { safe := .low, mode := .disabled }

/-- R117. -/
def CaptureLine.reset : CaptureLine :=
  { edgeMode := .off, qualify := 1, interval := 1, notify := false, ring := 0, sampling := none,
    edgeSequence := 0, held := none, lost := 0, waiting := [] }

/-- R117. -/
def CaptureUnit.reset : CaptureUnit := { lines := Vector.replicate 8 CaptureLine.reset, suppressed := false }

/-- R139. -/
def NoticeRing.reset : NoticeRing :=
  { config := none, state := .disabled, writeIndex := 0, releaseIndex := 0, phase := true, occupied := 0,
    reserved := 0, queue := [], written := [], deferred := [], requests := [], lostRecords := 0,
    ready := false, stale := none }

/-- R157. -/
def CommandRing.reset : CommandRing :=
  { config := none, state := .disabled, take := 0, post := 0, fetchReservation := false,
    requestOutstanding := false, fetch := none, wait := none, outstanding := [] }

/-- R157: the turn ring is CR3 with a count of 8. -/
def Intake.reset : Intake :=
  { rings := Vector.replicate 4 CommandRing.reset, turn := 3, count := 8, turnOver := false }

/-- R169, with both input pins released (log entry 3). -/
def Control.reset : Control :=
  { core := .off, software := false, pin := false, haltIn := false, resetAsserted := false,
    setupAddress := 0, setupReads := [], badIndex := false, startIgnored := false, resumeRefused := false,
    fault := false, enable := 0 }

/-- The machine right after power-on: every block at the power-on values of its own rule, no bus work under
way, no command waiting. -/
def State.reset : State :=
  { control := Control.reset
    intake := Intake.reset
    slots := Vector.replicate 256 Slot.reset
    timeline := Timeline.reset
    resolver := Resolver.reset
    time := TimeUnit.reset
    lines := Vector.replicate 16 Line.reset
    capture := CaptureUnit.reset
    notices := Vector.replicate 2 NoticeRing.reset
    memory := []
    freeCount := 0
    pending := [] }

end Sys2Proof.Machine
end

