-- ==== Sys2Proof/Machine/Calendar.lean ====
section
/-! DEFINITION. The calendar: reading a calendar second as fields and back (R81, R82), match patterns (R90), and
the search of a resolution (R93). -/

namespace Sys2Proof.Machine

open Sys2Proof

/-- The leap rule (R81). -/
def leapYear (y : Nat) : Bool := y % 4 = 0 && (y % 100 ≠ 0 || y % 400 = 0)

/-- Days of a year (R81). -/
def yearLength (y : Nat) : Nat := if leapYear y then 366 else 365

/-- Days of the years 2000 to 2000 + n - 1 (R81), as 365 a year and one for each leap year among them. -/
def daysBeforeYear (n : Nat) : Nat := 365 * n + (n + 3) / 4 + (n + 399) / 400 - (n + 99) / 100

/-- The number of whole years from 2000 that end before day `d` (R81). -/
def yearIndex (d : Nat) : Nat := if daysBeforeYear (d / 365) ≤ d then d / 365 else d / 365 - 1

/-- Table 4-3. -/
def monthLengths (y : Nat) : List Nat :=
  [31, if leapYear y then 29 else 28, 31, 30, 31, 30, 31, 31, 30, 31, 30, 31]

/-- The months passed within a list of month lengths and the days left over, for a count of days. -/
def monthWalk : List Nat → Nat → Nat × Nat
  | [], d => (0, d)
  | m :: ms, d => if d < m then (0, d) else ((monthWalk ms (d - m)).1 + 1, (monthWalk ms (d - m)).2)

/-- A calendar second read as fields. -/
structure Reading where
  year : Nat
  month : Nat
  day : Nat
  hour : Nat
  minute : Nat
  second : Nat
  weekday : Nat
deriving DecidableEq, Repr

/-- The weekday of a day number, 1 Monday to 7 Sunday (R82). -/
def weekdayOf (d : Nat) : Nat := (d + 5) % 7 + 1

/-- The reading of second `t` of day `d` (R81, R82). -/
def readingOf (d t : Nat) : Reading :=
  let m := monthWalk (monthLengths (2000 + yearIndex d)) (d - daysBeforeYear (yearIndex d))
  { year := 2000 + yearIndex d, month := m.1 + 1, day := m.2 + 1, hour := t / 3600, minute := t % 3600 / 60,
    second := t % 60, weekday := weekdayOf d }

/-- The reading of a calendar second (R81, R82). -/
def readSecond (c : Nat) : Reading := readingOf (c / 86400) (c % 86400)

/-- The reverse reading (R81). -/
def secondOfFields (year month day hour minute second : Nat) : Nat :=
  (daysBeforeYear (year - 2000) + ((monthLengths year).take (month - 1)).sum + (day - 1)) * 86400
    + (hour * 3600 + minute * 60 + second)

/-- The length of month `m` of year `y`, 0 where there is no such month. -/
def monthLength (y m : Nat) : Nat := if m = 0 then 0 else (monthLengths y).getD (m - 1) 0

/-- The calendar second that the six fields of a SET_CALENDAR name, if they are valid (R85). -/
def calendarSecondOf (f : CalendarFields) : Option Nat :=
  let y := f.year.toNat
  let mo := f.month.toNat
  let d := f.day.toNat
  if 2000 ≤ y ∧ y ≤ 2399 ∧ 1 ≤ d ∧ d ≤ monthLength y mo ∧ f.hour.toNat ≤ 23 ∧ f.minute.toNat ≤ 59
      ∧ f.second.toNat ≤ 59 then
    some (secondOfFields y mo d f.hour.toNat f.minute.toNat f.second.toNat)
  else none

/-! ### Patterns -/

/-- An absent field matches any value (R90). -/
def fieldMatches (p : Option Nat) (v : Nat) : Bool :=
  match p with
  | none => true
  | some x => x = v

/-- The day, month and weekday fields against a day number (R90). -/
def Pattern.matchesDay (p : Pattern) (d : Nat) : Bool :=
  fieldMatches p.day (readingOf d 0).day && fieldMatches p.month (readingOf d 0).month
    && fieldMatches p.weekday (weekdayOf d)

/-- The hour, minute and second fields against a second of the day (R90). -/
def Pattern.matchesTime (p : Pattern) (t : Nat) : Bool :=
  fieldMatches p.hour (t / 3600) && fieldMatches p.minute (t % 3600 / 60) && fieldMatches p.second (t % 60)

/-- The pattern matches calendar second `c` (R90). -/
def Pattern.matchesSecond (p : Pattern) (c : Nat) : Bool :=
  p.matchesDay (c / 86400) && p.matchesTime (c % 86400)

/-! ### The search -/

/-- The first answer of `f` at `k`, `k + 1`, ..., over `n` places. -/
def firstFrom (f : Nat → Option Nat) : Nat → Nat → Option Nat
  | 0, _ => none
  | n + 1, k =>
    match f k with
    | some x => some x
    | none => firstFrom f n (k + 1)

/-- The first second of the minute beginning at second `start` of the day, not before `lo`, that fits. -/
def Pattern.firstInMinute (p : Pattern) (start lo : Nat) : Option Nat :=
  match p.second with
  | none => if lo - start ≤ 59 then some (start + (lo - start)) else none
  | some v => if lo - start ≤ v ∧ v ≤ 59 then some (start + v) else none

/-- The first second of hour `h`, not before `lo`, that fits. -/
def Pattern.firstInHour (p : Pattern) (lo h : Nat) : Option Nat :=
  if fieldMatches p.hour h then
    firstFrom (fun m => if fieldMatches p.minute m then p.firstInMinute (h * 3600 + m * 60) lo else none) 60 0
  else none

/-- The first second of a day, not before `lo`, whose hour, minute and second fit. -/
def Pattern.firstOfDay (p : Pattern) (lo : Nat) : Option Nat :=
  firstFrom (p.firstInHour lo) (24 - lo / 3600) (lo / 3600)

/-- The distance from base second `b` to the first fitting second of the `j`-th day from that of `b + 1`. -/
def Pattern.distanceInDay (p : Pattern) (b j : Nat) : Option Nat :=
  if p.matchesDay (((b + 1) / 86400 + j) % Config.calendarDays) then
    (p.firstOfDay (if j = 0 then (b + 1) % 86400 else 0)).map fun t => ((b + 1) / 86400 + j) * 86400 + t - b
  else none

/-- The search of a resolution (R93): the least distance of 1 to the horizon at which the pattern matches the
calendar second counted forward from base second `b` through the wrap, day by day. -/
def Pattern.resolve (p : Pattern) (b : Nat) : Option Nat :=
  match firstFrom (p.distanceInDay b) 1462 0 with
  | some d => if d ≤ Config.horizon then some d else none
  | none => none

/-! ### The calendar of the time unit -/

/-- The calendar second at tick `t` (R80). -/
def TimeUnit.secondAt (u : TimeUnit) (t : Nat) : Nat :=
  (u.anchorSecond + (t - u.anchorTick.toNat) / Config.ticksPerSecond) % Config.calendarSpan

/-- The ticks into the calendar second at tick `t` (R80). -/
def TimeUnit.intoSecond (u : TimeUnit) (t : Nat) : Nat := (t - u.anchorTick.toNat) % Config.ticksPerSecond

/-- The tick at which the calendar second at tick `t` began (R88). -/
def TimeUnit.secondBegin (u : TimeUnit) (t : Nat) : Nat :=
  u.anchorTick.toNat + (t - u.anchorTick.toNat) / Config.ticksPerSecond * Config.ticksPerSecond

/-- The first boundary tick after tick `t` (R74). -/
def TimeUnit.boundaryAfter (u : TimeUnit) (t : Nat) : Nat := u.secondBegin t + Config.ticksPerSecond

end Sys2Proof.Machine
end

