-- ==== Sys2Proof/Machine/Operands.lean ====
section
/-! DEFINITION. The operand forms of the command records: codes turned into constructors, and the owners' checks
of form. A `none` is a value the owner refuses BAD_PARAM (R174). -/

namespace Sys2Proof.Machine

open Sys2Proof

/-- A level code (Table 10-1). -/
def levelOf (b : Byte) : Option Level :=
  if b = 0 then some .low else if b = 1 then some .high else none

/-- A choice code (Table 10-1). -/
def choiceOf (b : Byte) : Option Bool :=
  if b = 0 then some false else if b = 1 then some true else none

/-- A notice ring code (Table 10-1). -/
def noticeRingOf (b : Byte) : Option NoticeRingId :=
  if b = 0 then some 0 else if b = 1 then some 1 else none

/-- OUT0 to OUT15 (R149). -/
def lineOf (b : Byte) : Option LineId := if h : b.toNat < 16 then some ⟨b.toNat, h⟩ else none

/-- CAP0 to CAP7 (R149). -/
def captureOf (b : Byte) : Option CaptureId := if h : b.toNat < 8 then some ⟨b.toNat, h⟩ else none

/-- The slot a target byte names: always slot 0 to slot 255 (R149). -/
def slotOf (b : Byte) : SlotId := b.toFin

/-- A pulse width of 1 to 2^24 ticks (R11). -/
def widthOf (v : BitVec 32) : Option Nat :=
  if 1 ≤ v.toNat ∧ v.toNat ≤ Config.maxWidth then some v.toNat else none

/-- A density value of 0 to 65,536 with a divider code of 0 to 7 (R11, R53). -/
def densityOf (v : BitVec 32) (code : Byte) : Option Density :=
  if h : v.toNat ≤ 65536 ∧ code.toNat < 8 then some { value := v.toNat, code := ⟨code.toNat, h.2⟩ } else none

/-- The action an action word encodes, if it is valid by the table of R11 (Table 10-6). Operands that the kind
does not use are not read (R175). -/
def actionOf (w : ActionWord) : Option Action :=
  match w.kind.toNat with
  | 1 => (lineOf w.target).bind fun l => (levelOf w.level).map fun v => .drive l v
  | 2 => (lineOf w.target).map .toggle
  | 3 => (lineOf w.target).bind fun l => (levelOf w.level).bind fun v => (widthOf w.value).map (.pulse l v)
  | 4 => (lineOf w.target).bind fun l => (densityOf w.value w.divider).map (.density l)
  | 5 => some (.start (slotOf w.target))
  | 6 => some (.stop (slotOf w.target))
  | 7 => some .mark
  | _ => none

/-- Whether an action is one LINE_FORCE may carry (R66). -/
def Action.line? : Action → Option LineId
  | .drive l _ => some l
  | .toggle l => some l
  | .pulse l _ _ => some l
  | .density l _ => some l
  | .start _ => none
  | .stop _ => none
  | .mark => none

/-- The actions of a list of words, if every word is valid. -/
def actionsOf : List ActionWord → Option (List Action)
  | [] => some []
  | w :: ws => (actionOf w).bind fun a => (actionsOf ws).map (a :: ·)

/-- One field of a match pattern: FFh is absent, else the value lies in its range (R10, R174). -/
def patternField (area : BitVec 64) (i lo hi : Nat) : Option (Option Nat) :=
  let v := (area.extractLsb' (8 * i) 8).toNat
  if v = 255 then some none else if lo ≤ v ∧ v ≤ hi then some (some v) else none

/-- The match pattern in bytes 10h to 15h of a LOAD (Table 10-4, R10). -/
def patternOf (area : BitVec 64) : Option Pattern :=
  (patternField area 0 0 59).bind fun second => (patternField area 1 0 59).bind fun minute =>
  (patternField area 2 0 23).bind fun hour => (patternField area 3 1 31).bind fun day =>
  (patternField area 4 1 12).bind fun month => (patternField area 5 1 7).map fun weekday =>
    { second, minute, hour, day, month, weekday }

/-- A period that a repeat count accepts (R10, R17). -/
def periodAccepted (period repeatCount : Nat) : Bool :=
  (period = 0 && repeatCount = 1) || (Config.minPeriod ≤ period && period ≤ Config.maxSpan)

/-- A start value in the range its start mode allows (R10, R17). -/
def startAccepted (m : StartMode) (start : Tick) : Bool :=
  match m with
  | .absolute => true
  | .relative => start.toNat ≤ Config.maxSpan
  | .trigger _ _ => start.toNat ≤ Config.maxSpan

/-- The start mode of a TICK definition (Table 10-5). -/
def startModeOf (d : LoadFields) : Option StartMode :=
  match d.startMode.toNat with
  | 0 => some .absolute
  | 1 => some .relative
  | 2 => some (.trigger d.triggerLine.toFin (if d.triggerMode = 0 then .once else .retrigger))
  | _ => none

/-- The timing part of a LOAD (R10). -/
def timingOf (d : LoadFields) : Option Timing :=
  match d.kind.toNat with
  | 0 =>
    (startModeOf d).bind fun m =>
      if startAccepted m d.area && periodAccepted d.period.toNat d.repeatCount.toNat then
        some (.tick m d.area d.period.toNat)
      else none
  | 1 => if d.period = 0 then (patternOf d.area).map .calendar else none
  | _ => none

/-- The notify policy code (Table 10-5). -/
def policyOf (c : BitVec 2) : Option NotifyPolicy :=
  match c.toNat with
  | 0 => some .every
  | 1 => some .last
  | 2 => some .none
  | _ => none

/-- The definition a LOAD carries, if it is valid (R10, R11). Action words beyond the count are not read. -/
def definitionOf (d : LoadFields) : Option Definition :=
  if d.actionCount.toNat ≤ 4 then
    (timingOf d).bind fun timing => (policyOf d.policy).bind fun policy =>
    (actionsOf (d.words.toList.take d.actionCount.toNat)).map fun actions =>
      { timing, repeatCount := d.repeatCount.toNat, policy, ring := d.ring.toFin, tag := d.tag, actions }
  else none

/-- A RETIME that breaks no range of R17. -/
def retimeAccepted (m : StartMode) (repeatCount : Nat) (f : RetimeFields) : Bool :=
  (match f.start with
    | none => true
    | some x => startAccepted m x) &&
  (match f.period with
    | none => true
    | some p => periodAccepted p.toNat repeatCount)

/-- The edge mode code (Table 10-1). -/
def edgeModeOf (b : Byte) : Option EdgeMode :=
  match b.toNat with
  | 0 => some .off
  | 1 => some .rising
  | 2 => some .falling
  | 3 => some .both
  | _ => none

/-- A qualification count of 1, 2, 4 or 8 (R110). -/
def qualifyOf (b : Byte) : Option Nat := if b.toNat ∈ [1, 2, 4, 8] then some b.toNat else none

/-- A CAPTURE_SETUP record that passes R110. -/
structure CaptureSetup where
  line : CaptureId
  edgeMode : EdgeMode
  qualify : Nat
  interval : Nat
  notify : Bool
  ring : NoticeRingId
deriving DecidableEq, Repr

/-- The setup a CAPTURE_SETUP record carries, if it is valid (R110). -/
def captureSetupOf (f : CaptureSetupFields) : Option CaptureSetup :=
  if f.interval = 0 then none
  else
    (captureOf f.line).bind fun line => (edgeModeOf f.mode).bind fun edgeMode =>
    (qualifyOf f.qualify).bind fun qualify => (choiceOf f.notify).bind fun notify =>
    (noticeRingOf f.ring).map fun ring => { line, edgeMode, qualify, interval := f.interval.toNat, notify, ring }

/-- A LINE_SETUP record that passes R63. -/
structure LineSetup where
  line : LineId
  enable : Bool
  safe : Level
  initial : Level
deriving DecidableEq, Repr

/-- The setup a LINE_SETUP record carries, if it is valid (R63). -/
def lineSetupOf (f : LineSetupFields) : Option LineSetup :=
  (lineOf f.line).bind fun line => (choiceOf f.enable).bind fun enable =>
  (levelOf f.safe).bind fun safe => (levelOf f.initial).map fun initial => { line, enable, safe, initial }

/-- A trim value in range (R75): the 32-bit field is signed (R175). -/
def trimOf (v : BitVec 32) : Option Int :=
  if -(Config.maxTrim : Int) ≤ v.toInt ∧ v.toInt ≤ Config.maxTrim then some v.toInt else none

/-- One of the nine ring sizes (R163). -/
def ringSizeOf (n : Nat) : Option Nat :=
  if n ∈ [16, 32, 64, 128, 256, 512, 1024, 2048, 4096] then some n else none

end Sys2Proof.Machine
end

