-- ==== Sys2Proof/Machine/Formats.lean ====
section
/-! DEFINITION. Record formats (file 10): command records and the setup block read into operands, notice records
written as bytes, and the cells of system memory. -/

namespace Sys2Proof.Machine

open Sys2Proof

/-! ### Reading records -/

/-- The `w`-bit little-endian field at byte offset `o` of a record (R174). -/
def fieldAt {n : Nat} (record : BitVec n) (o w : Nat) : BitVec w := record.extractLsb' (8 * o) w

/-- The header of a command record (Table 10-2). -/
def headerOf (r : CommandRecord) : Header :=
  { ident := fieldAt r 2 16, slot := slotOf (fieldAt r 4 8), generation := fieldAt r 5 8 }

/-- The action word at byte offset `o` (Table 10-6). -/
def actionWordAt (r : CommandRecord) (o : Nat) : ActionWord :=
  { kind := fieldAt r o 8, target := fieldAt r (o + 1) 8, level := fieldAt r (o + 2) 8,
    divider := fieldAt r (o + 3) 8, value := fieldAt r (o + 4) 32 }

/-- The LOAD fields of a record (Tables 10-4 and 10-5). -/
def loadFieldsOf (r : CommandRecord) : LoadFields :=
  let p : BitVec 16 := fieldAt r 6 16
  { kind := p.extractLsb' 0 2, startMode := p.extractLsb' 2 2, triggerMode := p.extractLsb' 4 1,
    triggerLine := p.extractLsb' 5 3, policy := p.extractLsb' 8 2, ring := p.extractLsb' 10 1,
    actionCount := p.extractLsb' 11 3, tag := fieldAt r 0x08 64, area := fieldAt r 0x10 64,
    period := fieldAt r 0x18 48, repeatCount := fieldAt r 0x1E 16,
    words := #v[actionWordAt r 0x20, actionWordAt r 0x28, actionWordAt r 0x30, actionWordAt r 0x38] }

/-- A RETIME value, read where its flag bit is set (Table 10-4). -/
def retimeValue (r : CommandRecord) (bit o : Nat) : Option (BitVec 64) :=
  if (fieldAt r 1 8 : Byte).getLsbD bit then some (fieldAt r o 64) else none

/-- The RETIME fields of a record. -/
def retimeFieldsOf (r : CommandRecord) : RetimeFields :=
  { start := retimeValue r 0 0x08, period := retimeValue r 1 0x10, expiry := retimeValue r 2 0x18 }

/-- The SET_CALENDAR fields of a record. -/
def calendarFieldsOf (r : CommandRecord) : CalendarFields :=
  { year := fieldAt r 0x08 16, month := fieldAt r 0x0A 8, day := fieldAt r 0x0B 8, hour := fieldAt r 0x0C 8,
    minute := fieldAt r 0x0D 8, second := fieldAt r 0x0E 8 }

/-- The LINE_SETUP bytes of a record. -/
def lineSetupFieldsOf (r : CommandRecord) : LineSetupFields :=
  { line := fieldAt r 0x08 8, enable := fieldAt r 0x09 8, safe := fieldAt r 0x0A 8, initial := fieldAt r 0x0B 8 }

/-- The CAPTURE_SETUP fields of a record. -/
def captureSetupFieldsOf (r : CommandRecord) : CaptureSetupFields :=
  { line := fieldAt r 0x08 8, mode := fieldAt r 0x09 8, qualify := fieldAt r 0x0A 8, notify := fieldAt r 0x0B 8,
    ring := fieldAt r 0x0C 8, interval := fieldAt r 0x0E 16 }

/-- The level of a bit. -/
def levelOfBool (b : Bool) : Level := if b then .high else .low

/-- The command a record carries by its kind code (Table 10-3); an unknown code gives none (R149). -/
def commandOf (r : CommandRecord) (pins : BitVec 8) : Option Command :=
  match (fieldAt r 0 8 : Byte).toNat with
  | 0x01 => some (.load (loadFieldsOf r))
  | 0x02 => some .start
  | 0x03 => some .stop
  | 0x04 => some (.retime (retimeFieldsOf r))
  | 0x05 => some .unload
  | 0x06 => some .query
  | 0x07 => some (.wait (fieldAt r 0x08 64))
  | 0x08 => some .nop
  | 0x09 => some .readTime
  | 0x0A => some (.setCalendar (calendarFieldsOf r))
  | 0x0B => some (.stepTimebase (fieldAt r 0x08 64))
  | 0x0C => some (.trimRate (fieldAt r 0x08 32))
  | 0x0D => some (.lineSetup (lineSetupFieldsOf r))
  | 0x0E => some (.lineForce (actionWordAt r 0x08))
  | 0x0F =>
    some (.captureSetup (captureSetupFieldsOf r)
      (levelOfBool (pins.getLsbD (fieldAt r 0x08 8 : Byte).toNat)))
  | _ => none

/-! ### The setup block -/

/-- A valid setup block (R163). -/
structure SetupConfig where
  commands : Vector CommandConfig 4
  notices : Vector NoticeConfig 2
  lateThreshold : Nat
deriving DecidableEq, Repr

/-- The command ring descriptor at byte offset `o`, if it is valid (Table 10-14, R163, R177). -/
def commandConfigAt (b : SetupBlock) (o : Nat) : Option CommandConfig :=
  let base : BitVec 64 := fieldAt b o 64
  let burst := (fieldAt b (o + 0x0B) 8 : Byte).toNat
  if base.toNat % 64 = 0 ∧ 1 ≤ burst ∧ burst ≤ 8 then
    (ringSizeOf (fieldAt b (o + 0x08) 16 : BitVec 16).toNat).bind fun size =>
    (noticeRingOf (fieldAt b (o + 0x0A) 8)).bind fun bound =>
    (choiceOf (fieldAt b (o + 0x0C) 8)).map fun enabled => { base, size, bound, burst, enabled }
  else none

/-- The notice ring descriptor at byte offset `o`, if it is valid (Table 10-14, R163, R177). -/
def noticeConfigAt (b : SetupBlock) (o : Nat) : Option NoticeConfig :=
  let base : BitVec 64 := fieldAt b o 64
  let threshold := (fieldAt b (o + 0x0A) 16 : BitVec 16).toNat
  let holdoff := (fieldAt b (o + 0x0C) 32 : BitVec 32).toNat
  (ringSizeOf (fieldAt b (o + 0x08) 16 : BitVec 16).toNat).bind fun size =>
    if base.toNat % 32 = 0 ∧ 1 ≤ threshold ∧ threshold ≤ size ∧ holdoff ≤ Config.maxWidth then
      (choiceOf (fieldAt b (o + 0x10) 8)).map fun enabled => { base, size, threshold, holdoff, enabled }
    else none

/-- The configuration a setup block carries, if every descriptor is valid (R163). The late threshold's 16 bits
hold no value out of range. -/
def setupConfigOf (b : SetupBlock) : Option SetupConfig :=
  (commandConfigAt b 0x00).bind fun c0 => (commandConfigAt b 0x10).bind fun c1 =>
  (commandConfigAt b 0x20).bind fun c2 => (commandConfigAt b 0x30).bind fun c3 =>
  (noticeConfigAt b 0x40).bind fun n0 => (noticeConfigAt b 0x58).map fun n1 =>
    { commands := #v[c0, c1, c2, c3], notices := #v[n0, n1],
      lateThreshold := (fieldAt b 0x70 16 : BitVec 16).toNat }

/-! ### Codes -/

/-- Table 10-1. -/
def Level.code : Level → Nat
  | .low => 0
  | .high => 1

/-- A level that may be absent, FFh if it is (R174). -/
def levelByte : Option Level → Nat
  | some v => Level.code v
  | none => 0xFF

/-- Table 10-1. -/
def EdgeMode.code : EdgeMode → Nat
  | .off => 0
  | .rising => 1
  | .falling => 2
  | .both => 3

/-- Table 10-1. -/
def resumeModeCode : ResumeMode → Nat
  | .catchup => 0
  | .discard => 1

/-- Table 10-9. -/
def Status.code : Status → Nat
  | .ok => 0x00
  | .alreadyStopped => 0x01
  | .notLoaded => 0x02
  | .stale => 0x03
  | .slotBusy => 0x04
  | .notDormant => 0x05
  | .wrongKind => 0x06
  | .noticePending => 0x07
  | .calendarFull => 0x08
  | .busy => 0x09
  | .superseded => 0x0A
  | .timedOut => 0x0B
  | .lineDisabled => 0x0C
  | .halted => 0x0D
  | .badCommand => 0x0E
  | .badParam => 0x0F

/-- A bit of weight 2 to the power `i`. -/
def bitAt (i : Nat) (b : Bool) : Nat := if b then 2 ^ i else 0

/-- Table 10-10. -/
def FiringFlags.code (f : FiringFlags) : Nat :=
  bitAt 0 f.late + bitAt 1 f.last + bitAt 2 f.coalesced + bitAt 3 f.actionFailed + bitAt 4 f.haltedOver
    + bitAt 5 f.missed + bitAt 6 f.noMatch

/-- A trim as a 16-bit two's complement field, 8000h if absent (R174). -/
def trimWord : Option Int → Nat
  | some v => (BitVec.ofInt 16 v).toNat
  | none => 0x8000

/-! ### Writing notice records -/

/-- Value `v` in a field of `bytes` bytes at byte offset `o` of a notice record (R174). -/
def putField (o bytes v : Nat) : NoticeRecord := (BitVec.ofNat 256 (v % 2 ^ (8 * bytes))) <<< (8 * o)

/-- The slot row of Table 10-12. -/
def slotResultRecord (r : SlotResult) : NoticeRecord :=
  putField 0x08 1 r.state ||| putField 0x09 1 r.generation.toNat
    ||| putField 0x0A 1 (bitAt 0 r.remaining.isSome + bitAt 1 r.expiry.isSome + bitAt 2 r.noticePending
      + bitAt 3 r.expiryApplied + bitAt 4 r.triggerLine.isSome)
    ||| putField 0x0B 1 (r.triggerLine.elim 0 Fin.val) ||| putField 0x0C 2 (r.remaining.getD 0)
    ||| putField 0x0E 1 (bitAt 0 r.calendarKind) ||| putField 0x10 4 r.firingsDone
    ||| putField 0x18 8 (r.expiry.elim 0 BitVec.toNat)

/-- The READ_TIME row of Table 10-12. -/
def timeResultRecord (r : TimeResult) : NoticeRecord :=
  putField 0x08 8 r.tick.toNat ||| putField 0x10 2 r.year ||| putField 0x12 1 r.month ||| putField 0x13 1 r.day
    ||| putField 0x14 1 r.hour ||| putField 0x15 1 r.minute ||| putField 0x16 1 r.second
    ||| putField 0x17 1 r.weekday ||| putField 0x18 4 r.into ||| putField 0x1C 2 (trimWord (some r.trim))
    ||| putField 0x1E 2 (trimWord r.pending)

/-- The CAPTURE_SETUP row of Table 10-12. -/
def captureResultRecord (r : CaptureResult) : NoticeRecord :=
  putField 0x08 1 (EdgeMode.code r.edgeMode) ||| putField 0x09 1 r.qualify ||| putField 0x0A 1 (bitAt 0 r.notify)
    ||| putField 0x0B 1 r.ring.val ||| putField 0x0C 2 r.interval ||| putField 0x0E 1 (levelByte r.stable)
    ||| putField 0x0F 1 (bitAt 0 r.heldPresent) ||| putField 0x10 1 r.lost
    ||| putField 0x12 2 r.edgeSequence.toNat ||| putField 0x14 2 r.waiting

/-- The result bytes of a completion (Table 10-12). -/
def resultRecord : Result → NoticeRecord
  | .zero => 0
  | .slot r => slotResultRecord r
  | .time r => timeResultRecord r
  | .trim value pending tick second =>
    putField 0x08 2 (trimWord (some value)) ||| putField 0x0A 2 (trimWord pending) ||| putField 0x10 8 tick.toNat
      ||| putField 0x18 5 second
  | .step before stepped second applied =>
    putField 0x08 8 before.toNat ||| putField 0x10 8 stepped.toNat ||| putField 0x18 5 second
      ||| putField 0x1D 1 (bitAt 0 applied)
  | .calendar tick second placed matched noMatch stopped =>
    putField 0x08 8 tick.toNat ||| putField 0x10 5 second ||| putField 0x15 1 placed ||| putField 0x16 1 matched
      ||| putField 0x17 1 noMatch ||| putField 0x18 1 stopped
  | .lineSetup st safe held pin =>
    putField 0x08 1 st ||| putField 0x09 1 (Level.code safe) ||| putField 0x0A 1 (levelByte held)
      ||| putField 0x0B 1 (Level.code pin)
  | .lineForce st held densityPending pin =>
    putField 0x08 1 st ||| putField 0x09 1 (levelByte held) ||| putField 0x0A 1 (bitAt 0 densityPending)
      ||| putField 0x0B 1 (Level.code pin)
  | .capture r => captureResultRecord r

/-- Subkind and detail of a system notice (Tables 10-8, 10-11). -/
def systemCodes : SystemBody → Nat × Nat
  | .commandFault r => (1, r.val)
  | .noticeFault k _ => (1, 4 + k.val)
  | .badIndex offset => (2, offset.toNat)
  | .halted software pin => (3, bitAt 0 software + bitAt 1 pin)
  | .resumed mode => (4, resumeModeCode mode)

/-- The lost-record count a system notice carries (Table 10-8). -/
def systemLostRecords : SystemBody → Nat
  | .noticeFault _ n => n
  | .commandFault _ => 0
  | .badIndex _ => 0
  | .halted _ _ => 0
  | .resumed _ => 0

/-- A notice as its 32 bytes, with the phase bit clear (Tables 10-7, 10-8). -/
def noticeBody : Notice → NoticeRecord
  | .completion ring status ident takeIndex result =>
    putField 0x00 1 1 ||| putField 0x01 1 (Status.code status) ||| putField 0x02 1 ring.val
      ||| putField 0x04 2 ident.toNat ||| putField 0x06 2 takeIndex ||| resultRecord result
  | .firing slot generation tag r =>
    putField 0x00 1 (2 + r.mask.toNat * 8) ||| putField 0x01 1 slot.val ||| putField 0x02 1 generation.toNat
      ||| putField 0x03 1 r.flags.code ||| putField 0x04 2 r.count ||| putField 0x06 2 r.overruns
      ||| putField 0x08 8 tag.toNat ||| putField 0x10 8 r.expiry.toNat ||| putField 0x18 8 r.fire.toNat
  | .edge line direction timestamp sequence lost =>
    putField 0x00 1 3 ||| putField 0x01 1 line.val ||| putField 0x02 1 (Level.code direction)
      ||| putField 0x03 1 lost ||| putField 0x04 2 sequence.toNat ||| putField 0x08 8 timestamp.toNat
  | .system n lost =>
    putField 0x00 1 4 ||| putField 0x01 1 (systemCodes n.body).1 ||| putField 0x02 1 lost
      ||| putField 0x03 1 (systemCodes n.body).2 ||| putField 0x04 2 (systemLostRecords n.body)
      ||| putField 0x08 8 n.tick.toNat

/-- A notice record as it is written, with its phase in bit 7 of byte 00h (R176). -/
def noticeRecord (phase : Bool) (n : Notice) : NoticeRecord := noticeBody n ||| putField 0x00 1 (bitAt 7 phase)

/-! ### System memory -/

/-- The canonical form: strictly rising addresses. -/
abbrev Memory.wf (m : Memory) : Prop := m.Pairwise fun a b => a.1 < b.1

/-- What the controller last wrote at an address, if it has written there. -/
def Memory.read (m : Memory) (a : Nat) : Option Byte := (m.find? fun c => c.1 = a).map Prod.snd

/-- Memory after one byte is written. -/
def Memory.write (a : Nat) (v : Byte) : Memory → Memory
  | [] => [(a, v)]
  | c :: cs => if a < c.1 then (a, v) :: c :: cs else if a = c.1 then (a, v) :: cs else c :: Memory.write a v cs

/-- Memory after `n` bytes are written from address `a` upward, byte `i` being `f i`. -/
def Memory.writeBytes (a : Nat) (f : Nat → Byte) : Nat → Memory → Memory
  | 0, m => m
  | n + 1, m => Memory.write (a + n) (f n) (Memory.writeBytes a f n m)

/-- Memory after the write of a notice record ends good: its 32 bytes stand at its place (R121). -/
def Memory.writeRecord (q : Queued) (m : Memory) : Memory :=
  Memory.writeBytes q.address (fun i => fieldAt (noticeRecord q.phase q.notice) i 8) 32 m

/-- Memory after the write of a notice record ends with a bus error: each of its 32 bytes is a free value, the
`n`-th and following ones (log entry 5). -/
def Memory.spoilRecord (q : Queued) (n : Nat) (m : Memory) : Memory :=
  Memory.writeBytes q.address (fun i => Config.freeByte (n + i)) 32 m

end Sys2Proof.Machine
end

