-- ==== Sys2Proof/Machine/Ops.lean ====
section
/-! DEFINITION. The named operations every command is built from: record updates, ticks, the timeline, the
waiting lists, posting, offering and serving notices, reservations, completions, the arbiter, dormancy. -/

namespace Sys2Proof.Machine

open Sys2Proof

/-! ### Ticks and counts -/

/-- A sum of ticks that stays at 2^64-1 (R52, R104, R136, R152). -/
def satTick (t : Tick) (n : Nat) : Tick := BitVec.ofNat 64 (min (t.toNat + n) Config.maxTick)

/-- A sum of ticks formed modulo 2^64 (R13, R21, R113). -/
def wrapTick (t delay : Tick) : Tick := t + delay

/-- The timebase stands at or beyond a tick. -/
def TimeUnit.reached (u : TimeUnit) (x : Tick) : Bool := x.toNat ≤ u.timebase.toNat

/-- A count that saturates at `top`. -/
def satCount (top n : Nat) : Nat := min n top

/-! ### One record of a block -/

/-- Replaces one slot record. -/
def setSlot (i : SlotId) (x : Slot) (s : State) : State := { s with slots := s.slots.set i x }

/-- Replaces one output line record. -/
def setLine (l : LineId) (x : Line) (s : State) : State := { s with lines := s.lines.set l x }

/-- Replaces one capture line record. -/
def setCapture (c : CaptureId) (x : CaptureLine) (s : State) : State :=
  { s with capture := { s.capture with lines := s.capture.lines.set c x } }

/-- Replaces one notice ring record. -/
def setNotice (k : NoticeRingId) (x : NoticeRing) (s : State) : State := { s with notices := s.notices.set k x }

/-- Replaces one command ring record. -/
def setRing (r : CommandRingId) (x : CommandRing) (s : State) : State :=
  { s with intake := { s.intake with rings := s.intake.rings.set r x } }

/-- Replaces the event of a loaded slot. -/
def setEvent (i : SlotId) (e : Event) (s : State) : State := setSlot i { s.slots[i] with event := some e } s

/-- Changes the state of a loaded slot; a FREE slot is left as it is. -/
def setRun (i : SlotId) (r : Run) (s : State) : State :=
  match s.slots[i].event with
  | some e => setEvent i { e with run := r } s
  | none => s

/-- Sets a slot's notice pending field (R3). -/
def setNoticePending (i : SlotId) (b : Bool) (s : State) : State :=
  setSlot i { s.slots[i] with noticePending := b } s

/-! ### Commands taken -/

/-- What a command was taken with: its ring, its identifier, and the take index its completion reports (R146). -/
structure CommandRef where
  ring : CommandRingId
  ident : BitVec 16
  takeIndex : Nat
deriving DecidableEq, Repr

/-- What the owner of a command answers when it has taken it: a completion, or an entry of the outstanding list
whose completion comes later (R150, R151). -/
inductive Answer where
  | complete (status : Status) (result : Result)
  | owe (kind : OwedKind)
deriving DecidableEq, Repr

/-! ### Conditions of the controller -/

/-- At least one halt cause is latched. -/
def Control.causeLatched (c : Control) : Bool := c.software || c.pin

/-- The controller is HALTED: RUNNING with a cause latched (R159). -/
def State.halted (s : State) : Bool := s.control.core = .running && s.control.causeLatched

/-! ### Definitions -/

/-- The definition is of CALENDAR kind. -/
def Definition.isCalendar (d : Definition) : Bool :=
  match d.timing with
  | .calendar _ => true
  | .tick _ _ _ => false

/-- The trigger line of a TRIGGER definition. -/
def Definition.triggerLine (d : Definition) : Option CaptureId :=
  match d.timing with
  | .tick (.trigger c _) _ _ => some c
  | .tick .absolute _ _ => none
  | .tick .relative _ _ => none
  | .calendar _ => none

/-- The trigger line of a definition whose trigger mode is RETRIGGER. -/
def Definition.retriggerLine (d : Definition) : Option CaptureId :=
  match d.timing with
  | .tick (.trigger c .retrigger) _ _ => some c
  | .tick (.trigger _ .once) _ _ => none
  | .tick .absolute _ _ => none
  | .tick .relative _ _ => none
  | .calendar _ => none

/-- The repeat count as the remaining of a fresh run: absent when unbounded (R2). -/
def Definition.freshRemaining (d : Definition) : Option Nat :=
  if d.repeatCount = 0 then none else some d.repeatCount

/-! ### Timeline -/

/-- Places an entry after every entry of its expiry and before every entry of greater expiry (R23, R24). -/
def insertEntry (e : Entry) : List Entry → List Entry
  | [] => [e]
  | x :: xs => if e.expiry.toNat < x.expiry.toNat then e :: x :: xs else x :: insertEntry e xs

/-- The sequence counter after an insertion (R24). -/
def nextSequenceAfter (q : BitVec 64) : BitVec 64 := satTick q 1

/-- Inserts a slot into the timeline with expiry `x` and a fresh sequence number, and makes it ARMED (R25). -/
def arm (i : SlotId) (x : Tick) (s : State) : State :=
  setRun i (.armed x s.timeline.nextSequence)
    { s with timeline :=
        { s.timeline with
          entries := insertEntry
            { slot := i, expiry := x, sequence := s.timeline.nextSequence, haltedOver := false } s.timeline.entries
          nextSequence := nextSequenceAfter s.timeline.nextSequence } }

/-- Removes a slot's entry from the timeline (R26). -/
def removeEntry (i : SlotId) (s : State) : State :=
  { s with timeline := { s.timeline with entries := s.timeline.entries.filter fun e => e.slot ≠ i } }

/-! ### Waiting lists -/

/-- Takes a slot off a line's waiting list (R112). -/
def leaveWaiting (c : CaptureId) (i : SlotId) (s : State) : State :=
  setCapture c
    { s.capture.lines[c] with waiting := s.capture.lines[c].waiting.filter fun j => j ≠ i } s

/-- Puts a slot at the tail of a line's waiting list, from its place there if it has one (R112). -/
def joinWaiting (c : CaptureId) (i : SlotId) (s : State) : State :=
  setCapture c
    { s.capture.lines[c] with waiting := (s.capture.lines[c].waiting.filter fun j => j ≠ i) ++ [i] } s

/-! ### Notice ring places -/

/-- The size of a ring, 0 where it is not configured. -/
def NoticeRing.size (x : NoticeRing) : Nat := x.config.elim 0 NoticeConfig.size

/-- occupied + reserved is less than size (R120). -/
def NoticeRing.hasRoom (x : NoticeRing) : Bool := x.occupied + x.reserved < x.size

/-- The unreleased count (Table 7-1). -/
def NoticeRing.unreleased (x : NoticeRing) : Nat := x.written.length

/-- The oldest post tick (Table 7-1). -/
def NoticeRing.oldest (x : NoticeRing) : Option Tick := x.written.head?

/-- A record takes the place at the write index (R121). -/
def NoticeRing.takePlace (n : Notice) (x : NoticeRing) : NoticeRing :=
  { x with
    writeIndex := if x.writeIndex + 1 < x.size then x.writeIndex + 1 else 0
    phase := if x.writeIndex + 1 < x.size then x.phase else !x.phase
    occupied := x.occupied + 1
    queue := x.queue ++
      [{ place := x.writeIndex, address := (x.config.elim 0 fun c => c.base.toNat) + 32 * x.writeIndex,
         phase := x.phase, notice := n, released := false }] }

/-- Posts a notice on ring `k` (R121). -/
def postNotice (k : NoticeRingId) (n : Notice) (s : State) : State := setNotice k (s.notices[k].takePlace n) s

/-- The lost-record count one higher, saturating (R133). -/
def NoticeRing.loseRecords (n : Nat) (x : NoticeRing) : NoticeRing :=
  { x with lostRecords := satCount 65535 (x.lostRecords + n) }

/-- Whether ring `x` is ready at timebase `t` (R135). -/
def NoticeRing.isReady (x : NoticeRing) (u : TimeUnit) : Bool :=
  match x.config, x.oldest with
  | some c, some t => c.threshold ≤ x.unreleased || u.reached (satTick t c.holdoff)
  | some _, none => false
  | none, some _ => false
  | none, none => false

/-- The re-evaluation of a ring's ready status (R135). -/
def evalReady (k : NoticeRingId) (s : State) : State :=
  setNotice k { s.notices[k] with ready := s.notices[k].isReady s.time } s

/-! ### Offers -/

/-- An offer is posted at once: the ring is ACTIVE, has room, and its deferred list is empty (R125). -/
def NoticeRing.takesOffer (x : NoticeRing) : Bool := x.state = .active && x.hasRoom && x.deferred.isEmpty

/-- The flags of two reports together (R127). -/
def FiringFlags.combine (a b : FiringFlags) : FiringFlags :=
  { late := a.late || b.late, last := a.last || b.last, coalesced := a.coalesced || b.coalesced,
    actionFailed := a.actionFailed || b.actionFailed, haltedOver := a.haltedOver || b.haltedOver,
    missed := a.missed || b.missed, noMatch := a.noMatch || b.noMatch }

/-- A deferred firing record with a further offer merged into it (R127). -/
def FiringReport.merge (old new : FiringReport) : FiringReport :=
  { expiry := old.expiry, fire := new.fire, count := satCount 65535 (old.count + 1),
    overruns := satCount 65535 (old.overruns + new.overruns), flags := old.flags.combine new.flags,
    mask := old.mask ||| new.mask }

/-- The deferred list after a firing offer of slot `i`: merged where the slot stands, else at the tail (R125,
R127). -/
def deferFiring (i : SlotId) (p : FiringReport) : List Deferred → List Deferred
  | [] => [.slot i p]
  | .slot j old :: ds => if j = i then .slot j (old.merge p) :: ds else .slot j old :: deferFiring i p ds
  | .line c :: ds => .line c :: deferFiring i p ds
  | .system n lost :: ds => .system n lost :: deferFiring i p ds

/-- The deferred list after a system offer: counted as lost where SYSTEM stands, else at the tail (R129). -/
def deferSystem (n : SystemNotice) : List Deferred → List Deferred
  | [] => [.system n 0]
  | .system kept lost :: ds => .system kept (satCount 255 (lost + 1)) :: ds
  | .slot j p :: ds => .slot j p :: deferSystem n ds
  | .line c :: ds => .line c :: deferSystem n ds

/-- The firing notice of slot `i`, with the slot's generation and tag as they stand (R37, R127). -/
def firingNotice (i : SlotId) (p : FiringReport) (s : State) : Notice :=
  .firing i s.slots[i].generation (s.slots[i].event.elim 0 fun e => e.defn.tag) p

/-- Offers a firing notice of slot `i` to ring `k` (R125 to R127). -/
def offerFiring (k : NoticeRingId) (i : SlotId) (p : FiringReport) (s : State) : State :=
  if s.notices[k].takesOffer then postNotice k (firingNotice i p s) s
  else setNoticePending i true (setNotice k { s.notices[k] with deferred := deferFiring i p s.notices[k].deferred } s)

/-- Offers the edge notice of a capture line that holds no held record (R107, R128). -/
def offerEdge (c : CaptureId) (direction : Level) (timestamp : Tick) (s : State) : State :=
  let x := s.capture.lines[c]
  if s.notices[x.ring].takesOffer then
    postNotice x.ring (.edge c direction timestamp x.edgeSequence 0) s
  else
    setCapture c
      { x with held := some { direction, timestamp, sequence := x.edgeSequence, ring := x.ring } }
      (setNotice x.ring { s.notices[x.ring] with deferred := s.notices[x.ring].deferred ++ [.line c] } s)

/-- A system notice with the lost-record count of NR1 as it stands, if it reports a fault of NR1 (R132). -/
def atPosting (n : SystemNotice) (s : State) : SystemNotice :=
  match n.body with
  | .noticeFault k lost => { n with body := .noticeFault k (if k = 1 then s.notices[k].lostRecords else lost) }
  | .commandFault _ => n
  | .badIndex _ => n
  | .halted _ _ => n
  | .resumed _ => n

/-- Offers a system notice to NR0, while the core is RUNNING (R129). -/
def offerSystem (body : SystemBody) (s : State) : State :=
  let n : SystemNotice := { body, tick := s.time.timebase }
  if s.control.core = .running then
    if s.notices[(0 : NoticeRingId)].takesOffer then postNotice 0 (.system (atPosting n s) 0) s
    else setNotice 0
      { s.notices[(0 : NoticeRingId)] with deferred := deferSystem n s.notices[(0 : NoticeRingId)].deferred } s
  else s

/-! ### Serving free places -/

/-- A deferred firing record as it is written: COALESCED when its count is greater than 1 (R127). -/
def FiringReport.posted (p : FiringReport) : FiringReport :=
  if 1 < p.count then { p with flags := { p.flags with coalesced := true } } else p

/-- Posts a source that has left the deferred list of ring `k` (R124, R127 to R129). -/
def postDeferred (k : NoticeRingId) (d : Deferred) (s : State) : State :=
  match d with
  | .slot i p => setNoticePending i false (postNotice k (firingNotice i p.posted s) s)
  | .line c =>
    match s.capture.lines[c].held with
    | some h =>
      setCapture c { s.capture.lines[c] with held := none, lost := 0 }
        (postNotice k (.edge c h.direction h.timestamp h.sequence s.capture.lines[c].lost) s)
    | none => s
  | .system n lost => postNotice k (.system (atPosting n s) lost) s

/-- Posts sources from the head of the deferred list while ring `k` is ACTIVE with room (R124 step 1), at most
`fuel` of them. -/
def serveDeferred (k : NoticeRingId) : Nat → State → State
  | 0, s => s
  | fuel + 1, s =>
    match s.notices[k].deferred with
    | [] => s
    | d :: ds =>
      if s.notices[k].state = .active && s.notices[k].hasRoom then
        serveDeferred k fuel (postDeferred k d (setNotice k { s.notices[k] with deferred := ds } s))
      else s

/-- Grants the head request of ring `k` to command ring `r` (R124 step 2, R145). -/
def grantRequest (k : NoticeRingId) (r : CommandRingId) (rest : List CommandRingId) (s : State) : State :=
  setRing r
    { s.intake.rings[r] with requestOutstanding := false, fetchReservation := true, state := .active }
    (setNotice k { s.notices[k] with reserved := s.notices[k].reserved + 1, requests := rest } s)

/-- Grants requests in order while ring `k` is ACTIVE with room and an empty deferred list (R124 step 2), at
most `fuel` of them. -/
def serveRequests (k : NoticeRingId) : Nat → State → State
  | 0, s => s
  | fuel + 1, s =>
    match s.notices[k].requests with
    | [] => s
    | r :: rs =>
      if s.notices[k].takesOffer then serveRequests k fuel (grantRequest k r rs s) else s

/-- The arbiter over the free places of ring `k` (R124): deferred sources first, then requests. -/
def serve (k : NoticeRingId) (s : State) : State :=
  let t := serveDeferred k s.notices[k].deferred.length s
  serveRequests k t.notices[k].requests.length t

/-- Returns `n` reservations to ring `k` and serves the freed places (R123). -/
def returnReservations (k : NoticeRingId) (n : Nat) (s : State) : State :=
  serve k (setNotice k { s.notices[k] with reserved := s.notices[k].reserved - n } s)

/-! ### Completions -/

/-- Hands a completion with its reservation to ring `k` (R123): it takes a place on an ACTIVE ring, and is lost
and counted on one that is not. -/
def useReservation (k : NoticeRingId) (n : Notice) (s : State) : State :=
  let x := { s.notices[k] with reserved := s.notices[k].reserved - 1 }
  if x.state = .active then setNotice k (x.takePlace n) s else setNotice k (x.loseRecords 1) s

/-- The notice ring a command ring is bound to, if it is configured. -/
def CommandRing.bound? (x : CommandRing) : Option NoticeRingId := x.config.map CommandConfig.bound

/-- Hands the completion of a command of ring `r` to the bound notice ring (R150). -/
def handCompletion (r : CommandRingId) (ident : BitVec 16) (takeIndex : Nat) (status : Status) (result : Result)
    (s : State) : State :=
  match s.intake.rings[r].bound? with
  | some k => useReservation k (.completion r status ident takeIndex result) s
  | none => s

/-- Hands a deferred completion, if its entry still stands on the outstanding list; discards it otherwise
(R151). -/
def completeOwed (r : CommandRingId) (o : Owed) (status : Status) (result : Result) (s : State) : State :=
  if o ∈ s.intake.rings[r].outstanding then
    handCompletion r o.ident o.takeIndex status result
      (setRing r { s.intake.rings[r] with outstanding := s.intake.rings[r].outstanding.erase o } s)
  else s

/-! ### Slot results -/

/-- The slot state's code (Table 10-1). -/
def Slot.stateCode (x : Slot) : Nat :=
  match x.event with
  | none => 0
  | some e =>
    match e.run with
    | .dormant => 1
    | .waiting => 2
    | .resolving => 3
    | .armed _ _ => 4

/-- The expiry of an ARMED slot. -/
def Slot.expiry? (x : Slot) : Option Tick :=
  match x.event with
  | none => none
  | some e =>
    match e.run with
    | .dormant => none
    | .waiting => none
    | .resolving => none
    | .armed t _ => some t

/-- The trigger line of a slot whose definition has one (Table 1-1). -/
def Slot.triggerLine? (x : Slot) : Option CaptureId := x.event.bind fun e => e.defn.triggerLine

/-- The fields of the slot row, filled from the slot as the command leaves it (R8, R176). -/
def Slot.row (x : Slot) (expiryApplied : Bool) : SlotResult :=
  { state := x.stateCode, generation := x.generation, remaining := x.event.bind Event.remaining,
    expiry := x.expiry?, noticePending := x.noticePending, expiryApplied, triggerLine := x.triggerLine?,
    calendarKind := x.event.elim false fun e => e.defn.isCalendar,
    firingsDone := x.event.elim 0 Event.firingsDone }

/-- The slot row of a completion, QUERY's among them (R20, R176, log entry 21). -/
def Slot.result (x : Slot) (expiryApplied : Bool) : Result := .slot (x.row expiryApplied)

/-! ### Dormancy and the end of a WAIT -/

/-- The state of a command ring that is served again: STALLED while its bound notice ring is FAULTED (R153). -/
def servedState (x : CommandRing) (s : State) : CommandRingState :=
  match x.bound? with
  | some k => if s.notices[k].state = .faulted then .stalled else .active
  | none => .active

/-- Ends the WAIT in flight of ring `r` with a completion (R153). -/
def endWait (r : CommandRingId) (w : WaitInFlight) (status : Status) (s : State) : State :=
  let x := s.intake.rings[r]
  completeOwed r { kind := .wait, ident := w.ident, takeIndex := w.takeIndex } status (s.slots[w.slot].result false)
    (setRing r { x with wait := none, state := servedState x s } s)

/-- Ends the WAIT in flight of ring `r`, if it names slot `i`, with OK (R153). -/
def endWaitOn (i : SlotId) (s : State) (r : CommandRingId) : State :=
  match s.intake.rings[r].wait with
  | some w => if w.slot = i then endWait r w .ok s else s
  | none => s

/-- The dormancy report of slot `i`: every WAIT in flight on it ends, in ring order (R7, R153). -/
def reportDormant (i : SlotId) (s : State) : State := [0, 1, 2, 3].foldl (endWaitOn i) s

/-- Makes a slot DORMANT and reports it (R7). -/
def enterDormant (i : SlotId) (s : State) : State := reportDormant i (setRun i .dormant s)

/-! ### The arbiter of the fetch path -/

/-- The number of pending commands of a ring (R140). -/
def CommandRing.pendingCount (x : CommandRing) : Nat :=
  x.config.elim 0 fun c => (x.post + c.size - x.take) % c.size

/-- A ring is eligible when it is ACTIVE with a pending command (R143). -/
def CommandRing.eligible (x : CommandRing) : Bool := x.state = .active && x.pendingCount ≠ 0

/-- The ring whose fetch is in flight; the fetch path is free when there is none (R143). -/
def State.fetchingRing (s : State) : Option CommandRingId :=
  [(0 : CommandRingId), 1, 2, 3].find? fun r => s.intake.rings[r].fetch.isSome

/-- Step 2 of R143: the next eligible ring after the turn ring. -/
def nextEligible (s : State) : Option CommandRingId :=
  [s.intake.turn + 1, s.intake.turn + 2, s.intake.turn + 3, s.intake.turn + 4].find? fun r =>
    s.intake.rings[r].eligible

/-- Step 1 of R143: the turn ring is chosen again. -/
def turnGoesOn (s : State) : Bool :=
  s.intake.rings[s.intake.turn].eligible && !s.intake.turnOver
    && s.intake.count < s.intake.rings[s.intake.turn].config.elim 0 CommandConfig.burst

/-- Passes the turn to ring `r` (R143). -/
def passTurn (r : CommandRingId) (s : State) : State :=
  { s with intake := { s.intake with turn := r, count := 0, turnOver := false } }

/-- Ends the turn, so that the next choice passes it on (R143). -/
def endTurn (s : State) : State := { s with intake := { s.intake with turnOver := true } }

/-- Notes the end of a turn whose ring has left ACTIVE or has no pending command left (R143). -/
def noteTurn (s : State) : State := if s.intake.rings[s.intake.turn].eligible then s else endTurn s

/-- The address of place `p` of a command ring: base address + 64 × `p` (R146, log entry 7). -/
def CommandRing.addressOf (x : CommandRing) (p : Nat) : Nat := (x.config.elim 0 fun c => c.base.toNat) + 64 * p

/-- The read of the place at a ring's take index, as it begins (R146). -/
def CommandRing.nextFetch (x : CommandRing) : Fetch :=
  { place := x.take, address := x.addressOf x.take, discarded := false }

/-- Starts the fetch of ring `r` with its fetch reservation (R144, R146). -/
def beginFetch (r : CommandRingId) (s : State) : State :=
  setRing r { s.intake.rings[r] with fetchReservation := false, fetch := some s.intake.rings[r].nextFetch } s

/-- A request is granted when it finds ring `x` ACTIVE with room and both lists empty (R122). -/
def NoticeRing.grantsAtOnce (x : NoticeRing) : Bool := x.takesOffer && x.requests.isEmpty

/-- The reservation request of chosen ring `r` is granted: the fetch starts (R122, R145). -/
def fetchWithGrant (k : NoticeRingId) (r : CommandRingId) (s : State) : State :=
  beginFetch r (setNotice k { s.notices[k] with reserved := s.notices[k].reserved + 1 } s)

/-- The reservation request of chosen ring `r` is not granted: it joins the request list, and the ring is
STALLED (R122, R145). -/
def stallOnRequest (k : NoticeRingId) (r : CommandRingId) (s : State) : State :=
  endTurn (setRing r { s.intake.rings[r] with requestOutstanding := true, state := .stalled }
    (setNotice k { s.notices[k] with requests := s.notices[k].requests ++ [r] } s))

/-- The ring that R143 chooses next, with the turn passed to it where its step 2 says so. -/
def choice (s : State) : Option (CommandRingId × State) :=
  if turnGoesOn s then some (s.intake.turn, s) else (nextEligible s).map fun r => (r, passTurn r s)

/-- The choices of R143, passing on over rings whose request is not granted. Each such ring leaves ACTIVE, so
that `fuel` of 5 always reaches the end of the choice. -/
def arbitrate : Nat → State → State
  | 0, s => s
  | fuel + 1, s =>
    if s.fetchingRing.isSome then s
    else
      match choice s with
      | none => s
      | some (r, t) =>
        if t.intake.rings[r].fetchReservation then beginFetch r t
        else
          match t.intake.rings[r].bound? with
          | none => t
          | some k =>
            if t.notices[k].grantsAtOnce then fetchWithGrant k r t
            else arbitrate fuel (stallOnRequest k r t)

/-- The arbiter's part of a happening: the turn is noted and, where the fetch path is free, the next choice is
made (R143, log entry 11). -/
def settle (s : State) : State := arbitrate 5 (noteTurn s)

/-! ### The resolver's queue and pass -/

/-- An item of slot `i` at the timebase joins the tail of the resolution queue (R88, R91). -/
def pushItem (i : SlotId) (member : Bool) (s : State) : State :=
  { s with resolver :=
      { s.resolver with
        queue := s.resolver.queue ++
          [{ slot := i, base := s.time.secondAt s.time.timebase.toNat,
             beginTick := BitVec.ofNat 64 (s.time.secondBegin s.time.timebase.toNat), member }] } }

/-- The started count one lower (R89). -/
def dropStarted (s : State) : State := { s with resolver := { s.resolver with started := s.resolver.started - 1 } }

/-- The result of a SET_CALENDAR completion (R98). -/
def Pass.result (p : Pass) : Result :=
  .calendar p.anchorTick p.anchorSecond p.placed p.matched p.noMatch p.stopped

/-- Ends the pass with a completion (R98, R99). -/
def endPass (p : Pass) (status : Status) (s : State) : State :=
  completeOwed p.ring { kind := .setCalendar, ident := p.ident, takeIndex := p.takeIndex } status p.result
    { s with resolver := { s.resolver with pass := none } }

/-- Records a pass, which ends with OK when all its items have ended (R98). -/
def notePass (p : Pass) (s : State) : State :=
  if p.placed ≤ p.matched + p.noMatch + p.stopped then endPass p .ok s
  else { s with resolver := { s.resolver with pass := some p } }

/-- Counts the end of a pass item, if the item belongs to the pass in flight (R98). -/
def countPass (member : Bool) (f : Pass → Pass) (s : State) : State :=
  match s.resolver.pass with
  | some p => if member then notePass (f p) s else s
  | none => s

/-- Takes a RESOLVING slot's item away: off the queue, or by abandoning the work; a pass member is counted as
stopped (R96). -/
def dropItem (i : SlotId) (s : State) : State :=
  match s.resolver.queue.find? fun x => x.slot = i with
  | some x =>
    countPass x.member (fun p => { p with stopped := p.stopped + 1 })
      { s with resolver := { s.resolver with queue := s.resolver.queue.filter fun y => y.slot ≠ i } }
  | none =>
    match s.resolver.work with
    | some w =>
      if w.item.slot = i && !w.abandoned then
        countPass w.item.member (fun p => { p with stopped := p.stopped + 1 })
          { s with resolver := { s.resolver with work := some { w with abandoned := true } } }
      else s
    | none => s

end Sys2Proof.Machine
end

