-- ==== Sys2Proof/Machine/Flags.lean ====
section
/-! DEFINITION. What the outside reads: the status words and registers of the window (R171 to R173, R178), INTR,
and the levels on the output pins (R48, R59). -/

namespace Sys2Proof.Machine

open Sys2Proof

/-! ### Output pins -/

/-- The 16-bit bit-reversal: digit `i` of the answer is digit `15 - i` of `k` (R59). -/
def bitReversal (k : BitVec 16) : Nat := ((List.range 16).map fun i => bitAt i (k.getLsbD (15 - i))).sum

/-- The level of a density pattern at position `k` (R59). -/
def densityLevel (d : Density) (k : BitVec 16) : Level := levelOfBool (bitReversal k < d.value)

/-- The level an output pin drives (Table 3-2). -/
def Line.pinLevel (x : Line) : Level :=
  match x.mode with
  | .disabled => x.safe
  | .held v => v
  | .pulsing _ p _ => p
  | .density _ now k _ _ => densityLevel now k

/-- The held level of an enabled line (Table 3-1). -/
def Line.held? (x : Line) : Option Level :=
  match x.mode with
  | .disabled => none
  | .held v => some v
  | .pulsing v _ _ => some v
  | .density v _ _ _ _ => some v

/-- Whether a pending density is held (R67). -/
def Line.densityPending (x : Line) : Bool :=
  match x.mode with
  | .disabled => false
  | .held _ => false
  | .pulsing _ _ _ => false
  | .density _ _ _ next _ => next.isSome

/-- A line in any state but DISABLED is enabled (R48). -/
def Line.enabled (x : Line) : Bool := x.mode ≠ .disabled

/-- Table 10-1. -/
def Line.stateCode (x : Line) : Nat :=
  match x.mode with
  | .disabled => 0
  | .held _ => 1
  | .pulsing _ _ _ => 2
  | .density _ _ _ _ _ => 3

/-! ### Register words -/

/-- Table 10-16. -/
def CoreState.code : CoreState → Nat
  | .off => 0
  | .loading => 1
  | .running => 2
  | .failed => 3

/-- Table 10-16. -/
def CommandRingState.code : CommandRingState → Nat
  | .disabled => 0
  | .active => 1
  | .stalled => 2
  | .blocked => 3
  | .faulted => 4

/-- Table 10-16. -/
def NoticeRingState.code : NoticeRingState → Nat
  | .disabled => 0
  | .active => 1
  | .faulted => 2

/-- What a read of STATUS returns (R171, Table 10-16). -/
def State.statusWord (s : State) : BitVec 32 :=
  BitVec.ofNat 32
    (s.control.core.code + bitAt 2 s.control.software + bitAt 3 s.control.pin + bitAt 4 s.control.haltIn
      + bitAt 5 s.control.badIndex + bitAt 6 s.control.startIgnored + bitAt 7 s.control.resumeRefused
      + s.intake.rings[(0 : CommandRingId)].state.code * 2 ^ 8 + s.intake.rings[(1 : CommandRingId)].state.code * 2 ^ 11
      + s.intake.rings[(2 : CommandRingId)].state.code * 2 ^ 14 + s.intake.rings[(3 : CommandRingId)].state.code * 2 ^ 17
      + s.notices[(0 : NoticeRingId)].state.code * 2 ^ 20 + s.notices[(1 : NoticeRingId)].state.code * 2 ^ 22)

/-- The four bits of INT_STATUS (R172). -/
def State.intBits (s : State) : BitVec 4 :=
  BitVec.ofNat 4
    (bitAt 0 s.notices[(0 : NoticeRingId)].ready + bitAt 1 s.notices[(1 : NoticeRingId)].ready
      + bitAt 2 s.control.fault + bitAt 3 s.halted)

/-- What a read of INT_STATUS returns (R172). -/
def State.intStatusWord (s : State) : BitVec 32 := s.intBits.setWidth 32

/-- INTR: any bit of INT_STATUS that is yes with its enable on (R173). -/
def State.intr (s : State) : Bool := s.intBits &&& s.control.enable ≠ 0

/-- The byte offset of CRn_POST (Table 10-15). -/
def postOffset (r : CommandRingId) : Nat := 0x1C + 4 * r.val

/-- The byte offset of NRn_RELEASE (Table 10-15). -/
def releaseOffset (k : NoticeRingId) : Nat := 0x2C + 4 * k.val

/-- The post index a read returns, 0 on a ring that is not configured (R178). -/
def postWord (x : CommandRing) : BitVec 32 := if x.config.isSome then BitVec.ofNat 32 x.post else 0

/-- The release index a read returns, 0 on a ring that is not configured (R178). -/
def releaseWord (x : NoticeRing) : BitVec 32 := if x.config.isSome then BitVec.ofNat 32 x.releaseIndex else 0

/-- What a 32-bit read of register word `w` of the window returns (R178). Reads change nothing. -/
def State.readRegister (s : State) (w : Fin 16) : BitVec 32 :=
  match w.val with
  | 1 => s.statusWord
  | 2 => s.intStatusWord
  | 3 => s.control.enable.setWidth 32
  | 5 => s.control.setupAddress.extractLsb' 0 32
  | 6 => s.control.setupAddress.extractLsb' 32 32
  | 7 => postWord s.intake.rings[(0 : CommandRingId)]
  | 8 => postWord s.intake.rings[(1 : CommandRingId)]
  | 9 => postWord s.intake.rings[(2 : CommandRingId)]
  | 10 => postWord s.intake.rings[(3 : CommandRingId)]
  | 11 => releaseWord s.notices[(0 : NoticeRingId)]
  | 12 => releaseWord s.notices[(1 : NoticeRingId)]
  | 13 => Config.ident
  | _ => 0

/-- What a read narrower than 32 bits returns: the bytes addressed from the register's word (R178). -/
def State.readBytes (s : State) (offset : BitVec 6) (bytes : Nat) : Nat :=
  ((s.readRegister ⟨offset.toNat / 4, by have := offset.isLt; omega⟩).toNat >>> (8 * (offset.toNat % 4)))
    % 2 ^ (8 * bytes)

end Sys2Proof.Machine
end

