-- ==== Sys2Proof/Machine/TimeUnit.lean ====
section
/-! DEFINITION. The time unit: counting, second boundaries, trim and step (file 04). SET_CALENDAR is in
Machine/Resolver.lean, with the pass it starts. -/

namespace Sys2Proof.Machine

open Sys2Proof

/-! ### Counting ticks -/

/-- The ticks of one reference period and the accumulator after it (R73). -/
def TimeUnit.advance (u : TimeUnit) : Nat × Nat :=
  if u.trim = 0 then (1, u.accumulator)
  else if u.accumulator + u.trim.natAbs < Config.ticksPerSecond then (1, u.accumulator + u.trim.natAbs)
  else (if 0 < u.trim then 2 else 0, u.accumulator + u.trim.natAbs - Config.ticksPerSecond)

/-- A boundary tick that counting has reached is due, and waits for a second boundary of its own (R74). -/
def TimeUnit.noteBoundary (u : TimeUnit) : TimeUnit :=
  if u.nextBoundary ≤ u.timebase.toNat then
    { u with nextBoundary := u.nextBoundary + Config.ticksPerSecond, dueBoundaries := u.dueBoundaries ++ [u.nextBoundary] }
  else u

/-- The time unit after one reference period (R72 to R74). -/
def TimeUnit.referencePeriod (u : TimeUnit) : TimeUnit :=
  { u with timebase := satTick u.timebase u.advance.1, accumulator := u.advance.2 }.noteBoundary

/-! ### Second boundaries -/

/-- Applies the pending trim, if any, at a second boundary at which calendar second `c` began (R74, R76). -/
def applyTrim (c : Nat) (s : State) : State :=
  match s.time.pendingTrim with
  | some p =>
    completeOwed p.ring { kind := .trimRate, ident := p.ident, takeIndex := p.takeIndex } .ok
      (.trim p.value none s.time.timebase c)
      { s with time := { s.time with trim := p.value, pendingTrim := none } }
  | none => s

/-- SECOND_BOUNDARY (R74): takes the oldest boundary tick that counting has reached. -/
def execSecondBoundary (s : State) : Host.Outcome State Fault Refusal :=
  .next (match s.time.dueBoundaries with
    | b :: bs => applyTrim (s.time.secondAt b) { s with time := { s.time with dueBoundaries := bs } }
    | [] => s)

/-! ### Commands -/

/-- The READ_TIME result (R84). -/
def TimeUnit.reading (u : TimeUnit) : TimeResult :=
  let r := readSecond (u.secondAt u.timebase.toNat)
  { tick := u.timebase, year := r.year, month := r.month, day := r.day, hour := r.hour, minute := r.minute,
    second := r.second, weekday := r.weekday, into := u.intoSecond u.timebase.toNat, trim := u.trim,
    pending := u.pendingTrim.map PendingTrim.value }

/-- Takes a READ_TIME (R84). -/
def takeReadTime (s : State) : State × Answer := (s, .complete .ok (.time s.time.reading))

/-- The result of a refused TRIM_RATE (R75). -/
def TimeUnit.trimRefusal (u : TimeUnit) : Result := .trim u.trim (u.pendingTrim.map PendingTrim.value) 0 0

/-- Takes a TRIM_RATE (R75). -/
def takeTrimRate (c : CommandRef) (value : BitVec 32) (s : State) : State × Answer :=
  match trimOf value with
  | none => (s, .complete .badParam s.time.trimRefusal)
  | some v =>
    if s.time.pendingTrim.isSome then (s, .complete .busy s.time.trimRefusal)
    else
      ({ s with time :=
          { s.time with pendingTrim := some { value := v, ring := c.ring, ident := c.ident, takeIndex := c.takeIndex } } },
        .owe .trimRate)

/-- A delta that STEP_TIMEBASE accepts (R78). -/
def TimeUnit.acceptsStep (u : TimeUnit) (delta : BitVec 64) : Bool :=
  1 ≤ delta.toNat && delta.toNat ≤ Config.maxSpan && u.timebase.toNat + delta.toNat ≤ Config.maxTick

/-- A step to tick `t` reaches or passes a boundary tick beyond the timebase (R74). -/
def TimeUnit.crosses (u : TimeUnit) (t : Tick) : Bool := u.nextBoundary ≤ t.toNat

/-- The timebase moved forward, and one second boundary for all the boundary ticks that the step carries it across
(R74, R78). Those that counting has reached before stay due. -/
def stepTime (delta : BitVec 64) (s : State) : State :=
  let t := s.time.timebase + delta
  if s.time.crosses t then
    applyTrim (s.time.secondAt t.toNat)
      { s with time := { s.time with timebase := t, nextBoundary := s.time.boundaryAfter t.toNat } }
  else { s with time := { s.time with timebase := t } }

/-- The result of an accepted STEP_TIMEBASE (R78). -/
def TimeUnit.stepResult (u : TimeUnit) (delta : BitVec 64) : Result :=
  .step u.timebase (u.timebase + delta) (u.secondAt (u.timebase + delta).toNat)
    (u.crosses (u.timebase + delta) && u.pendingTrim.isSome)

/-- Takes a STEP_TIMEBASE (R78). -/
def takeStepTimebase (delta : BitVec 64) (s : State) : State × Answer :=
  if s.time.acceptsStep delta then (stepTime delta s, .complete .ok (s.time.stepResult delta))
  else (s, .complete .badParam .zero)

end Sys2Proof.Machine
end

