-- ==== Sys2Proof/Machine/Resolver.lean ====
section
/-! DEFINITION. The calendar resolver: TAKE, WORK_END, and SET_CALENDAR with its re-placement pass (file 05). -/

namespace Sys2Proof.Machine

open Sys2Proof

/-- TAKE (R92): with no work in progress, the head item of the queue becomes the work. -/
def execTake (s : State) : Host.Outcome State Fault Refusal :=
  .next (match s.resolver.work, s.resolver.queue with
    | none, x :: xs =>
      { s with resolver := { s.resolver with queue := xs, work := some { item := x, abandoned := false } } }
    | none, [] => s
    | some _, _ => s)

/-! ### The end of a work -/

/-- The expiry a resolution gives, if there is a match within the horizon and the range of the timebase
(R93, R94). -/
def Item.expiry (x : Item) (p : Pattern) : Option Tick :=
  match p.resolve x.base with
  | some d =>
    if x.beginTick.toNat + d * Config.ticksPerSecond ≤ Config.maxTick then
      some (BitVec.ofNat 64 (x.beginTick.toNat + d * Config.ticksPerSecond))
    else none
  | none => none

/-- The work ends with a match (R94). -/
def workMatched (x : Item) (t : Tick) (s : State) : State :=
  countPass x.member (fun p => { p with matched := p.matched + 1 }) (arm x.slot t s)

/-- The report of a resolution without a match (R95). -/
def Item.noMatchReport (x : Item) (t : Tick) : FiringReport :=
  { expiry := x.beginTick, fire := t, count := 1, overruns := 0, mask := 0
    flags := { late := false, last := true, coalesced := false, actionFailed := false, haltedOver := false,
               missed := false, noMatch := true } }

/-- The work ends with no match (R95). -/
def workUnmatched (x : Item) (k : NoticeRingId) (s : State) : State :=
  settle
    (countPass x.member (fun p => { p with noMatch := p.noMatch + 1 })
      (offerFiring k x.slot (x.noMatchReport s.time.timebase) (dropStarted (enterDormant x.slot s))))

/-- The end of a work that is not abandoned, once the work is absent (R94, R95). -/
def endWork (x : Item) (s : State) : State :=
  match s.slots[x.slot].event with
  | some e =>
    match e.defn.timing with
    | .calendar p =>
      match x.expiry p with
      | some t => workMatched x t s
      | none => workUnmatched x e.defn.ring s
    | .tick _ _ _ => s
  | none => s

/-- WORK_END (R94 to R96). -/
def execWorkEnd (s : State) : Host.Outcome State Fault Refusal :=
  .next (match s.resolver.work with
    | some w =>
      if w.abandoned then { s with resolver := { s.resolver with work := none } }
      else endWork w.item { s with resolver := { s.resolver with work := none } }
    | none => s)

/-! ### SET_CALENDAR -/

/-- A started CALENDAR slot in a state. -/
def Slot.calendarIn (x : Slot) (inRun : Run → Bool) : Bool := x.event.elim false fun e => e.defn.isCalendar && inRun e.run

/-- The state is ARMED. -/
def Run.isArmed : Run → Bool
  | .armed _ _ => true
  | .dormant => false
  | .waiting => false
  | .resolving => false

/-- A slot taken back to RESOLVING, if it is ARMED and of CALENDAR kind (R97 step 3). -/
def Slot.takenBack (x : Slot) : Slot :=
  if x.calendarIn Run.isArmed then { x with event := x.event.map fun e => { e with run := .resolving } } else x

/-- Steps 2 to 4 of R97: the work is abandoned, ARMED calendar slots leave the timeline, the queue is emptied. -/
def takeBack (s : State) : State :=
  { s with
    slots := s.slots.map Slot.takenBack
    timeline := { s.timeline with entries := s.timeline.entries.filter fun e => !(s.slots[e.slot].calendarIn Run.isArmed) }
    resolver := { s.resolver with queue := [], work := s.resolver.work.map fun w => { w with abandoned := true } } }

/-- The slots that step 5 of R97 places, in order of slot number. -/
def calendarResolving (s : State) : List SlotId :=
  (List.finRange 256).filter fun i => s.slots[i].calendarIn fun r => r = .resolving

/-- Steps 2 to 5 of R97. -/
def rePlace (s : State) : State :=
  (calendarResolving (takeBack s)).foldl (fun t i => pushItem i true t) (takeBack s)

/-- Step 1 of R97: a pass in flight ends SUPERSEDED (R99). -/
def supersede (s : State) : State :=
  match s.resolver.pass with
  | some p => endPass p .superseded s
  | none => s

/-- Sets the anchor to the timebase and a calendar second (R86); the boundaries of the old anchor do not occur
(R74). -/
def setAnchor (c : Nat) (s : State) : State :=
  { s with time :=
      { s.time with anchorTick := s.time.timebase, anchorSecond := c,
                    nextBoundary := s.time.timebase.toNat + Config.ticksPerSecond, dueBoundaries := [] } }

/-- The pass a SET_CALENDAR starts (R98). -/
def startPass (c : CommandRef) (s : State) : Pass :=
  { ring := c.ring, ident := c.ident, takeIndex := c.takeIndex, anchorTick := s.time.anchorTick,
    anchorSecond := s.time.anchorSecond, placed := s.resolver.queue.length, matched := 0, noMatch := 0, stopped := 0 }

/-- Takes a SET_CALENDAR (R85, R86, R97, R98). -/
def takeSetCalendar (c : CommandRef) (f : CalendarFields) (s : State) : State × Answer :=
  match calendarSecondOf f with
  | none => (s, .complete .badParam .zero)
  | some second =>
    let t := rePlace (setAnchor second (supersede s))
    if (startPass c t).placed = 0 then (t, .complete .ok (startPass c t).result)
    else ({ t with resolver := { t.resolver with pass := some (startPass c t) } }, .owe .setCalendar)

end Sys2Proof.Machine
end

