-- ==== Sys2Proof/Machine/EventTable.lean ====
section
/-! DEFINITION. The event table: LOAD, START, STOP, RETIME, UNLOAD, QUERY, and the START and STOP that firings
carry (file 01). -/

namespace Sys2Proof.Machine

open Sys2Proof

/-! ### Completions of slot commands -/

/-- The answer of a slot command: its status, with the slot as the command left it (R8). -/
def answerSlot (i : SlotId) (status : Status) (s : State) : State × Answer :=
  (s, .complete status (s.slots[i].result false))

/-- Steps 1 and 2 of R8 for the commands that carry a generation; `f` goes on with the loaded event. -/
def checked (h : Header) (s : State) (f : Event → State × Answer) : State × Answer :=
  match s.slots[h.slot].event with
  | none => answerSlot h.slot .notLoaded s
  | some e => if s.slots[h.slot].generation = h.generation then f e else answerSlot h.slot .stale s

/-! ### LOAD -/

/-- A slot after an accepted LOAD (R9). -/
def Slot.load (d : Definition) (x : Slot) : Slot :=
  { generation := x.generation + 1, noticePending := false,
    event := some { defn := d, run := .dormant, remaining := none, firingsDone := 0 } }

/-- Takes a LOAD (R8 to R11). -/
def takeLoad (h : Header) (d : LoadFields) (s : State) : State × Answer :=
  if s.slots[h.slot].event.isSome then answerSlot h.slot .slotBusy s
  else
    match definitionOf d with
    | none => answerSlot h.slot .badParam s
    | some def' => answerSlot h.slot .ok (setSlot h.slot (s.slots[h.slot].load def') s)

/-! ### START -/

/-- The run fields at a START (R2). -/
def Event.begin (e : Event) : Event := { e with remaining := e.defn.freshRemaining, firingsDone := 0 }

/-- Moves a DORMANT slot by its kind and start mode; a RELATIVE expiry counts from `origin` (R13, R21). -/
def startSlot (i : SlotId) (e : Event) (origin : Tick) (s : State) : State :=
  let t := setEvent i e.begin s
  match e.defn.timing with
  | .tick .absolute start _ => arm i start t
  | .tick .relative delay _ => arm i (wrapTick origin delay) t
  | .tick (.trigger c _) _ _ => joinWaiting c i (setRun i .waiting t)
  | .calendar _ =>
    pushItem i false
      (setRun i .resolving { t with resolver := { t.resolver with started := t.resolver.started + 1 } })

/-- The started count leaves no room for a CALENDAR slot (R12, R21). -/
def calendarFull (e : Event) (s : State) : Bool := e.defn.isCalendar && Config.maxStarted ≤ s.resolver.started

/-- Takes a START (R12, R13). -/
def takeStart (h : Header) (s : State) : State × Answer :=
  checked h s fun e =>
    if e.run ≠ .dormant then answerSlot h.slot .notDormant s
    else if calendarFull e s then answerSlot h.slot .calendarFull s
    else answerSlot h.slot .ok (startSlot h.slot e s.time.timebase s)

/-! ### STOP -/

/-- Takes a slot out of the collections that hold it (R15). -/
def leaveCollections (i : SlotId) (e : Event) (s : State) : State :=
  match e.run with
  | .dormant => s
  | .waiting =>
    match e.defn.triggerLine with
    | some c => leaveWaiting c i s
    | none => s
  | .resolving => dropStarted (dropItem i s)
  | .armed _ _ =>
    let t := removeEntry i s
    let t := match e.defn.retriggerLine with
      | some c => leaveWaiting c i t
      | none => t
    if e.defn.isCalendar then dropStarted t else t

/-- Stops a slot that is not DORMANT (R15). -/
def stopSlot (i : SlotId) (e : Event) (s : State) : State := enterDormant i (leaveCollections i e s)

/-- Takes a STOP (R15). -/
def takeStop (h : Header) (s : State) : State × Answer :=
  checked h s fun e =>
    if e.run = .dormant then answerSlot h.slot .alreadyStopped s
    else answerSlot h.slot .ok (stopSlot h.slot e s)

/-! ### RETIME -/

/-- A TICK definition with the new values that a RETIME carries (R18). -/
def Definition.retime (f : RetimeFields) (d : Definition) : Definition :=
  match d.timing with
  | .tick m start period => { d with timing := .tick m (f.start.getD start) (f.period.elim period BitVec.toNat) }
  | .calendar _ => d

/-- The RETIME of an event that is not of CALENDAR kind and passes R17 (R18). -/
def retimeSlot (i : SlotId) (e : Event) (f : RetimeFields) (s : State) : State × Answer :=
  let t := setEvent i { e with defn := e.defn.retime f } s
  match e.run, f.expiry with
  | .armed _ _, some x =>
    let t := arm i x (removeEntry i t)
    (t, .complete .ok (t.slots[i].result true))
  | .armed _ _, none => answerSlot i .ok t
  | .dormant, _ => answerSlot i .ok t
  | .waiting, _ => answerSlot i .ok t
  | .resolving, _ => answerSlot i .ok t

/-- Takes a RETIME (R17, R18). -/
def takeRetime (h : Header) (f : RetimeFields) (s : State) : State × Answer :=
  checked h s fun e =>
    match e.defn.timing with
    | .calendar _ => answerSlot h.slot .wrongKind s
    | .tick m _ _ =>
      if retimeAccepted m e.defn.repeatCount f then retimeSlot h.slot e f s
      else answerSlot h.slot .badParam s

/-! ### UNLOAD and QUERY -/

/-- Takes an UNLOAD (R19). -/
def takeUnload (h : Header) (s : State) : State × Answer :=
  checked h s fun e =>
    if e.run ≠ .dormant then answerSlot h.slot .notDormant s
    else if s.slots[h.slot].noticePending then answerSlot h.slot .noticePending s
    else answerSlot h.slot .ok (setSlot h.slot { s.slots[h.slot] with event := none } s)

/-- Takes a QUERY (R20). -/
def takeQuery (h : Header) (s : State) : State × Answer :=
  checked h s fun _ => answerSlot h.slot .ok s

/-! ### START and STOP actions -/

/-- Takes a START action of a firing with scheduled expiry `origin`; answers whether it failed (R21). -/
def startAction (i : SlotId) (origin : Tick) (s : State) : State × Bool :=
  match s.slots[i].event with
  | none => (s, true)
  | some e => if e.run ≠ .dormant || calendarFull e s then (s, true) else (startSlot i e origin s, false)

/-- Takes a STOP action of a firing; answers whether it failed (R21). -/
def stopAction (i : SlotId) (s : State) : State × Bool :=
  match s.slots[i].event with
  | none => (s, true)
  | some e => if e.run = .dormant then (s, false) else (stopSlot i e s, false)

end Sys2Proof.Machine
end

