-- ==== Sys2Proof/Machine/Capture.lean ====
section
/-! DEFINITION. The capture unit: SAMPLE with qualification and accepted edges, and CAPTURE_SETUP (file 06). -/

namespace Sys2Proof.Machine

open Sys2Proof

/-! ### Triggered starts -/

/-- Arms or re-arms slot `i` of event `e` by an edge of timestamp `ts` (R113 steps 1 to 3, R114). -/
def armByEdge (i : SlotId) (e : Event) (start ts : Tick) (s : State) : State :=
  arm i (wrapTick ts start) (setEvent i { e with remaining := e.defn.freshRemaining } s)

/-- Treats one slot of line `c`'s waiting list at an accepted edge (R113, R114). -/
def triggerSlot (c : CaptureId) (ts : Tick) (s : State) (i : SlotId) : State :=
  match s.slots[i].event with
  | some e =>
    match e.defn.timing, e.run with
    | .tick (.trigger _ .once) start _, .waiting => leaveWaiting c i (armByEdge i e start ts s)
    | .tick (.trigger _ .retrigger) start _, .waiting => armByEdge i e start ts s
    | .tick (.trigger _ .retrigger) start _, .armed _ _ => armByEdge i e start ts (removeEntry i s)
    | _, _ => s
  | none => s

/-- Step 3 of R106: the waiting list from head to tail, as it stands when the edge is taken (R113). -/
def trigger (c : CaptureId) (ts : Tick) (s : State) : State :=
  if s.capture.suppressed then s else s.capture.lines[c].waiting.foldl (triggerSlot c ts) s

/-! ### Accepted edges -/

/-- Whether an edge mode accepts an edge to level `v` (R103). -/
def EdgeMode.accepts (m : EdgeMode) (v : Level) : Bool :=
  match m, v with
  | .off, _ => false
  | .rising, .high => true
  | .rising, .low => false
  | .falling, .low => true
  | .falling, .high => false
  | .both, _ => true

/-- Step 2 of R106: with notify on, the edge is offered, or counted as lost while a record is held (R107). -/
def reportEdge (c : CaptureId) (v : Level) (ts : Tick) (s : State) : State :=
  if s.capture.lines[c].notify then
    if s.capture.lines[c].held.isSome then
      setCapture c { s.capture.lines[c] with lost := satCount 255 (s.capture.lines[c].lost + 1) } s
    else offerEdge c v ts s
  else s

/-- An accepted edge to level `v` with timestamp `ts` (R106). -/
def acceptEdge (c : CaptureId) (v : Level) (ts : Tick) (s : State) : State :=
  trigger c ts
    (reportEdge c v ts
      (setCapture c { s.capture.lines[c] with edgeSequence := s.capture.lines[c].edgeSequence + 1 } s))

/-! ### Sampling -/

/-- The tick of a sample taken at timebase `t` (R104). -/
def Sampling.sampleTick (p : Sampling) (interval : Nat) (t : Tick) : Tick :=
  if t.toNat - p.next.toNat < interval then p.next else t

/-- The sampling fields after a sample of level `v` with tick `x`, and the timestamp of the edge it completes
(R104, R105). -/
def Sampling.afterSample (p : Sampling) (interval qualify : Nat) (x : Tick) (v : Level) : Sampling × Option Tick :=
  let q := { p with next := satTick x interval, spent := x.toNat = Config.maxTick }
  if v = p.stable then ({ q with count := 0, first := none }, none)
  else
    let first := if p.count = 0 then x else p.first.getD x
    if qualify ≤ p.count + 1 then ({ q with stable := v, count := 0, first := none }, some first)
    else ({ q with count := p.count + 1, first := some first }, none)

/-- A line's sample is due (R104). -/
def Sampling.due (p : Sampling) (u : TimeUnit) : Bool := !p.spent && u.reached p.next

/-- A due sample of level `v` (R104 to R106). -/
def takeSample (c : CaptureId) (p : Sampling) (v : Level) (s : State) : State :=
  let x := s.capture.lines[c]
  let r := p.afterSample x.interval x.qualify (p.sampleTick x.interval s.time.timebase) v
  let t := setCapture c { x with sampling := some r.1 } s
  match r.2 with
  | some ts => if x.edgeMode.accepts v then acceptEdge c v ts t else t
  | none => t

/-- SAMPLE (R104), with the level on the line's pin (log entry 8). -/
def execSample (c : CaptureId) (level : Level) (s : State) : Host.Outcome State Fault Refusal :=
  .next (match s.capture.lines[c].sampling with
    | some p => if p.due s.time then takeSample c p level s else s
    | none => s)

/-! ### CAPTURE_SETUP -/

/-- The sampling fields a setup taken at tick `t` leaves, with its own first sample (R111). -/
def CaptureSetup.sampling (c : CaptureSetup) (t : Tick) (level : Level) : Option Sampling :=
  if c.edgeMode = .off then none
  else some { next := satTick t c.interval, stable := level, count := 0, first := none, spent := t.toNat = Config.maxTick }

/-- A line after an accepted setup (R111). -/
def CaptureLine.setUp (c : CaptureSetup) (t : Tick) (level : Level) (x : CaptureLine) : CaptureLine :=
  { x with edgeMode := c.edgeMode, qualify := c.qualify, interval := c.interval, notify := c.notify,
           ring := c.ring, sampling := c.sampling t level }

/-- The result of an accepted setup (R111). -/
def CaptureLine.result (x : CaptureLine) : Result :=
  .capture
    { edgeMode := x.edgeMode, qualify := x.qualify, notify := x.notify, ring := x.ring, interval := x.interval,
      stable := x.sampling.map Sampling.stable, heldPresent := x.held.isSome, lost := x.lost,
      edgeSequence := x.edgeSequence, waiting := x.waiting.length }

/-- Takes a CAPTURE_SETUP (R110, R111). -/
def takeCaptureSetup (f : CaptureSetupFields) (level : Level) (s : State) : State × Answer :=
  match captureSetupOf f with
  | none => (s, .complete .badParam .zero)
  | some c =>
    let x := s.capture.lines[c.line].setUp c s.time.timebase level
    (setCapture c.line x s, .complete .ok x.result)

end Sys2Proof.Machine
end

