-- ==== Sys2Proof/Machine/Lines.lean ====
section
/-! DEFINITION. The line block: line actions, pulse ends, density clocks, the halt effect (file 03), and the
commands LINE_SETUP and LINE_FORCE. -/

namespace Sys2Proof.Machine

open Sys2Proof

/-! ### Line actions on a line record -/

/-- DRIVE on an enabled line (R50). -/
def Line.drive (v : Level) (x : Line) : Line := { x with mode := .held v }

/-- TOGGLE: inverts the stored held level (R51). -/
def Line.toggle (x : Line) : Line :=
  match x.held? with
  | some v => { x with mode := .held v.opposite }
  | none => x

/-- PULSE at tick `t` (R52). -/
def Line.pulse (t : Tick) (p : Level) (width : Nat) (x : Line) : Line :=
  match x.held? with
  | some v => { x with mode := .pulsing v p (satTick t width) }
  | none => x

/-- DENSITY: the pending pair of a line in DENSITY, else a pattern from position 0 (R53). -/
def Line.startDensity (d : Density) (x : Line) : Line :=
  match x.mode with
  | .disabled => x
  | .held v => { x with mode := .density v d 0 none 0 }
  | .pulsing v _ _ => { x with mode := .density v d 0 none 0 }
  | .density v now k _ elapsed => { x with mode := .density v now k (some d) elapsed }

/-- The effect of a line action, taken at tick `t`, on an enabled line; the actions on slots are none of the
line block's (R49). -/
def Line.act (t : Tick) (a : Action) (x : Line) : Line :=
  match a with
  | .drive _ v => x.drive v
  | .toggle _ => x.toggle
  | .pulse _ v w => x.pulse t v w
  | .density _ d => x.startDensity d
  | .start _ => x
  | .stop _ => x
  | .mark => x

/-- Takes a line action on line `l` at the timebase: a DISABLED line is left as it is (R49). -/
def actOnLine (l : LineId) (a : Action) (s : State) : State :=
  if s.lines[l].enabled then setLine l (s.lines[l].act s.time.timebase a) s else s

/-! ### The halt effect -/

/-- The halt effect on one line: an enabled line is HELD at its safe level (R68). -/
def Line.haltEffect (x : Line) : Line := if x.enabled then { x with mode := .held x.safe } else x

/-- The halt effect on every line (R68). -/
def haltLines (s : State) : State := { s with lines := s.lines.map Line.haltEffect }

/-! ### Pulse end and density clock -/

/-- PULSE_END (R55): taken when the timebase stands at or beyond the pulse end tick of a PULSING line. -/
def execPulseEnd (l : LineId) (s : State) : Host.Outcome State Fault Refusal :=
  .next (match s.lines[l].mode with
    | .pulsing v _ e => if s.time.reached e then setLine l { s.lines[l] with mode := .held v } s else s
    | .disabled => s
    | .held _ => s
    | .density _ _ _ _ _ => s)

/-- Reference periods in one density clock (R53, R58). -/
def Density.divider (d : Density) : Nat := 2 ^ d.code.val

/-- The end of a density clock of a pattern (R58): the position advances; where it returns from 65,535 to 0, the
frame start applies the pending pair (R60). -/
def LineMode.clock (v : Level) (now : Density) (k : BitVec 16) (next : Option Density) (elapsed : Nat) : LineMode :=
  if k = 0xFFFF then .density v (next.getD now) 0 none (elapsed - now.divider)
  else .density v now (k + 1) next (elapsed - now.divider)

/-- DENSITY_CLOCK (R58): taken when the reference periods of the density clock have passed. -/
def execDensityClock (l : LineId) (s : State) : Host.Outcome State Fault Refusal :=
  .next (match s.lines[l].mode with
    | .density v now k next elapsed =>
      if now.divider ≤ elapsed then setLine l { s.lines[l] with mode := LineMode.clock v now k next elapsed } s else s
    | .disabled => s
    | .held _ => s
    | .pulsing _ _ _ => s)

/-- FRAME_START (R60): the density clock whose end brings the position from 65,535 to 0. -/
def execFrameStart (l : LineId) (s : State) : Host.Outcome State Fault Refusal :=
  .next (match s.lines[l].mode with
    | .density v now k next elapsed =>
      if k = 0xFFFF ∧ now.divider ≤ elapsed then
        setLine l { s.lines[l] with mode := LineMode.clock v now k next elapsed } s
      else s
    | .disabled => s
    | .held _ => s
    | .pulsing _ _ _ => s)

/-- One reference period of a line's density generator (R58). -/
def Line.referencePeriod (x : Line) : Line :=
  match x.mode with
  | .density v now k next elapsed => { x with mode := .density v now k next (elapsed + 1) }
  | .disabled => x
  | .held _ => x
  | .pulsing _ _ _ => x

/-! ### LINE_SETUP and LINE_FORCE -/

/-- A line record after an accepted LINE_SETUP (R63 to R65). -/
def Line.setUp (c : LineSetup) (halted : Bool) (x : Line) : Line :=
  if c.enable then
    if halted then { safe := c.safe, mode := .held c.safe }
    else if x.enabled then { x with safe := c.safe }
    else { safe := c.safe, mode := .held c.initial }
  else { safe := c.safe, mode := .disabled }

/-- The result of an accepted LINE_SETUP (R65). -/
def Line.setupResult (x : Line) : Result := .lineSetup x.stateCode x.safe x.held? x.pinLevel

/-- The result of an accepted LINE_FORCE (R67). -/
def Line.forceResult (x : Line) : Result := .lineForce x.stateCode x.held? x.densityPending x.pinLevel

/-- Takes a LINE_SETUP (R63 to R65). -/
def takeLineSetup (f : LineSetupFields) (s : State) : State × Answer :=
  match lineSetupOf f with
  | none => (s, .complete .badParam .zero)
  | some c =>
    (setLine c.line (s.lines[c.line].setUp c s.halted) s,
      .complete .ok (s.lines[c.line].setUp c s.halted).setupResult)

/-- The line and action a LINE_FORCE carries, if its word is a valid line action (R66 steps 1 and 2). -/
def forceOf (w : ActionWord) : Option (LineId × Action) :=
  (actionOf w).bind fun a => a.line?.map fun l => (l, a)

/-- Takes a LINE_FORCE (R66, R67). -/
def takeLineForce (w : ActionWord) (s : State) : State × Answer :=
  match forceOf w with
  | none => (s, .complete .badParam .zero)
  | some (l, a) =>
    if s.halted then (s, .complete .halted .zero)
    else if s.lines[l].enabled then
      (actOnLine l a s, .complete .ok (s.lines[l].act s.time.timebase a).forceResult)
    else (s, .complete .lineDisabled .zero)

end Sys2Proof.Machine
end

