-- ==== Sys2Proof/Machine/Timeline.lean ====
section
/-! DEFINITION. The timeline: FIRING with its actions, and what a resume does to overdue entries (file 02). -/

namespace Sys2Proof.Machine

open Sys2Proof

/-! ### The continuation of a run -/

/-- What becomes of a run at a firing or at DISCARD processing: whether it ends, the counted skip, and the next
expiry of a TICK slot that goes on. -/
structure Continuation where
  last : Bool
  skip : Nat
  next : Option Tick
deriving DecidableEq, Repr

/-- The skip rule of R32 for period `p`, scheduled expiry `e` and fire tick `f`: `k` periods are passed, and the
next candidate is the first expiry after `f`. -/
def skipRule (p e f : Nat) (remaining : Option Nat) : Continuation :=
  let k := (f - e) / p
  let n := e + (k + 1) * p
  match remaining with
  | some r =>
    if r - 1 ≤ k then { last := true, skip := r - 1, next := none }
    else if Config.maxTick < n then { last := true, skip := k, next := none }
    else { last := false, skip := k, next := some (BitVec.ofNat 64 n) }
  | none =>
    if Config.maxTick < n then { last := true, skip := k, next := none }
    else { last := false, skip := k, next := some (BitVec.ofNat 64 n) }

/-- The continuation of a run by its kind, period and remaining (R31, R32, R34). -/
def continuation (timing : Timing) (remaining : Option Nat) (e f : Nat) : Continuation :=
  match timing with
  | .calendar _ => { last := remaining = some 1, skip := 0, next := none }
  | .tick _ _ p =>
    if p = 0 ∨ remaining = some 1 then { last := true, skip := 0, next := none } else skipRule p e f remaining

/-- Remaining after a firing or DISCARD processing (R33, R42). -/
def Continuation.remainingAfter (c : Continuation) (remaining : Option Nat) : Option Nat :=
  remaining.map fun r => if c.last then r - c.skip else r - (1 + c.skip)

/-- The slot's new state and the collection that holds it (R35, R43). -/
def conclude (i : SlotId) (d : Definition) (c : Continuation) (s : State) : State :=
  if c.last then
    match d.retriggerLine with
    | some l => joinWaiting l i (setRun i .waiting s)
    | none => enterDormant i (if d.isCalendar then dropStarted s else s)
  else
    match c.next with
    | some n => arm i n s
    | none => pushItem i false (setRun i .resolving s)

/-! ### Actions of a firing -/

/-- Applies one action of a firing with scheduled expiry `e`; answers whether it failed (R36, R49). -/
def applyAction (e : Tick) (a : Action) (s : State) : State × Bool :=
  match a with
  | .drive l _ => (actOnLine l a s, !s.lines[l].enabled)
  | .toggle l => (actOnLine l a s, !s.lines[l].enabled)
  | .pulse l _ _ => (actOnLine l a s, !s.lines[l].enabled)
  | .density l _ => (actOnLine l a s, !s.lines[l].enabled)
  | .start i => startAction i e s
  | .stop i => stopAction i s
  | .mark => (s, false)

/-- Applies actions in list order; answers the action-failed mask, position 0 for the first (R36). -/
def applyActions (e : Tick) : List Action → State → State × BitVec 4
  | [], s => (s, 0)
  | a :: as, s =>
    let r := applyAction e a s
    let q := applyActions e as r.1
    (q.1, (q.2 <<< 1) ||| (if r.2 then 1 else 0))

/-! ### The firing -/

/-- Whether the notify policy requires a notice of a firing (R37). -/
def NotifyPolicy.wants (p : NotifyPolicy) (last : Bool) : Bool :=
  match p with
  | .every => true
  | .last => last
  | .none => false

/-- The report of a firing (R30, R33, R37). -/
def firingReport (x : Entry) (fire : Tick) (threshold : Nat) (c : Continuation) (mask : BitVec 4) : FiringReport :=
  { expiry := x.expiry, fire, count := 1, overruns := satCount 65535 c.skip, mask
    flags := { late := threshold < fire.toNat - x.expiry.toNat, last := c.last, coalesced := false,
               actionFailed := mask ≠ 0, haltedOver := x.haltedOver, missed := false, noMatch := false } }

/-- The continuation of entry `x` of event `v` at fire tick `f`. -/
def Event.continuationAt (v : Event) (x : Entry) (f : Tick) : Continuation :=
  continuation v.defn.timing v.remaining x.expiry.toNat f.toNat

/-- The run fields counted at a firing (R2, R33). -/
def Event.fired (v : Event) (c : Continuation) : Event :=
  { v with firingsDone := satCount 4294967295 (v.firingsDone + 1), remaining := c.remainingAfter v.remaining }

/-- Steps 2 to 4 of Table 2-3: the firing is counted and the slot takes its new state. -/
def fireState (x : Entry) (v : Event) (s : State) : State :=
  conclude x.slot v.defn (v.continuationAt x s.time.timebase)
    (setEvent x.slot (v.fired (v.continuationAt x s.time.timebase)) s)

/-- Steps 2 to 6 of Table 2-3 for entry `x` of event `v`, once the entry is removed. -/
def fire (x : Entry) (v : Event) (s : State) : State :=
  let c := v.continuationAt x s.time.timebase
  let r := applyActions x.expiry v.defn.actions (fireState x v s)
  if v.defn.policy.wants c.last then
    offerFiring v.defn.ring x.slot (firingReport x s.time.timebase s.timeline.lateThreshold c r.2) r.1
  else r.1

/-- Removes the head entry. -/
def dropHead (s : State) : State := { s with timeline := { s.timeline with entries := s.timeline.entries.tail } }

/-- The head is due: RUNNING, not HALTED, and the timebase at or beyond its expiry (R28). -/
def dueHead (s : State) : Option Entry :=
  if s.control.core = .running && !s.halted then s.timeline.entries.head?.filter fun x => s.time.reached x.expiry
  else none

/-- FIRING (R28, R30 to R37). -/
def execFiring (s : State) : Host.Outcome State Fault Refusal :=
  .next (match dueHead s with
    | some x =>
      match s.slots[x.slot].event with
      | some v => settle (fire x v (dropHead s))
      | none => dropHead s
    | none => s)

/-! ### Resume -/

/-- A CATCHUP resume marks the entries at or before the resume tick (R41). -/
def markOverdue (s : State) : State :=
  { s with timeline :=
      { s.timeline with
        entries := s.timeline.entries.map fun x => if s.time.reached x.expiry then { x with haltedOver := true } else x } }

/-- The report of DISCARD processing (R44). -/
def missedReport (x : Entry) (resumeTick : Tick) (c : Continuation) : FiringReport :=
  { expiry := x.expiry, fire := resumeTick, count := 1, overruns := satCount 65535 (1 + c.skip), mask := 0
    flags := { late := false, last := c.last, coalesced := false, actionFailed := false, haltedOver := false,
               missed := true, noMatch := false } }

/-- The run fields after DISCARD processing (R42 steps 2 and 5). -/
def Event.passedOver (v : Event) (c : Continuation) : Event := { v with remaining := c.remainingAfter v.remaining }

/-- DISCARD processing of entry `x` of event `v`, once the entry is removed (R42 to R44). -/
def passOver (x : Entry) (v : Event) (s : State) : State :=
  let c := v.continuationAt x s.time.timebase
  let t := conclude x.slot v.defn c (setEvent x.slot (v.passedOver c) s)
  if v.defn.policy.wants c.last then offerFiring v.defn.ring x.slot (missedReport x s.time.timebase c) t else t

/-- DISCARD processing of one overdue entry (R42). -/
def discardEntry (s : State) (x : Entry) : State :=
  match s.slots[x.slot].event with
  | some v => passOver x v (removeEntry x.slot s)
  | none => removeEntry x.slot s

/-- A DISCARD resume processes the entries at or before the resume tick in timeline order (R42). -/
def discardOverdue (s : State) : State :=
  (s.timeline.entries.filter fun x => s.time.reached x.expiry).foldl discardEntry s

/-- The timeline takes a resume with its mode (R40). -/
def resumeTimeline (m : ResumeMode) (s : State) : State :=
  match m with
  | .catchup => markOverdue s
  | .discard => discardOverdue s

end Sys2Proof.Machine
end

