-- ==== Sys2Proof/Machine/Intake.lean ====
section
/-! DEFINITION. The command intake: post index writes, the ends of fetches, taking commands, WAIT and NOP,
DEADLINE_EXPIRY and the reset of a command ring (file 08). -/

namespace Sys2Proof.Machine

open Sys2Proof

/-! ### Register writes reach the block -/

/-- A register write: ignored while RESET_N is asserted (R169). -/
def hostWrite (f : State → State) (s : State) : State := if s.control.resetAsserted then s else f s

/-- A rejected index write: BAD_INDEX is set and, while RUNNING, a notice is offered (R131, R142). -/
def rejectIndex (offset : Nat) (s : State) : State :=
  offerSystem (.badIndex (BitVec.ofNat 8 offset)) { s with control := { s.control with badIndex := true } }

/-- A post index that ring `x` accepts (R142). -/
def CommandRing.acceptsPost (x : CommandRing) (p : Nat) : Bool :=
  match x.config with
  | some c => p < c.size
  | none => p = 0

/-- A write of a post index register (R142). -/
def writePost (r : CommandRingId) (value : BitVec 32) (s : State) : State :=
  if s.intake.rings[r].acceptsPost value.toNat then
    settle (setRing r { s.intake.rings[r] with post := value.toNat } s)
  else rejectIndex (postOffset r) s

/-- POST_INDEX_WRITE (R142). -/
def execPostIndexWrite (r : CommandRingId) (value : BitVec 32) (s : State) : Host.Outcome State Fault Refusal :=
  .next (hostWrite (writePost r value) s)

/-! ### WAIT and NOP -/

/-- The deadline of a WAIT: none with a timeout of 0 (R152). -/
def waitDeadline (t : Tick) (timeout : BitVec 64) : Option Tick :=
  if timeout = 0 then none else some (satTick t timeout.toNat)

/-- Puts a WAIT in flight on its ring, which becomes BLOCKED (R152 step 5). -/
def blockOnWait (c : CommandRef) (h : Header) (timeout : BitVec 64) (s : State) : State :=
  setRing c.ring
    { s.intake.rings[c.ring] with
      state := .blocked
      wait := some { slot := h.slot, generation := h.generation, ident := c.ident, takeIndex := c.takeIndex,
                     deadline := waitDeadline s.time.timebase timeout } } s

/-- Takes a WAIT (R152). -/
def takeWait (c : CommandRef) (h : Header) (timeout : BitVec 64) (s : State) : State × Answer :=
  checked h s fun e =>
    if Config.maxSpan < timeout.toNat then answerSlot h.slot .badParam s
    else if e.run = .dormant then answerSlot h.slot .ok s
    else (blockOnWait c h timeout s, .owe .wait)

/-- Takes a NOP (R155). -/
def takeNop (s : State) : State × Answer := (s, .complete .ok .zero)

/-! ### Taking a command -/

/-- Hands a command to its owner (Table 8-3). -/
def takeCommand (c : CommandRef) (h : Header) (m : Command) (s : State) : State × Answer :=
  match m with
  | .load d => takeLoad h d s
  | .start => takeStart h s
  | .stop => takeStop h s
  | .retime f => takeRetime h f s
  | .unload => takeUnload h s
  | .query => takeQuery h s
  | .wait timeout => takeWait c h timeout s
  | .nop => takeNop s
  | .readTime => takeReadTime s
  | .trimRate value => takeTrimRate c value s
  | .stepTimebase delta => takeStepTimebase delta s
  | .setCalendar f => takeSetCalendar c f s
  | .lineSetup f => takeLineSetup f s
  | .lineForce w => takeLineForce w s
  | .captureSetup f level => takeCaptureSetup f level s

/-- An entry joins the tail of a ring's outstanding list (R151). -/
def addOwed (r : CommandRingId) (o : Owed) (s : State) : State :=
  setRing r { s.intake.rings[r] with outstanding := s.intake.rings[r].outstanding ++ [o] } s

/-- Completes a command, or notes the completion it owes (R150, R151). -/
def answerCommand (c : CommandRef) (a : Answer) (s : State) : State :=
  match a with
  | .complete status result => handCompletion c.ring c.ident c.takeIndex status result s
  | .owe kind => addOwed c.ring { kind, ident := c.ident, takeIndex := c.takeIndex } s

/-! ### The end of a fetch -/

/-- The take index one place on (R146). -/
def CommandRing.nextTake (x : CommandRing) : Nat :=
  if x.take + 1 < x.config.elim 0 CommandConfig.size then x.take + 1 else 0

/-- The count of the present turn after a good read from ring `r` (R143). -/
def countTurn (r : CommandRingId) (s : State) : State :=
  if r = s.intake.turn then { s with intake := { s.intake with count := s.intake.count + 1 } } else s

/-- Steps 1 and 2 of R146, with the count of the turn (R143). -/
def advanceTake (r : CommandRingId) (s : State) : State :=
  countTurn r
    (setRing r { s.intake.rings[r] with take := s.intake.rings[r].nextTake, fetch := none } s)

/-- A good read from ring `r` (R146): the command is taken by its owner, or refused BAD_COMMAND (R149). -/
def takeFetched (h : Header) (m : Option Command) (r : CommandRingId) (s : State) : State :=
  let c : CommandRef := { ring := r, ident := h.ident, takeIndex := s.intake.rings[r].nextTake }
  let t := advanceTake r s
  match m with
  | some m => answerCommand c (takeCommand c h m t).2 (takeCommand c h m t).1
  | none => answerCommand c (.complete .badCommand .zero) t

/-- The FAULT bit is set (R172). -/
def setFault (s : State) : State := { s with control := { s.control with fault := true } }

/-- A bus error from ring `r` (R147). -/
def faultFetch (r : CommandRingId) (s : State) : State :=
  let t := setRing r { s.intake.rings[r] with fetch := none, state := .faulted } s
  offerSystem (.commandFault r)
    (setFault
      (match s.intake.rings[r].bound? with
        | some k => returnReservations k 1 t
        | none => t))

/-- A fetch discarded on arrival (R148). -/
def dropFetch (r : CommandRingId) (s : State) : State := setRing r { s.intake.rings[r] with fetch := none } s

/-- An ACTIVE ring whose bound notice ring is FAULTED becomes STALLED (R132 step 4, R148). -/
def stallIfFaulted (r : CommandRingId) (s : State) : State :=
  if s.intake.rings[r].state = .active then
    setRing r { s.intake.rings[r] with state := servedState s.intake.rings[r] s } s
  else s

/-- The end of the fetch in flight, if there is one: discarded, or as `f` says (R146 to R148). The arbiter's next
choice follows. -/
def endFetch (f : CommandRingId → State → State) (s : State) : State :=
  match s.fetchingRing with
  | some r =>
    settle (stallIfFaulted r
      (if s.intake.rings[r].fetch.elim false Fetch.discarded then dropFetch r s else f r s))
  | none => s

/-- The end of the fetch in flight with a good read of a record of header `h` and command `m` (log entry 9). -/
def commandFetched (h : Header) (m : Command) (s : State) : State := endFetch (takeFetched h (some m)) s

/-- FETCH_END (R146 to R149). -/
def execFetchEnd (e : FetchEnd) (pins : BitVec 8) (s : State) : Host.Outcome State Fault Refusal :=
  .next (match e with
    | .good record => endFetch (takeFetched (headerOf record) (commandOf record pins)) s
    | .busError => endFetch faultFetch s)

/-! ### The deadline of a WAIT -/

/-- DEADLINE_EXPIRY (R153): taken when the timebase stands at or beyond the deadline of the ring's WAIT. -/
def execDeadlineExpiry (r : CommandRingId) (s : State) : Host.Outcome State Fault Refusal :=
  .next (match s.intake.rings[r].wait with
    | some w =>
      match w.deadline with
      | some t => if s.time.reached t then settle (endWait r w .timedOut s) else s
      | none => s
    | none => s)

/-! ### Ring reset -/

/-- A ring's state after its reset (R156 step 6). -/
def commandStateOf (c : Option CommandConfig) : CommandRingState :=
  if c.elim false CommandConfig.enabled then .active else .disabled

/-- A command ring afresh with configuration `c`: a fetch in flight is to be discarded on arrival, all else is at
its reset value (R140, R156, R157). -/
def CommandRing.fresh (c : Option CommandConfig) (x : CommandRing) : CommandRing :=
  { CommandRing.reset with config := c, state := commandStateOf c
                           fetch := x.fetch.map fun f => { f with discarded := true } }

/-- The reservations a ring holds (R140). -/
def CommandRing.reservations (x : CommandRing) : Nat :=
  (if x.fetchReservation then 1 else 0) + (if x.fetch.elim false (fun f => !f.discarded) then 1 else 0)
    + x.outstanding.length

/-- The ring afresh, off every request list of notice ring `k`; the turn passes on if it was the turn ring
(R156 steps 1 to 4, 6 and 7). -/
def clearRing (k : NoticeRingId) (r : CommandRingId) (s : State) : State :=
  let t := setNotice k { s.notices[k] with requests := s.notices[k].requests.filter fun q => q ≠ r }
    (setRing r (s.intake.rings[r].fresh s.intake.rings[r].config) s)
  if r = s.intake.turn then endTurn t else t

/-- The reset of a configured command ring. By cascade from its notice ring the reservations are cleared already
(R156 step 5). -/
def resetCommandRing (cascade : Bool) (r : CommandRingId) (s : State) : State :=
  match s.intake.rings[r].bound? with
  | some k =>
    if cascade then clearRing k r s
    else returnReservations k s.intake.rings[r].reservations (clearRing k r s)
  | none => s

/-- A ring reset handed out by a QUEUE_RESET bit: while the core is RUNNING (R170). -/
def whileRunning (f : State → State) (s : State) : State := if s.control.core = .running then f s else s

/-- COMMAND_RING_RESET (R156, R170). -/
def execCommandRingReset (r : CommandRingId) (s : State) : Host.Outcome State Fault Refusal :=
  .next (hostWrite (whileRunning fun s => settle (resetCommandRing false r s)) s)

end Sys2Proof.Machine
end

