-- ==== Sys2Proof/Machine/Commands.lean ====
section
/-! DEFINITION. The fifteen command records, each as the end of the fetch in flight with a good read of a record
of its kind (R146, log entry 9). What each command does is its owner's `take` function. -/

namespace Sys2Proof.Machine

open Sys2Proof

/-- LOAD (R9). -/
def execLoad (h : Header) (d : LoadFields) (s : State) : Host.Outcome State Fault Refusal :=
  .next (commandFetched h (.load d) s)

/-- START (R13). -/
def execStart (h : Header) (s : State) : Host.Outcome State Fault Refusal := .next (commandFetched h .start s)

/-- STOP (R15). -/
def execStop (h : Header) (s : State) : Host.Outcome State Fault Refusal := .next (commandFetched h .stop s)

/-- RETIME (R18). -/
def execRetime (h : Header) (f : RetimeFields) (s : State) : Host.Outcome State Fault Refusal :=
  .next (commandFetched h (.retime f) s)

/-- UNLOAD (R19). -/
def execUnload (h : Header) (s : State) : Host.Outcome State Fault Refusal := .next (commandFetched h .unload s)

/-- QUERY (R20). -/
def execQuery (h : Header) (s : State) : Host.Outcome State Fault Refusal := .next (commandFetched h .query s)

/-- WAIT (R152). -/
def execWait (h : Header) (timeout : BitVec 64) (s : State) : Host.Outcome State Fault Refusal :=
  .next (commandFetched h (.wait timeout) s)

/-- NOP (R155). -/
def execNop (h : Header) (s : State) : Host.Outcome State Fault Refusal := .next (commandFetched h .nop s)

/-- READ_TIME (R84). -/
def execReadTime (h : Header) (s : State) : Host.Outcome State Fault Refusal := .next (commandFetched h .readTime s)

/-- TRIM_RATE (R75). -/
def execTrimRate (h : Header) (value : BitVec 32) (s : State) : Host.Outcome State Fault Refusal :=
  .next (commandFetched h (.trimRate value) s)

/-- STEP_TIMEBASE (R78). -/
def execStepTimebase (h : Header) (delta : BitVec 64) (s : State) : Host.Outcome State Fault Refusal :=
  .next (commandFetched h (.stepTimebase delta) s)

/-- SET_CALENDAR (R86). -/
def execSetCalendar (h : Header) (f : CalendarFields) (s : State) : Host.Outcome State Fault Refusal :=
  .next (commandFetched h (.setCalendar f) s)

/-- LINE_SETUP (R63). -/
def execLineSetup (h : Header) (f : LineSetupFields) (s : State) : Host.Outcome State Fault Refusal :=
  .next (commandFetched h (.lineSetup f) s)

/-- LINE_FORCE (R67). -/
def execLineForce (h : Header) (w : ActionWord) (s : State) : Host.Outcome State Fault Refusal :=
  .next (commandFetched h (.lineForce w) s)

/-- CAPTURE_SETUP (R111), with the level on the line's pin (log entry 8). -/
def execCaptureSetup (h : Header) (f : CaptureSetupFields) (level : Level) (s : State) :
    Host.Outcome State Fault Refusal :=
  .next (commandFetched h (.captureSetup f level) s)

end Sys2Proof.Machine
end

