-- ==== Sys2Proof/Machine/Notices.lean ====
section
/-! DEFINITION. The notice unit: release index writes, the ends of record writes, HOLDOFF_EXPIRY and the reset of a
notice ring (file 07). -/

namespace Sys2Proof.Machine

open Sys2Proof

/-! ### Release -/

/-- The places a release index `r` gives back (R130). -/
def NoticeRing.freedBy (x : NoticeRing) (r : Nat) : Nat := (r + x.size - x.releaseIndex) % x.size

/-- A release index that ring `x` accepts (R130). Right after the reset of a FAULTED NR0 its QUEUE_FAULT occupies
place 0, so a release of 1 is accepted, although R138 calls any value but 0 invalid then (log entry 39). -/
def NoticeRing.acceptsRelease (x : NoticeRing) (r : Nat) : Bool :=
  match x.config with
  | some c => r < c.size && x.freedBy r ≤ x.occupied
  | none => r = 0

/-- The first `n` records of a write queue not yet released are marked released (R130). -/
def markReleased : Nat → List Queued → List Queued
  | 0, qs => qs
  | _ + 1, [] => []
  | n + 1, q :: qs =>
    if q.released then q :: markReleased (n + 1) qs else { q with released := true } :: markReleased n qs

/-- A ring after a valid release to index `r` (R130). -/
def NoticeRing.release (r : Nat) (x : NoticeRing) : NoticeRing :=
  { x with
    releaseIndex := r
    occupied := x.occupied - x.freedBy r
    written := x.written.drop (x.freedBy r)
    queue := markReleased (x.freedBy r - x.written.length) x.queue }

/-- A write of a release index register (R130, R131). On a ring that is not configured a write of 0 frees
nothing. -/
def writeRelease (k : NoticeRingId) (value : BitVec 32) (s : State) : State :=
  if s.notices[k].acceptsRelease value.toNat then
    if s.notices[k].config.isSome then
      settle (evalReady k (serve k (setNotice k (s.notices[k].release value.toNat) s)))
    else s
  else rejectIndex (releaseOffset k) s

/-- RELEASE_INDEX_WRITE (R130, R131). -/
def execReleaseIndexWrite (k : NoticeRingId) (value : BitVec 32) (s : State) : Host.Outcome State Fault Refusal :=
  .next (hostWrite (writeRelease k value) s)

/-! ### The end of a record write -/

/-- Memory after a record write ends (R121, log entry 5). -/
def endWriteInMemory (q : Queued) (e : WriteEnd) (s : State) : State :=
  match e with
  | .good => { s with memory := Memory.writeRecord q s.memory }
  | .busError => { s with memory := Memory.spoilRecord q s.freeCount s.memory, freeCount := s.freeCount + 32 }

/-- The head record is written (R121): it becomes unreleased, unless its place was released meanwhile (R130). -/
def NoticeRing.headWritten (q : Queued) (t : Tick) (x : NoticeRing) : NoticeRing :=
  { x with queue := x.queue.tail, written := if q.released then x.written else x.written ++ [t] }

/-- Steps 1 to 3 of R132: every queued record is lost and the ring is FAULTED. -/
def NoticeRing.faultWrite (x : NoticeRing) : NoticeRing :=
  { x.loseRecords x.queue.length with queue := [], state := .faulted }

/-- A command ring at the fault of its notice ring (R132 step 4). -/
def CommandRing.boundFault (x : CommandRing) : CommandRing :=
  if x.state = .active && x.fetch.isNone then { x with state := .stalled } else x

/-- Step 4 of R132: the intake treats each command ring bound to ring `k`. -/
def faultBound (k : NoticeRingId) (s : State) : State :=
  { s with intake :=
      { s.intake with rings := s.intake.rings.map fun x => if x.bound? = some k then x.boundFault else x } }

/-- A record write of ring `k` ends with a bus error (R132, R134). -/
def faultNotices (k : NoticeRingId) (s : State) : State :=
  let t := setFault (faultBound k (setNotice k s.notices[k].faultWrite s))
  settle (if k = 1 then offerSystem (.noticeFault k 0) t else t)

/-- The write of the head record `q` of ring `k` ends (R121, R132). -/
def endHeadWrite (k : NoticeRingId) (q : Queued) (e : WriteEnd) (s : State) : State :=
  match e with
  | .good => evalReady k (setNotice k (s.notices[k].headWritten q s.time.timebase) s)
  | .busError => faultNotices k s

/-- WRITE_END (R121, R132). A write in flight from before a reset ends without effect on the ring (R138). -/
def execWriteEnd (k : NoticeRingId) (e : WriteEnd) (s : State) : Host.Outcome State Fault Refusal :=
  .next (match s.notices[k].stale, s.notices[k].queue with
    | some q, _ => endWriteInMemory q e (setNotice k { s.notices[k] with stale := none } s)
    | none, q :: _ => endHeadWrite k q e (endWriteInMemory q e s)
    | none, [] => s)

/-! ### Moderation -/

/-- HOLDOFF_EXPIRY (R136): a ring with an unreleased record that is not ready becomes ready when the timebase
stands at or beyond its oldest post tick plus the holdoff. -/
def execHoldoffExpiry (k : NoticeRingId) (s : State) : Host.Outcome State Fault Refusal :=
  .next (if s.notices[k].ready then s else evalReady k s)

/-! ### Ring reset -/

/-- A ring's state after its reset (R137 step 5). -/
def noticeStateOf (c : Option NoticeConfig) : NoticeRingState :=
  if c.elim false NoticeConfig.enabled then .active else .disabled

/-- The write in flight of a ring, which goes on through a reset (R138). -/
def NoticeRing.inFlight (x : NoticeRing) : Option Queued := x.stale.orElse fun _ => x.queue.head?

/-- A notice ring afresh with configuration `c`: all but a write in flight at its reset value (R118, R137 to
R139). -/
def NoticeRing.fresh (c : Option NoticeConfig) (x : NoticeRing) : NoticeRing :=
  { NoticeRing.reset with config := c, state := noticeStateOf c, stale := x.inFlight }

/-- A source discarded with its deferred list (R137 step 3). -/
def discardSource (s : State) (d : Deferred) : State :=
  match d with
  | .slot i _ => setNoticePending i false s
  | .line c => setCapture c { s.capture.lines[c] with held := none, lost := 0 } s
  | .system _ _ => s

/-- Resets command ring `r` by cascade, if it is bound to notice ring `k` (R137 step 6). -/
def cascadeReset (k : NoticeRingId) (s : State) (r : CommandRingId) : State :=
  if s.intake.rings[r].bound? = some k then resetCommandRing true r s else s

/-- The reset of a notice ring (R137). -/
def resetNoticeRing (k : NoticeRingId) (s : State) : State :=
  let x := s.notices[k]
  let t := [0, 1, 2, 3].foldl (cascadeReset k) (x.deferred.foldl discardSource (setNotice k (x.fresh x.config) s))
  if k = 0 ∧ x.state = .faulted then offerSystem (.noticeFault k x.lostRecords) t else t

/-- NOTICE_RING_RESET (R137, R170). -/
def execNoticeRingReset (k : NoticeRingId) (s : State) : Host.Outcome State Fault Refusal :=
  .next (hostWrite (whileRunning fun s => settle (resetNoticeRing k s)) s)

end Sys2Proof.Machine
end

