-- ==== Sys2Proof/Machine/Control.lean ====
section
/-! DEFINITION. The control unit: CONTROL actions, halt causes, the setup load, the resets, the register window
(file 09, section 10.6), and the reference clock. -/

namespace Sys2Proof.Machine

open Sys2Proof

/-! ### Halt -/

/-- Entry to HALTED (R166). -/
def enterHalted (s : State) : State :=
  let t := haltLines s
  offerSystem (.halted s.control.software s.control.pin) { t with capture := { t.capture with suppressed := true } }

/-- Latches halt causes as `f` says; a RUNNING controller with no cause before enters HALTED (R159, R165). -/
def latch (f : Control → Control) (s : State) : State :=
  if s.control.core = .running ∧ s.control.causeLatched = false then enterHalted { s with control := f s.control }
  else { s with control := f s.control }

/-- The HALT action (R165). -/
def controlHalt (s : State) : State := latch (fun c => { c with software := true }) s

/-- HALT (R165). -/
def execHalt (s : State) : Host.Outcome State Fault Refusal := .next (hostWrite controlHalt s)

/-- HALT_IN_ASSERT (R165): the change of the pin from released to asserted. While RESET_N is asserted PIN is not
latched: it is at the release (R169). -/
def execHaltInAssert (s : State) : Host.Outcome State Fault Refusal :=
  .next (if s.control.haltIn then s
    else if s.control.resetAsserted then { s with control := { s.control with haltIn := true } }
    else latch (fun c => { c with haltIn := true, pin := true }) s)

/-- HALT_IN_RELEASE (R165). -/
def execHaltInRelease (s : State) : Host.Outcome State Fault Refusal :=
  .next { s with control := { s.control with haltIn := false } }

/-! ### Resume -/

/-- A RESUME would be a resume: HALTED with HALT_IN released (R167). -/
def State.resumes (s : State) : Bool := s.halted && !s.control.haltIn

/-- Both causes clear (R167). -/
def clearCauses (s : State) : State := { s with control := { s.control with software := false, pin := false } }

/-- A resume of a HALTED controller (R167): the RESUMED notice is offered before the timeline takes the resume. -/
def leaveHalted (m : ResumeMode) (s : State) : State :=
  let t := resumeTimeline m (offerSystem (.resumed m) (clearCauses s))
  { t with capture := { t.capture with suppressed := false } }

/-- The RESUME action (R167). -/
def controlResume (m : ResumeMode) (s : State) : State :=
  if s.control.haltIn then { s with control := { s.control with resumeRefused := true } }
  else if s.halted then leaveHalted m s
  else clearCauses s

/-- A RESUME by itself, with the arbiter's choice where a resume is taken. -/
def resumeAlone (m : ResumeMode) (s : State) : State :=
  if s.resumes then settle (controlResume m s) else controlResume m s

/-- RESUME (R167). -/
def execResume (m : ResumeMode) (s : State) : Host.Outcome State Fault Refusal := .next (hostWrite (resumeAlone m) s)

/-! ### Start and the setup load -/

/-- The START action (R160, R162). -/
def controlStart (s : State) : State :=
  if s.control.core = .off then
    { s with control :=
        { s.control with
          core := .loading
          setupReads := s.control.setupReads ++ [{ address := s.control.setupAddress, abandoned := false }] } }
  else { s with control := { s.control with startIgnored := true } }

/-- CONTROL_START (R160, R162). -/
def execControlStart (s : State) : Host.Outcome State Fault Refusal := .next (hostWrite controlStart s)

/-- Steps 1 to 5 of R162. -/
def configure (c : SetupConfig) (s : State) : State :=
  { s with
    intake :=
      { rings := Vector.ofFn fun r => s.intake.rings[r].fresh (some c.commands[r]), turn := 3, count := 8,
        turnOver := false }
    notices := Vector.ofFn fun k => s.notices[k].fresh (some c.notices[k])
    timeline := { s.timeline with lateThreshold := c.lateThreshold }
    control := { s.control with core := .running } }

/-- A good setup read with a valid block (R162). -/
def loadSetup (c : SetupConfig) (s : State) : State :=
  settle (if s.control.causeLatched then enterHalted (configure c s) else configure c s)

/-- A failed setup load (R163). -/
def failSetup (s : State) : State := { s with control := { s.control with core := .failed, fault := true } }

/-- The configuration that the end of a setup read brings, if it ended good with a valid block (R163). -/
def setupOf (e : SetupEnd) : Option SetupConfig :=
  match e with
  | .good block => setupConfigOf block
  | .busError => none

/-- SETUP_READ_END of the `i`-th read under way (R162 to R164, log entry 17). -/
def execSetupReadEnd (i : Nat) (e : SetupEnd) (s : State) : Host.Outcome State Fault Refusal :=
  .next (match s.control.setupReads[i]? with
    | some x =>
      let t := { s with control := { s.control with setupReads := s.control.setupReads.eraseIdx i } }
      if x.abandoned then t
      else
        match setupOf e with
        | some c => loadSetup c t
        | none => failSetup t
    | none => s)

/-! ### Resets of the core -/

/-- The control unit at a reset of the core (R168 steps 2 to 6). -/
def Control.coreReset (c : Control) : Control :=
  { Control.reset with
    pin := c.haltIn && !c.resetAsserted
    haltIn := c.haltIn
    resetAsserted := c.resetAsserted
    setupAddress := c.setupAddress
    setupReads := c.setupReads.map fun x => { x with abandoned := true } }

/-- The CORE_RESET action (R168): every block at its core reset values, bus work in flight to end without
effect. -/
def controlReset (s : State) : State :=
  { s with
    control := s.control.coreReset
    intake := { Intake.reset with rings := s.intake.rings.map (CommandRing.fresh none) }
    slots := Vector.replicate 256 Slot.reset
    timeline := Timeline.reset
    resolver := Resolver.reset
    time := { s.time with pendingTrim := none }
    lines := Vector.replicate 16 Line.reset
    capture := CaptureUnit.reset
    notices := s.notices.map (NoticeRing.fresh none) }

/-- CORE_RESET (R168). -/
def execCoreReset (s : State) : Host.Outcome State Fault Refusal := .next (hostWrite controlReset s)

/-- What power-on and RESET_N do beyond a core reset (R169). -/
def fullReset (s : State) : State :=
  let t := controlReset s
  { t with time := TimeUnit.reset, control := { t.control with setupAddress := 0 } }

/-- POWER_ON, its end included (R169): PIN is latched where HALT_IN is asserted. -/
def execPowerOn (s : State) : Host.Outcome State Fault Refusal := .next (fullReset s)

/-- RESET_N_ASSERT (R169). -/
def execResetNAssert (s : State) : Host.Outcome State Fault Refusal :=
  .next (fullReset { s with control := { s.control with resetAsserted := true } })

/-- RESET_N_RELEASE (R169): PIN is latched where HALT_IN is asserted. -/
def execResetNRelease (s : State) : Host.Outcome State Fault Refusal :=
  .next (if s.control.resetAsserted then
      { s with control := { s.control with resetAsserted := false, pin := s.control.haltIn } }
    else s)

/-! ### Flags and interrupts -/

/-- The CLEAR_FLAGS action (R171). -/
def controlClear (s : State) : State :=
  { s with control := { s.control with badIndex := false, startIgnored := false, resumeRefused := false } }

/-- CLEAR_FLAGS (R171). -/
def execClearFlags (s : State) : Host.Outcome State Fault Refusal := .next (hostWrite controlClear s)

/-- A write to INT_STATUS reads bit 2 alone (R172). -/
def writeIntStatus (value : BitVec 32) (s : State) : State :=
  if value.getLsbD 2 then { s with control := { s.control with fault := false } } else s

/-- INT_STATUS_WRITE (R172). -/
def execIntStatusWrite (value : BitVec 32) (s : State) : Host.Outcome State Fault Refusal :=
  .next (hostWrite (writeIntStatus value) s)

/-- A write to INT_ENABLE stores bits 0 to 3 (R173). -/
def writeIntEnable (value : BitVec 32) (s : State) : State :=
  { s with control := { s.control with enable := value.extractLsb' 0 4 } }

/-- INT_ENABLE_WRITE (R173). -/
def execIntEnableWrite (value : BitVec 32) (s : State) : Host.Outcome State Fault Refusal :=
  .next (hostWrite (writeIntEnable value) s)

/-! ### The register window -/

/-- One action of a CONTROL write, if its bit is set (R160). -/
def whenBit (value : BitVec 32) (i : Nat) (f : State → State) (s : State) : State :=
  if value.getLsbD i then f s else s

/-- The mode a CONTROL write carries in bit 8 (Table 10-16). -/
def resumeModeOf (value : BitVec 32) : ResumeMode := if value.getLsbD 8 then .discard else .catchup

/-- A write to CONTROL: its actions in the order of R160, then, with a resume among them, the arbiter's choice. -/
def writeControl (value : BitVec 32) (s : State) : State :=
  let a := whenBit value 1 controlHalt (whenBit value 0 controlStart s)
  let b := whenBit value 4 controlClear (whenBit value 3 controlReset (whenBit value 2 (controlResume (resumeModeOf value)) a))
  if value.getLsbD 2 && a.resumes then settle b else b

/-- The ring resets of a QUEUE_RESET write: notice rings first, then command rings, in one happening (R170). -/
def resetRings (value : BitVec 32) (s : State) : State :=
  settle (whenBit value 3 (resetCommandRing false 3) (whenBit value 2 (resetCommandRing false 2)
    (whenBit value 1 (resetCommandRing false 1) (whenBit value 0 (resetCommandRing false 0)
      (whenBit value 5 (resetNoticeRing 1) (whenBit value 4 (resetNoticeRing 0) s))))))

/-- A write to QUEUE_RESET (R170): one that names no ring changes nothing. -/
def writeQueueReset (value : BitVec 32) (s : State) : State :=
  if value.extractLsb' 0 6 = 0 then s else whileRunning (resetRings value) s

/-- The setup address with one half written (R162). -/
def writeSetupAddress (high : Bool) (value : BitVec 32) (s : State) : State :=
  let a := s.control.setupAddress
  { s with control :=
      { s.control with
        setupAddress := if high then value ++ a.extractLsb' 0 32 else a.extractLsb' 32 32 ++ value } }

/-- A 32-bit write of the register at byte offset `o` (R178, Table 10-15): a register with a behaviour of its own
has it; the setup address halves are stored; the rest ignore the write. -/
def writeRegister (o : Nat) (value : BitVec 32) (s : State) : State :=
  match o with
  | 0x00 => writeControl value s
  | 0x08 => writeIntStatus value s
  | 0x0C => writeIntEnable value s
  | 0x10 => writeQueueReset value s
  | 0x14 => writeSetupAddress false value s
  | 0x18 => writeSetupAddress true value s
  | 0x1C => writePost 0 value s
  | 0x20 => writePost 1 value s
  | 0x24 => writePost 2 value s
  | 0x28 => writePost 3 value s
  | 0x2C => writeRelease 0 value s
  | 0x30 => writeRelease 1 value s
  | _ => s

/-- REGISTER_WRITE (R178): a write with fewer than four bytes is ignored. -/
def execRegisterWrite (offset : BitVec 6) (value : BitVec 32) (bytes : Nat) (s : State) :
    Host.Outcome State Fault Refusal :=
  .next (if bytes = 4 then hostWrite (writeRegister offset.toNat value) s else s)

/-! ### The reference clock -/

/-- REFERENCE_CLOCK_PERIOD (R58, R72): the timebase counts, but for RESET_N asserted, and every density generator
counts the period. -/
def execReferenceClockPeriod (s : State) : Host.Outcome State Fault Refusal :=
  .next (if s.control.resetAsserted then s
    else { s with time := s.time.referencePeriod, lines := s.lines.map Line.referencePeriod })

end Sys2Proof.Machine
end

