-- ==== Sys2Proof/Machine/Dispatch.lean ====
section
/-! DEFINITION. One arm for each command: its meaning. -/

namespace Sys2Proof.Machine

open Sys2Proof

def exec (i : Instr) (s : State) : Host.Outcome State Fault Refusal :=
  match i with
  | .load h d => Sys2Proof.Machine.execLoad h d s
  | .start h => Sys2Proof.Machine.execStart h s
  | .stop h => Sys2Proof.Machine.execStop h s
  | .retime h f => Sys2Proof.Machine.execRetime h f s
  | .unload h => Sys2Proof.Machine.execUnload h s
  | .query h => Sys2Proof.Machine.execQuery h s
  | .wait h timeout => Sys2Proof.Machine.execWait h timeout s
  | .nop h => Sys2Proof.Machine.execNop h s
  | .readTime h => Sys2Proof.Machine.execReadTime h s
  | .trimRate h value => Sys2Proof.Machine.execTrimRate h value s
  | .stepTimebase h delta => Sys2Proof.Machine.execStepTimebase h delta s
  | .setCalendar h f => Sys2Proof.Machine.execSetCalendar h f s
  | .lineSetup h f => Sys2Proof.Machine.execLineSetup h f s
  | .lineForce h w => Sys2Proof.Machine.execLineForce h w s
  | .captureSetup h f level => Sys2Proof.Machine.execCaptureSetup h f level s
  | .controlStart => Sys2Proof.Machine.execControlStart s
  | .halt => Sys2Proof.Machine.execHalt s
  | .resume mode => Sys2Proof.Machine.execResume mode s
  | .coreReset => Sys2Proof.Machine.execCoreReset s
  | .clearFlags => Sys2Proof.Machine.execClearFlags s
  | .noticeRingReset k => Sys2Proof.Machine.execNoticeRingReset k s
  | .commandRingReset r => Sys2Proof.Machine.execCommandRingReset r s
  | .postIndexWrite r value => Sys2Proof.Machine.execPostIndexWrite r value s
  | .releaseIndexWrite k value => Sys2Proof.Machine.execReleaseIndexWrite k value s
  | .intStatusWrite value => Sys2Proof.Machine.execIntStatusWrite value s
  | .intEnableWrite value => Sys2Proof.Machine.execIntEnableWrite value s
  | .registerWrite offset value bytes => Sys2Proof.Machine.execRegisterWrite offset value bytes s
  | .powerOn => Sys2Proof.Machine.execPowerOn s
  | .resetNAssert => Sys2Proof.Machine.execResetNAssert s
  | .resetNRelease => Sys2Proof.Machine.execResetNRelease s
  | .haltInAssert => Sys2Proof.Machine.execHaltInAssert s
  | .haltInRelease => Sys2Proof.Machine.execHaltInRelease s
  | .firing => Sys2Proof.Machine.execFiring s
  | .pulseEnd l => Sys2Proof.Machine.execPulseEnd l s
  | .frameStart l => Sys2Proof.Machine.execFrameStart l s
  | .secondBoundary => Sys2Proof.Machine.execSecondBoundary s
  | .sample c level => Sys2Proof.Machine.execSample c level s
  | .holdoffExpiry k => Sys2Proof.Machine.execHoldoffExpiry k s
  | .deadlineExpiry r => Sys2Proof.Machine.execDeadlineExpiry r s
  | .fetchEnd e pins => Sys2Proof.Machine.execFetchEnd e pins s
  | .writeEnd k e => Sys2Proof.Machine.execWriteEnd k e s
  | .setupReadEnd n e => Sys2Proof.Machine.execSetupReadEnd n e s
  | .take => Sys2Proof.Machine.execTake s
  | .workEnd => Sys2Proof.Machine.execWorkEnd s
  | .referenceClockPeriod => Sys2Proof.Machine.execReferenceClockPeriod s
  | .densityClock l => Sys2Proof.Machine.execDensityClock l s

end Sys2Proof.Machine
end

