-- ==== Sys2Proof/Safety.lean ====
section
/-! DEFINITION. What the statements speak of: how a command in flight is reached, what a happening leaves alone, and
the invariants every step keeps. -/

namespace Sys2Proof.Machine

open Sys2Proof

/-! ### The fetch in flight -/

/-- The fetch of ring `r`, bound to notice ring `k`, is in flight and not discarded: the next end of a fetch is its
end. -/
structure Fetching (s : State) (r : CommandRingId) (k : NoticeRingId) : Prop where
  path : s.fetchingRing = some r
  live : s.intake.rings[r].fetch.elim false Fetch.discarded = false
  bound : s.intake.rings[r].bound? = some k

/-- The completion of the command now in flight on ring `r` (R150). -/
def completionOf (s : State) (r : CommandRingId) (h : Header) (status : Status) (result : Result) : Notice :=
  .completion r status h.ident s.intake.rings[r].nextTake result

/-! ### What the arbiter may change -/

/-- A command ring as one choice of the arbiter may leave it (R143 to R145): as it was, with its fetch begun at the
take index, or STALLED on a request. -/
def ArbiterRing (x y : CommandRing) : Prop :=
  y = x ∨ y = { x with fetchReservation := false, fetch := some x.nextFetch } ∨
    y = { x with requestOutstanding := true, state := .stalled }

/-- A notice ring as one choice of the arbiter may leave it: with at most one reservation granted, and requests at
the tail of its request list. -/
def ArbiterNotice (x y : NoticeRing) : Prop :=
  ∃ n l, n ≤ 1 ∧ y = { x with reserved := x.reserved + n, requests := x.requests ++ l }

/-- Between `s` and `t` nothing but the arbiter's choice (R143 to R145): every block but the intake and the notice unit
is as it was, and those differ as one choice allows. Which ring is chosen, which requests are refused, and the turn, its
count and its mark are as O13 states them of `settle`. -/
structure ArbiterOnly (s t : State) : Prop where
  choice : t = settle s
  blocks : t = { s with intake := t.intake, notices := t.notices }
  rings : ∀ r : CommandRingId, ArbiterRing s.intake.rings[r] t.intake.rings[r]
  notices : ∀ k : NoticeRingId, ArbiterNotice s.notices[k] t.notices[k]

/-! ### A command that completes at once -/

/-- A notice ring that has been handed a completion with its reservation (R123): on an ACTIVE ring the completion
takes a place; on another it is lost and counted. -/
def NoticeRing.answered (n : Notice) (x : NoticeRing) : NoticeRing :=
  if x.state = .active then { x.takePlace n with reserved := x.reserved - 1 }
  else { x.loseRecords 1 with reserved := x.reserved - 1 }

/-- A command ring whose command has been taken (R146 steps 1 and 2), and which is STALLED if its notice ring is
FAULTED (R148). -/
def CommandRing.taken (faulted : Bool) (x : CommandRing) : CommandRing :=
  { x with take := x.nextTake, fetch := none, state := if x.state = .active && faulted then .stalled else x.state }

/-- A notice ring that has been handed completions, each with its reservation, in order (R123). -/
def NoticeRing.handed (l : List Notice) (x : NoticeRing) : NoticeRing := l.foldl (fun y n => y.answered n) x

/-- `w` with the command of ring `r` taken: the ring has moved on by one record, the count of the turn has risen if it
is the turn ring, and notice ring `k` has been handed the command's own completions `l` (R143, R146, R150). -/
def afterTake (r : CommandRingId) (k : NoticeRingId) (l : List Notice) (w : State) : State :=
  { w with
    intake :=
      { w.intake with
        rings := w.intake.rings.set r (w.intake.rings[r].taken (w.notices[k].state = .faulted))
        count := if r = w.intake.turn then w.intake.count + 1 else w.intake.count }
    notices := w.notices.set k (w.notices[k].handed l) }

/-- The command in flight on ring `r` in `s` was taken and its completion `n` handed to ring `k`. Every block but
the intake and the notice unit is as in `u`; ring `r` has moved on by one record; the rest is the arbiter's next
choice. -/
structure Answered (s u t : State) (r : CommandRingId) (k : NoticeRingId) (n : Notice) : Prop where
  choice : t = settle (afterTake r k [n] { u with intake := s.intake, notices := s.notices })
  blocks : t = { u with intake := t.intake, notices := t.notices }
  own : ArbiterRing (s.intake.rings[r].taken (s.notices[k].state = .faulted)) t.intake.rings[r]
  rings : ∀ q : CommandRingId, q ≠ r → ArbiterRing s.intake.rings[q] t.intake.rings[q]
  notice : ArbiterNotice (s.notices[k].answered n) t.notices[k]
  notices : ∀ j : NoticeRingId, j ≠ k → ArbiterNotice s.notices[j] t.notices[j]

/-- The command in flight on ring `r` in `s` was taken and owes its completion: entry `o` stands at the tail of the
outstanding list (R151). -/
structure Owing (s u t : State) (r : CommandRingId) (k : NoticeRingId) (o : Owed) : Prop where
  choice : t = settle (afterTake r k []
    { setRing r { s.intake.rings[r] with outstanding := s.intake.rings[r].outstanding ++ [o] } { u with intake := s.intake }
      with notices := s.notices })
  blocks : t = { u with intake := t.intake, notices := t.notices }
  own : ArbiterRing
    { s.intake.rings[r].taken (s.notices[k].state = .faulted) with outstanding := s.intake.rings[r].outstanding ++ [o] }
    t.intake.rings[r]
  rings : ∀ q : CommandRingId, q ≠ r → ArbiterRing s.intake.rings[q] t.intake.rings[q]
  notices : ∀ j : NoticeRingId, ArbiterNotice s.notices[j] t.notices[j]

/-- The ticks of one calendar second (R80). -/
def second : Nat := 100000000

/-- The calendar second at tick `t` under the anchor of `u` (R80). -/
def TimeUnit.calendarSecond (u : TimeUnit) (t : Nat) : Nat :=
  (u.anchorSecond + (t - u.anchorTick.toNat) / second) % 12622780800

/-! ### Slot commands -/

/-- A run as every START begins it (R2). -/
def Event.started (run : Run) (e : Event) : Event :=
  { e with run, remaining := if e.defn.repeatCount = 0 then none else some e.defn.repeatCount, firingsDone := 0 }

/-- The sequence counter after one insertion (R24). -/
def counted (q : BitVec 64) : BitVec 64 := if q = BitVec.allOnes 64 then q else q + 1

/-- An entry put after every entry of its expiry or less at the front of the list, before what follows (R23). -/
def placed (e : Entry) (l : List Entry) : List Entry :=
  (l.takeWhile fun y => y.expiry.toNat ≤ e.expiry.toNat) ++ e :: l.dropWhile fun y => y.expiry.toNat ≤ e.expiry.toNat

/-- `s` with slot `i`, of event `e`, ARMED at expiry `x` by an insertion (R25). -/
def armedAt (i : SlotId) (e : Event) (x : Tick) (s : State) : State :=
  { setSlot i { s.slots[i] with event := some { e with run := .armed x s.timeline.nextSequence } } s with
    timeline :=
      { s.timeline with
        entries := placed { slot := i, expiry := x, sequence := s.timeline.nextSequence, haltedOver := false }
          s.timeline.entries
        nextSequence := counted s.timeline.nextSequence } }

/-- A start value in the range that a start mode allows: any tick for ABSOLUTE, a delay of at most 2^40 otherwise (R10,
R17). -/
def startAllowed (m : StartMode) (x : BitVec 64) : Prop := m = .absolute ∨ x.toNat ≤ 2 ^ 40

/-- A period that a repeat count accepts: 0 with a repeat count of 1, or 100 to 2^40 (R10, R17). -/
def periodAllowed (p repeatCount : Nat) : Prop := (p = 0 ∧ repeatCount = 1) ∨ (100 ≤ p ∧ p ≤ 2 ^ 40)

/-- The new values of a RETIME lie in their ranges (R17). -/
def retimeAllowed (f : RetimeFields) (m : StartMode) (repeatCount : Nat) : Prop :=
  (∀ x, f.start = some x → startAllowed m x) ∧ ∀ p, f.period = some p → periodAllowed p.toNat repeatCount

/-! ### Happenings that end WAITs -/

/-- A notice ring that may have been handed completions: records stand only at the tail of its write queue, and
what the host has and has not released is as it was. -/
structure FedNotice (x y : NoticeRing) : Prop where
  config : y.config = x.config
  state : y.state = x.state
  release : y.releaseIndex = x.releaseIndex
  written : y.written = x.written
  deferred : y.deferred = x.deferred
  stale : y.stale = x.stale
  ready : y.ready = x.ready
  queue : ∃ l, y.queue = x.queue ++ l

/-- The WAITs on slot `i` are over in `t`, and no other (R153). -/
def WaitsOver (i : SlotId) (s t : State) : Prop :=
  ∀ r : CommandRingId, t.intake.rings[r].wait = s.intake.rings[r].wait.filter fun w => w.slot ≠ i

/-- The completions that the dormancy report of slot `i` brings to notice ring `j`: one for each WAIT on the slot whose
entry stands, in ring order CR0 to CR3, all with result `x` (R151, R153). -/
def waitCompletions (i : SlotId) (x : Result) (s : State) (j : NoticeRingId) : List Notice :=
  (List.finRange 4).filterMap fun r : CommandRingId =>
    s.intake.rings[r].wait.bind fun w =>
      if w.slot = i ∧ s.intake.rings[r].bound? = some j ∧
          { kind := .wait, ident := w.ident, takeIndex := w.takeIndex } ∈ s.intake.rings[r].outstanding then
        some (.completion r .ok w.ident w.takeIndex x)
      else none

/-- `s` with entry `o` gone from the outstanding list of ring `r`, and completion `n` handed to the bound notice ring
where the entry stood (R151). -/
def owedEnded (r : CommandRingId) (o : Owed) (n : Notice) (s : State) : State :=
  { s with
    intake :=
      { s.intake with
        rings := s.intake.rings.set r { s.intake.rings[r] with outstanding := s.intake.rings[r].outstanding.erase o } }
    notices := Vector.ofFn fun j : NoticeRingId =>
      if o ∈ s.intake.rings[r].outstanding ∧ s.intake.rings[r].bound? = some j then s.notices[j].answered n
      else s.notices[j] }

/-- The bound notice ring of command ring `r` is FAULTED. -/
def State.boundFaulted (s : State) (r : CommandRingId) : Bool :=
  s.intake.rings[r].bound?.any fun k => s.notices[k].state = .faulted

/-- A command ring after the dormancy report of slot `i` (R151, R153): a WAIT on the slot is over and its entry gone,
and the ring is ACTIVE, or STALLED where its notice ring is FAULTED. -/
def CommandRing.reported (i : SlotId) (faulted : Bool) (x : CommandRing) : CommandRing :=
  match x.wait with
  | some w =>
    if w.slot = i then
      { x with
        wait := none, state := if faulted then .stalled else .active
        outstanding := x.outstanding.erase { kind := .wait, ident := w.ident, takeIndex := w.takeIndex } }
    else x
  | none => x

/-- `s` after the dormancy report of slot `i`: every WAIT on the slot is over, and its completion, OK with result `x`,
is handed to its notice ring, in ring order CR0 to CR3 (R7, R153). -/
def reported (i : SlotId) (x : Result) (s : State) : State :=
  { s with
    intake := { s.intake with rings := Vector.ofFn fun r : CommandRingId => s.intake.rings[r].reported i (s.boundFaulted r) }
    notices := Vector.ofFn fun j : NoticeRingId => s.notices[j].handed (waitCompletions i x s j) }

/-- `s` with pass `p` over, and its SET_CALENDAR completed with the pass's anchor and counts (R98, R99). -/
def passEnded (p : Pass) (status : Status) (s : State) : State :=
  owedEnded p.ring { kind := .setCalendar, ident := p.ident, takeIndex := p.takeIndex }
    (.completion p.ring status p.ident p.takeIndex
      (.calendar p.anchorTick p.anchorSecond p.placed p.matched p.noMatch p.stopped))
    { s with resolver := { s.resolver with pass := none } }

/-- `s` with the end of an item counted by the pass in flight, where the item is a member; with all its items ended the
pass is over (R98). -/
def itemEnded (member : Bool) (count : Pass → Pass) (s : State) : State :=
  match s.resolver.pass with
  | some p =>
    if member = true then
      if (count p).placed ≤ (count p).matched + (count p).noMatch + (count p).stopped then passEnded (count p) .ok s
      else { s with resolver := { s.resolver with pass := some (count p) } }
    else s
  | none => s

/-- The pass of `s` with one more stopped item. -/
def Pass.stopOne (p : Pass) : Pass := { p with stopped := p.stopped + 1 }

/-- Outside the intake and the notice unit, `t` is `s` with slot `i`, of event `e`, stopped (R15, R96, R98). -/
structure StoppedSlot (i : SlotId) (e : Event) (s t : State) : Prop where
  blocks : t = { s with intake := t.intake, notices := t.notices
                        slots := s.slots.set i { s.slots[i] with event := some { e with run := .dormant } }
                        timeline := t.timeline, resolver := t.resolver, capture := t.capture }
  timeline : t.timeline = { s.timeline with
    entries := if e.run.isArmed then s.timeline.entries.filter fun y => y.slot ≠ i else s.timeline.entries }
  waiting : ∀ c : CaptureId, t.capture.lines[c] =
    if (e.run = .waiting ∧ e.defn.triggerLine = some c) ∨ (e.run.isArmed = true ∧ e.defn.retriggerLine = some c) then
      { s.capture.lines[c] with waiting := s.capture.lines[c].waiting.filter fun j => j ≠ i }
    else s.capture.lines[c]
  suppressed : t.capture.suppressed = s.capture.suppressed
  started : t.resolver.started =
    if e.run = .resolving ∨ (e.run.isArmed = true ∧ e.defn.isCalendar = true) then s.resolver.started - 1
    else s.resolver.started
  elsewhere : e.run ≠ .resolving → t.resolver = { s.resolver with started := t.resolver.started }
  queued : ∀ x, e.run = .resolving → (s.resolver.queue.find? fun y => y.slot = i) = some x →
    t.resolver.queue = s.resolver.queue.filter (fun y => y.slot ≠ i) ∧ t.resolver.work = s.resolver.work ∧
      (x.member = false → t.resolver.pass = s.resolver.pass)
  worked : ∀ w, e.run = .resolving → (∀ y ∈ s.resolver.queue, y.slot ≠ i) → s.resolver.work = some w →
    w.abandoned = false → w.item.slot = i →
    t.resolver.queue = s.resolver.queue ∧ t.resolver.work = some { w with abandoned := true } ∧
      (w.item.member = false → t.resolver.pass = s.resolver.pass)
  member : ∀ x p, e.run = .resolving → s.resolver.pass = some p →
    ((s.resolver.queue.find? fun y => y.slot = i) = some x ∨
      ((∀ y ∈ s.resolver.queue, y.slot ≠ i) ∧ s.resolver.work = some { item := x, abandoned := false } ∧ x.slot = i)) →
    x.member = true →
    t.resolver.pass = if p.placed ≤ p.matched + p.noMatch + (p.stopped + 1) then none else some p.stopOne

/-- `s` with the pass in flight over, one more item stopped, where `t` shows it ended (R96, R98). -/
def passStopped (s t : State) : State :=
  match s.resolver.pass, t.resolver.pass with
  | some p, none => passEnded p.stopOne .ok s
  | some _, some _ => s
  | none, _ => s

/-- The result that reports slot `i` stopped: the slot as it stands, but DORMANT (R153). -/
def stoppedResult (i : SlotId) (e : Event) (s : State) : Result :=
  Slot.result { s.slots[i] with event := some { e with run := .dormant } } false

/-! ### Records -/

/-- The little-endian field of `n` bytes at byte offset `o` of a record (R174). -/
def recordField {w : Nat} (x : BitVec w) (o n : Nat) : Nat := x.toNat / 2 ^ (8 * o) % 2 ^ (8 * n)

/-- Action word `w` stands at byte offset `o` of a command record (Table 10-6). -/
def wordStandsAt (x : CommandRecord) (o : Nat) (w : ActionWord) : Prop :=
  w.kind.toNat = recordField x o 1 ∧ w.target.toNat = recordField x (o + 1) 1 ∧ w.level.toNat = recordField x (o + 2) 1 ∧
    w.divider.toNat = recordField x (o + 3) 1 ∧ w.value.toNat = recordField x (o + 4) 4

/-- Byte `i` of a pattern area is the pattern field `v`: FFh where it is absent, else its value, from `lo` to `hi` (R10,
R174). -/
def patternByte (area : BitVec 64) (i lo hi : Nat) (v : Option Nat) : Prop :=
  (recordField area i 1 = 255 ∧ v = none) ∨
    (lo ≤ recordField area i 1 ∧ recordField area i 1 ≤ hi ∧ v = some (recordField area i 1))

/-- The header and command of the record with which a command of the table ends a fetch (R146). -/
def carried : Instr → Option (Header × Command)
  | .load h d => some (h, .load d)
  | .start h => some (h, .start)
  | .stop h => some (h, .stop)
  | .retime h f => some (h, .retime f)
  | .unload h => some (h, .unload)
  | .query h => some (h, .query)
  | .wait h timeout => some (h, .wait timeout)
  | .nop h => some (h, .nop)
  | .readTime h => some (h, .readTime)
  | .trimRate h value => some (h, .trimRate value)
  | .stepTimebase h delta => some (h, .stepTimebase delta)
  | .setCalendar h f => some (h, .setCalendar f)
  | .lineSetup h f => some (h, .lineSetup f)
  | .lineForce h w => some (h, .lineForce w)
  | .captureSetup h f level => some (h, .captureSetup f level)
  | .fetchEnd (.good record) pins => (commandOf record pins).map fun m => (headerOf record, m)
  | .fetchEnd .busError _ => none
  | .controlStart | .halt | .resume _ | .coreReset | .clearFlags | .noticeRingReset _ | .commandRingReset _
  | .postIndexWrite _ _ | .releaseIndexWrite _ _ | .intStatusWrite _ | .intEnableWrite _ | .registerWrite _ _ _
  | .powerOn | .resetNAssert | .resetNRelease | .haltInAssert | .haltInRelease | .firing | .pulseEnd _ | .frameStart _
  | .secondBoundary | .sample _ _ | .holdoffExpiry _ | .deadlineExpiry _ | .writeEnd _ _ | .setupReadEnd _ _ | .take
  | .workEnd | .referenceClockPeriod | .densityClock _ => none

/-- Command `c` resets the core: CORE_RESET, power-on, RESET_N, or a CONTROL write with the CORE_RESET bit (R160, R168,
R169). -/
def resetsCore (c : Instr) : Prop :=
  c = .coreReset ∨ c = .powerOn ∨ c = .resetNAssert ∨ ∃ v : BitVec 32, c = .registerWrite 0 v 4 ∧ v.getLsbD 3 = true

/-! ### Invariants -/

/-- `a` stands before `b` in the timeline (R23): by expiry, then by sequence; equal sequences only once the counter
has stopped (R24). -/
def Entry.before (a b : Entry) : Prop :=
  a.expiry.toNat < b.expiry.toNat ∨
    (a.expiry = b.expiry ∧
      (a.sequence.toNat < b.sequence.toNat ∨ (a.sequence = b.sequence ∧ b.sequence.toNat = Config.maxTick)))

/-- R23 and R24. -/
structure TimelineOrdered (s : State) : Prop where
  order : s.timeline.entries.Pairwise Entry.before
  fresh : ∀ e ∈ s.timeline.entries,
    e.sequence.toNat < s.timeline.nextSequence.toNat ∨ s.timeline.nextSequence.toNat = Config.maxTick

/-- Setup reads and RESET_N (R162, R164, R169): one live read while LOADING, none otherwise; held OFF while RESET_N
is asserted. -/
structure SetupSound (s : State) : Prop where
  one : (s.control.setupReads.filter fun x => !x.abandoned).length ≤ 1
  loading : s.control.core ≠ .loading → ∀ x ∈ s.control.setupReads, x.abandoned = true
  held : s.control.resetAsserted = true → s.control.core = .off

/-- A line that drives its safe level. -/
def Line.atSafe (x : Line) : Prop := x.enabled = true → x.mode = .held x.safe

/-- R68 and R116: while HALTED every output line drives its safe level and triggers are suppressed. -/
def HaltedSafe (s : State) : Prop :=
  s.halted = true → s.capture.suppressed = true ∧ ∀ l : LineId, (s.lines[l]).atSafe

/-- A command ring that does nothing: not configured, DISABLED, its fetch, if any, to be discarded. -/
structure CommandRing.Idle (x : CommandRing) : Prop where
  config : x.config = none
  state : x.state = .disabled
  fetch : ∀ f, x.fetch = some f → f.discarded = true
  wait : x.wait = none
  outstanding : x.outstanding = []
  reservation : x.fetchReservation = false
  request : x.requestOutstanding = false

/-- A notice ring that does nothing: at its power-on values but for a write in flight from before the reset. -/
def NoticeRing.Idle (x : NoticeRing) : Prop := x = { NoticeRing.reset with stale := x.stale }

/-- R158, R14, R70: outside RUNNING no ring is configured, every slot is FREE, every line is DISABLED and low, and
no work is in hand. -/
structure IdleOutsideRunning (s : State) : Prop where
  rings : s.control.core ≠ .running → ∀ r : CommandRingId, (s.intake.rings[r]).Idle
  notices : s.control.core ≠ .running → ∀ k : NoticeRingId, (s.notices[k]).Idle
  slots : s.control.core ≠ .running → ∀ i : SlotId, s.slots[i] = Slot.reset
  timeline : s.control.core ≠ .running → s.timeline.entries = []
  resolver : s.control.core ≠ .running → s.resolver = Resolver.reset
  lines : s.control.core ≠ .running → ∀ l : LineId, s.lines[l] = Line.reset
  capture : s.control.core ≠ .running → ∀ c : CaptureId, s.capture.lines[c] = CaptureLine.reset
  trim : s.control.core ≠ .running → s.time.pendingTrim = none

/-- The reservations that the command rings bound to ring `k` hold (R140). -/
def reservationsOn (s : State) (k : NoticeRingId) : Nat :=
  ((List.finRange 4).map fun r : CommandRingId =>
    if s.intake.rings[r].bound? = some k then s.intake.rings[r].reservations else 0).sum

/-- R120 with the account of the reservations (R140), of the request lists (R122, R145), and of the rings BLOCKED on a
WAIT (R152). -/
structure SpaceLaw (s : State) : Prop where
  bound : ∀ k : NoticeRingId, s.notices[k].occupied + s.notices[k].reserved ≤ s.notices[k].size
  account : ∀ k : NoticeRingId, s.notices[k].reserved = reservationsOn s k
  unbound : ∀ r : CommandRingId, s.intake.rings[r].bound? = none → s.intake.rings[r].reservations = 0
  once : ∀ k : NoticeRingId, s.notices[k].requests.Nodup
  waiting : ∀ (k : NoticeRingId) (r : CommandRingId), r ∈ s.notices[k].requests →
    s.intake.rings[r].bound? = some k ∧ s.intake.rings[r].state = .stalled ∧ s.intake.rings[r].fetchReservation = false ∧
      s.intake.rings[r].fetch = none ∧ s.intake.rings[r].wait = none
  blocked : ∀ r : CommandRingId, s.intake.rings[r].wait.isSome = true →
    s.intake.rings[r].state = .blocked ∧ s.intake.rings[r].fetch = none

/-- R143: at most one fetch is in flight, the fetch path is not free while a ring is eligible, and while RUNNING a turn
whose ring is not eligible is over. -/
structure FetchPathServed (s : State) : Prop where
  one : ∀ r q : CommandRingId, s.intake.rings[r].fetch.isSome = true → s.intake.rings[q].fetch.isSome = true → r = q
  served : s.fetchingRing = none → ∀ r : CommandRingId, s.intake.rings[r].eligible = false
  turn : s.control.core = .running → s.intake.rings[s.intake.turn].eligible = true ∨ s.intake.turnOver = true

/-- R71, R74, R80: the anchor is not beyond the timebase, and its second is a calendar second; the next boundary is the
least boundary tick beyond the timebase, and those due lie between the anchor and the timebase, each once, oldest
first. -/
structure Anchored (s : State) : Prop where
  tick : s.time.anchorTick.toNat ≤ s.time.timebase.toNat
  next : s.time.timebase.toNat < s.time.nextBoundary ∧ s.time.nextBoundary ≤ s.time.timebase.toNat + second ∧
    (s.time.nextBoundary - s.time.anchorTick.toNat) % second = 0
  due : ∀ b ∈ s.time.dueBoundaries, s.time.anchorTick.toNat < b ∧ b ≤ s.time.timebase.toNat ∧
    (b - s.time.anchorTick.toNat) % second = 0
  once : s.time.dueBoundaries.Pairwise fun a b => a < b
  second : s.time.anchorSecond < Config.calendarSpan

/-- The state of slot `i`, absent when it is FREE. -/
def State.runOf (s : State) (i : SlotId) : Option Run := s.slots[i].event.map Event.run

/-- The work in progress holds slot `i` (R88). -/
def Resolver.resolves (x : Resolver) (i : SlotId) : Prop := ∃ w, x.work = some w ∧ w.abandoned = false ∧ w.item.slot = i

/-- A CALENDAR slot that is RESOLVING or ARMED (R89). -/
def Slot.started (x : Slot) : Bool := x.calendarIn fun r => r = .resolving || r.isArmed

/-- Slot `i` belongs on the waiting list of line `c`: it is WAITING, or ARMED with RETRIGGER (R112). -/
def State.waitsOn (s : State) (i : SlotId) (c : CaptureId) : Prop :=
  ∃ e, s.slots[i].event = some e ∧
    ((e.run = .waiting ∧ e.defn.triggerLine = some c) ∨ (e.run.isArmed = true ∧ e.defn.retriggerLine = some c))

/-- R5, with R88, R89 and R112: each collection holds the slots whose state says so, each once. -/
structure CollectionsSound (s : State) : Prop where
  timeline : ∀ (i : SlotId) (x : Tick) (q : BitVec 64), s.runOf i = some (.armed x q) ↔
    ∃ e ∈ s.timeline.entries, e.slot = i ∧ e.expiry = x ∧ e.sequence = q
  timelineOnce : (s.timeline.entries.map Entry.slot).Nodup
  resolving : ∀ i : SlotId, s.runOf i = some .resolving ↔
    (i ∈ s.resolver.queue.map Item.slot ∨ s.resolver.resolves i)
  queueOnce : (s.resolver.queue.map Item.slot).Nodup ∧
    ∀ i : SlotId, s.resolver.resolves i → i ∉ s.resolver.queue.map Item.slot
  calendar : ∀ (i : SlotId) (e : Event), s.slots[i].event = some e → e.run = .resolving → e.defn.isCalendar = true
  trigger : ∀ (i : SlotId) (e : Event), s.slots[i].event = some e → e.run = .waiting → e.defn.triggerLine.isSome = true
  waiting : ∀ (i : SlotId) (c : CaptureId), i ∈ s.capture.lines[c].waiting ↔ s.waitsOn i c
  waitingOnce : ∀ c : CaptureId, s.capture.lines[c].waiting.Nodup
  count : s.resolver.started = (List.finRange 256).countP fun i : SlotId => (s.slots[i]).started
  most : s.resolver.started ≤ Config.maxStarted

/-- The slots that a SET_CALENDAR takes back and places again, in order of slot number (R97). -/
def startedSlots (s : State) : List SlotId := (List.finRange 256).filter fun i : SlotId => (s.slots[i]).started

/-- R86 and R97: what an accepted SET_CALENDAR naming calendar second `c` does outside the intake and the notice
unit: the anchor, the slots and timeline entries taken back, and the queue of the new pass. `pass` is the pass it
leaves. -/
def calendarSet (c : Nat) (pass : Option Pass) (s : State) : State :=
  { s with
    time := { s.time with anchorTick := s.time.timebase, anchorSecond := c,
                          nextBoundary := s.time.timebase.toNat + 100000000, dueBoundaries := [] }
    slots := s.slots.map fun x =>
      if x.started then { x with event := x.event.map fun e => { e with run := .resolving } } else x
    timeline := { s.timeline with entries := s.timeline.entries.filter fun y =>
      !(s.slots[y.slot]).calendarIn Run.isArmed }
    resolver :=
      { s.resolver with
        queue := (startedSlots s).map fun i => { slot := i, base := c, beginTick := s.time.timebase, member := true }
        work := s.resolver.work.map fun w => { w with abandoned := true }
        pass := pass } }

/-- R90: the pattern matches calendar second `c`: every present field equals the field of the reading of `c`. -/
def fitsSecond (p : Pattern) (c : Nat) : Prop :=
  (∀ v, p.second = some v → (readSecond c).second = v) ∧ (∀ v, p.minute = some v → (readSecond c).minute = v) ∧
  (∀ v, p.hour = some v → (readSecond c).hour = v) ∧ (∀ v, p.day = some v → (readSecond c).day = v) ∧
  (∀ v, p.month = some v → (readSecond c).month = v) ∧ ∀ v, p.weekday = some v → (readSecond c).weekday = v

/-- The slots on a deferred list. -/
def Deferred.slot? : Deferred → Option SlotId
  | .slot i _ => some i
  | .line _ => none
  | .system _ _ => none

/-- The capture lines on a deferred list. -/
def Deferred.line? : Deferred → Option CaptureId
  | .slot _ _ => none
  | .line c => some c
  | .system _ _ => none

/-- SYSTEM on a deferred list. -/
def Deferred.isSystem : Deferred → Bool
  | .slot _ _ => false
  | .line _ => false
  | .system _ _ => true

/-- R3, R103, R107 and R126: each deferred list holds each source once, a slot is listed exactly when its notice
is pending, a line exactly when it holds a held record, SYSTEM on NR0 alone; no FREE slot is listed; the lost count
of a line without a held record is 0. -/
structure DeferredSound (s : State) : Prop where
  slots : ∀ k : NoticeRingId, (s.notices[k].deferred.filterMap Deferred.slot?).Nodup
  lines : ∀ k : NoticeRingId, (s.notices[k].deferred.filterMap Deferred.line?).Nodup
  system : (s.notices[(0 : NoticeRingId)].deferred.filter Deferred.isSystem).length ≤ 1 ∧
    s.notices[(1 : NoticeRingId)].deferred.filter Deferred.isSystem = []
  pending : ∀ i : SlotId, s.slots[i].noticePending = true ↔
    ∃ k : NoticeRingId, i ∈ s.notices[k].deferred.filterMap Deferred.slot?
  home : ∀ (k : NoticeRingId) (i : SlotId), i ∈ s.notices[k].deferred.filterMap Deferred.slot? →
    ∃ e, s.slots[i].event = some e ∧ e.defn.ring = k
  held : ∀ (k : NoticeRingId) (c : CaptureId), c ∈ s.notices[k].deferred.filterMap Deferred.line? ↔
    ∃ h, s.capture.lines[c].held = some h ∧ h.ring = k
  lost : ∀ c : CaptureId, s.capture.lines[c].held = none → s.capture.lines[c].lost = 0

end Sys2Proof.Machine
end

