-- ==== Sys2Proof/Certificates/Slice0/Obligations.lean ====
section
/-! DEFINITION. The statements for the provers. R<n> names a rule of spec/; a log entry is notes/assumptions/<n>.md. -/

open Sys2Proof Sys2Proof.Machine

/-- R8, R12, R17, R19 and ALREADY_STOPPED of R15, with the checks in their order, the first that fails deciding the
status. LOAD: SLOT_BUSY on a slot that is not FREE, then BAD_PARAM on a definition that is not valid (R10, R11).
START, STOP, RETIME, UNLOAD and QUERY: NOT_LOADED, then STALE, then the command's own: START NOT_DORMANT, then
CALENDAR_FULL with 32 started; STOP ALREADY_STOPPED; RETIME WRONG_KIND, then BAD_PARAM; UNLOAD NOT_DORMANT, then
NOTICE_PENDING. The command changes no slot and no other block; its completion carries the slot as it stands. That a
result carries the trigger line wherever the loaded definition has one is log entry 21. -/
def Obligations.RefusedSlotCommandsChangeNoSlot : Prop :=
  ∀ (c : Instr) (h : Header) (s : State) (r : CommandRingId) (k : NoticeRingId) (st : Status), Fetching s r k →
    (∃ d e, c = .load h d ∧ s.slots[h.slot].event = some e ∧ st = .slotBusy) ∨
    (∃ d, c = .load h d ∧ s.slots[h.slot].event = none ∧ definitionOf d = none ∧ st = .badParam) ∨
    ((c = .start h ∨ c = .stop h ∨ (∃ f, c = .retime h f) ∨ c = .unload h ∨ c = .query h) ∧
      ((s.slots[h.slot].event = none ∧ st = .notLoaded) ∨
        (∃ e, s.slots[h.slot].event = some e ∧ s.slots[h.slot].generation ≠ h.generation ∧ st = .stale))) ∨
    (∃ e, s.slots[h.slot].event = some e ∧ s.slots[h.slot].generation = h.generation ∧
      ((c = .start h ∧ e.run ≠ .dormant ∧ st = .notDormant) ∨
        (c = .start h ∧ e.run = .dormant ∧ (∃ p, e.defn.timing = .calendar p) ∧ 32 ≤ s.resolver.started ∧
          st = .calendarFull) ∨
        (c = .stop h ∧ e.run = .dormant ∧ st = .alreadyStopped) ∨
        (∃ f p, c = .retime h f ∧ e.defn.timing = .calendar p ∧ st = .wrongKind) ∨
        (∃ f mode x n, c = .retime h f ∧ e.defn.timing = .tick mode x n ∧
          ¬retimeAllowed f mode e.defn.repeatCount ∧ st = .badParam) ∨
        (c = .unload h ∧ e.run ≠ .dormant ∧ st = .notDormant) ∨
        (c = .unload h ∧ e.run = .dormant ∧ s.slots[h.slot].noticePending = true ∧ st = .noticePending))) →
    ∃ t, exec c s = .next t ∧ Answered s s t r k (completionOf s r h st (s.slots[h.slot].result false))

/-- R9, R4: LOAD of a FREE slot with a valid definition writes the definition, raises the generation by one modulo
256, and makes the slot DORMANT; no other slot and no other block changes. R10, R11, R175, Table 10-5: the
definition that a LOAD carries, if it is valid. The repeat count, the notice ring and the tag are those of the
record; the action count is at most 4, and the actions are those of the first action words, all valid. TICK: start
mode ABSOLUTE with any start value, or RELATIVE or TRIGGER with a delay of at most 2^40, and a period of 0 with a
repeat count of 1 or of 100 to 2^40. CALENDAR: period 0, and a pattern of six fields, each absent or in its range.
No other LOAD is valid. R11, Table 10-6: the action that an action word carries, if it is valid: DRIVE, TOGGLE,
PULSE and DENSITY with a line of 0 to 15, DRIVE and PULSE with a level of 0 or 1, PULSE with a width of 1 to 2^24,
DENSITY with a value of at most 65,536 and a divider code of 0 to 7; START and STOP with any slot; MARK. No other
word is valid. That a result carries the trigger line wherever the loaded definition has one is log entry 21. -/
def Obligations.LoadFillsAFreeSlot : Prop :=
  (∀ (h : Header) (d : LoadFields) (s : State) (r : CommandRingId) (k : NoticeRingId) (v : Definition),
     Fetching s r k → s.slots[h.slot].event = none → definitionOf d = some v →
     ∃ t, exec (.load h d) s = .next t ∧
       Answered s
         (setSlot h.slot
           { generation := s.slots[h.slot].generation + 1, noticePending := false,
             event := some { defn := v, run := .dormant, remaining := none, firingsDone := 0 } } s) t r k
         (completionOf s r h .ok
           (.slot
             { state := 1, generation := s.slots[h.slot].generation + 1, remaining := none, expiry := none,
               noticePending := false, expiryApplied := false, triggerLine := v.triggerLine, calendarKind := v.isCalendar,
               firingsDone := 0 }))) ∧
  (∀ (d : LoadFields) (v : Definition), definitionOf d = some v ↔
     v.repeatCount = d.repeatCount.toNat ∧ v.ring.val = d.ring.toNat ∧ v.tag = d.tag ∧
     (match v.policy with
       | .every => d.policy = 0
       | .last => d.policy = 1
       | .none => d.policy = 2) ∧
     d.actionCount.toNat ≤ 4 ∧ (d.words.toList.take d.actionCount.toNat).map actionOf = v.actions.map some ∧
     match v.timing with
     | .tick mode start period =>
       d.kind = 0 ∧ start = d.area ∧ period = d.period.toNat ∧ startAllowed mode d.area ∧
       periodAllowed d.period.toNat d.repeatCount.toNat ∧
       (match mode with
         | .absolute => d.startMode = 0
         | .relative => d.startMode = 1
         | .trigger c m => d.startMode = 2 ∧ c.val = d.triggerLine.toNat ∧ d.triggerMode = if m = .once then 0 else 1)
     | .calendar p =>
       d.kind = 1 ∧ d.period = 0 ∧ patternByte d.area 0 0 59 p.second ∧ patternByte d.area 1 0 59 p.minute ∧
       patternByte d.area 2 0 23 p.hour ∧ patternByte d.area 3 1 31 p.day ∧ patternByte d.area 4 1 12 p.month ∧
       patternByte d.area 5 1 7 p.weekday) ∧
  (∀ (w : ActionWord) (a : Action), actionOf w = some a ↔
     match a with
     | .drive l v => w.kind = 1 ∧ w.target.toNat = l.val ∧ w.level = if v = .high then 1 else 0
     | .toggle l => w.kind = 2 ∧ w.target.toNat = l.val
     | .pulse l v n =>
       w.kind = 3 ∧ w.target.toNat = l.val ∧ (w.level = if v = .high then 1 else 0) ∧ w.value.toNat = n ∧ 1 ≤ n ∧
         n ≤ 2 ^ 24
     | .density l d =>
       w.kind = 4 ∧ w.target.toNat = l.val ∧ w.value.toNat = d.value ∧ d.value ≤ 65536 ∧ w.divider.toNat = d.code.val
     | .start i => w.kind = 5 ∧ w.target.toNat = i.val
     | .stop i => w.kind = 6 ∧ w.target.toNat = i.val
     | .mark => w.kind = 7)

/-- R2, R13, R24, R25: START of a DORMANT TICK slot of start mode ABSOLUTE or RELATIVE makes it ARMED, at the start
value or at the timebase plus the delay modulo 2^64; of start mode TRIGGER, WAITING at the tail of its line's
waiting list. The halt condition is not read (R14). R13, R80, R88, R89, R91: START of a DORMANT CALENDAR slot with
fewer than 32 started makes it RESOLVING, raises the started count by one, and puts an item at the tail of the
resolution queue, with the calendar second current at the timebase as base second and the tick at which that second
began as base begin tick. -/
def Obligations.StartBeginsARun : Prop :=
  (∀ (h : Header) (s : State) (r : CommandRingId) (k : NoticeRingId) (e : Event) (mode : StartMode) (start : Tick)
     (period : Nat),
     Fetching s r k → s.slots[h.slot].event = some e → s.slots[h.slot].generation = h.generation → e.run = .dormant →
     e.defn.timing = .tick mode start period →
     (∀ x : Tick, (mode = .absolute ∧ x = start) ∨ (mode = .relative ∧ x = s.time.timebase + start) →
       ∃ t, exec (.start h) s = .next t ∧
         Answered s (armedAt h.slot (e.started .dormant) x s) t r k
           (completionOf s r h .ok
             (.slot
               { state := 4, generation := h.generation, expiry := some x, noticePending := s.slots[h.slot].noticePending,
                 remaining := if e.defn.repeatCount = 0 then none else some e.defn.repeatCount, expiryApplied := false,
                 triggerLine := none, calendarKind := false, firingsDone := 0 }))) ∧
     ∀ (c : CaptureId) (tm : TriggerMode), mode = .trigger c tm →
       ∃ t, exec (.start h) s = .next t ∧
         Answered s
           (setCapture c
             { s.capture.lines[c] with
               waiting := (s.capture.lines[c].waiting.filter fun j => j ≠ h.slot) ++ [h.slot] }
             (setSlot h.slot { s.slots[h.slot] with event := some (e.started .waiting) } s)) t r k
           (completionOf s r h .ok
             (.slot
               { state := 2, generation := h.generation, expiry := none, noticePending := s.slots[h.slot].noticePending,
                 remaining := if e.defn.repeatCount = 0 then none else some e.defn.repeatCount, expiryApplied := false,
                 triggerLine := some c, calendarKind := false, firingsDone := 0 }))) ∧
  (∀ (h : Header) (s : State) (r : CommandRingId) (k : NoticeRingId) (e : Event) (p : Pattern) (n : Nat),
     Fetching s r k → s.slots[h.slot].event = some e → s.slots[h.slot].generation = h.generation → e.run = .dormant →
     e.defn.timing = .calendar p → s.resolver.started < 32 →
     n = (s.time.timebase.toNat - s.time.anchorTick.toNat) / 100000000 →
     ∃ t, exec (.start h) s = .next t ∧
       Answered s
         { setSlot h.slot { s.slots[h.slot] with event := some (e.started .resolving) } s with
           resolver :=
             { s.resolver with
               started := s.resolver.started + 1
               queue := s.resolver.queue ++
                 [{ slot := h.slot, base := (s.time.anchorSecond + n) % 12622780800,
                    beginTick := BitVec.ofNat 64 (s.time.anchorTick.toNat + n * 100000000), member := false }] } } t r k
         (completionOf s r h .ok
           (.slot
             { state := 3, generation := h.generation, expiry := none, noticePending := s.slots[h.slot].noticePending,
               remaining := if e.defn.repeatCount = 0 then none else some e.defn.repeatCount, expiryApplied := false,
               triggerLine := none, calendarKind := true, firingsDone := 0 })))

/-- R17, R18: a RETIME of a TICK slot with new values in their ranges replaces the stored start value and period
that it carries; on an ARMED slot a new expiry takes the slot out of the timeline and inserts it again with a fresh
sequence number; in DORMANT and WAITING a new expiry is not applied. Remaining and firings done are kept. That a
result carries the trigger line wherever the loaded definition has one is log entry 21. -/
def Obligations.RetimeReplacesTiming : Prop :=
  ∀ (h : Header) (f : RetimeFields) (s : State) (r : CommandRingId) (k : NoticeRingId) (e e' : Event)
    (mode : StartMode) (start : Tick) (period : Nat),
    Fetching s r k → s.slots[h.slot].event = some e → s.slots[h.slot].generation = h.generation →
    e.defn.timing = .tick mode start period → retimeAllowed f mode e.defn.repeatCount →
    e' = { e with
           defn := { e.defn with
                     timing := .tick mode (f.start.getD start) ((f.period.map BitVec.toNat).getD period) } } →
    (f.expiry = none ∨ e.run.isArmed = false →
      ∃ t, exec (.retime h f) s = .next t ∧
        Answered s (setSlot h.slot { s.slots[h.slot] with event := some e' } s) t r k
          (completionOf s r h .ok (Slot.result { s.slots[h.slot] with event := some e' } false))) ∧
    ∀ x : Tick, f.expiry = some x → e.run.isArmed = true →
      ∃ t, exec (.retime h f) s = .next t ∧
        Answered s
          (armedAt h.slot e' x
            { s with timeline := { s.timeline with entries := s.timeline.entries.filter fun y => y.slot ≠ h.slot } }) t r k
          (completionOf s r h .ok
            (.slot
              { state := 4, generation := h.generation, expiry := some x, noticePending := s.slots[h.slot].noticePending,
                remaining := e.remaining, expiryApplied := true, triggerLine := e.defn.triggerLine, calendarKind := false,
                firingsDone := e.firingsDone }))

/-- R19, R20, R1, R4: UNLOAD of a DORMANT slot without a pending notice makes it FREE, keeping the generation, and
no other slot changes; QUERY of a loaded slot changes no slot and reports it as it stands, in every field of the
slot row (R176). R176: the slot row of any completion, of a refused one too: every field is filled from the slot,
and on a FREE slot the fields of the definition and of the run read 0 or absent. That a result, QUERY's too, carries
the trigger line wherever the loaded definition has one is log entry 21. -/
def Obligations.UnloadFreesAndQueryReports : Prop :=
  (∀ (h : Header) (s : State) (r : CommandRingId) (k : NoticeRingId) (e : Event),
     Fetching s r k → s.slots[h.slot].event = some e → s.slots[h.slot].generation = h.generation →
     (e.run = .dormant → s.slots[h.slot].noticePending = false →
       ∃ t, exec (.unload h) s = .next t ∧
         Answered s (setSlot h.slot { generation := h.generation, noticePending := false, event := none } s) t r k
           (completionOf s r h .ok
             (.slot
               { state := 0, generation := h.generation, remaining := none, expiry := none, noticePending := false,
                 expiryApplied := false, triggerLine := none, calendarKind := false, firingsDone := 0 }))) ∧
     ∃ t, exec (.query h) s = .next t ∧
       Answered s s t r k
         (completionOf s r h .ok
           (.slot
             { state := match e.run with
                 | .dormant => 1
                 | .waiting => 2
                 | .resolving => 3
                 | .armed _ _ => 4
               generation := h.generation, remaining := e.remaining
               expiry := match e.run with
                 | .armed x _ => some x
                 | .dormant | .waiting | .resolving => none
               noticePending := s.slots[h.slot].noticePending, expiryApplied := false
               triggerLine := e.defn.triggerLine
               calendarKind := e.defn.isCalendar, firingsDone := e.firingsDone }))) ∧
  (∀ (x : Slot) (b : Bool),
     (x.event = none →
       x.result b =
         .slot
           { state := 0, generation := x.generation, remaining := none, expiry := none, noticePending := x.noticePending
             expiryApplied := b, triggerLine := none, calendarKind := false, firingsDone := 0 }) ∧
     ∀ e, x.event = some e →
       x.result b =
         .slot
           { state := match e.run with
               | .dormant => 1
               | .waiting => 2
               | .resolving => 3
               | .armed _ _ => 4
             generation := x.generation, remaining := e.remaining
             expiry := match e.run with
               | .armed t _ => some t
               | .dormant | .waiting | .resolving => none
             noticePending := x.noticePending, expiryApplied := b
             triggerLine := match e.defn.timing with
               | .tick (.trigger c _) _ _ => some c
               | .tick .absolute _ _ | .tick .relative _ _ | .calendar _ => none
             calendarKind := match e.defn.timing with
               | .calendar _ => true
               | .tick _ _ _ => false
             firingsDone := e.firingsDone })

/-- R15, R7, R96, R98, R153: STOP of a slot that is not DORMANT makes it DORMANT, keeping remaining and firings
done; it leaves the timeline, its waiting list, the resolution queue or the work; a CALENDAR slot leaves the started
count; an item of the pass in flight is counted as stopped, and the last one ends the pass; every WAIT on the slot
is over, its entry gone and its ring served again; the STOP completes OK. The completion of a pass that ends is
handed first, then those of the WAITs, OK with the slot DORMANT, in ring order, then the STOP's own. No line, no
notice pending flag and no other slot changes, and the arbiter's choice follows. The order of the effects within the
happening is log entry 24. That a result carries the trigger line wherever the loaded definition has one is log
entry 21. -/
def Obligations.StopReturnsToDormant : Prop :=
  ∀ (h : Header) (s : State) (r : CommandRingId) (k : NoticeRingId) (e : Event),
    Fetching s r k → s.slots[h.slot].event = some e → s.slots[h.slot].generation = h.generation → e.run ≠ .dormant →
    ∃ t w, exec (.stop h) s = .next t ∧ StoppedSlot h.slot e s t ∧ WaitsOver h.slot s t ∧
      w = reported h.slot (stoppedResult h.slot e s) (passStopped s t) ∧
      t = settle
        (afterTake r k [completionOf s r h .ok (stoppedResult h.slot e s)]
          { t with intake := w.intake, notices := w.notices })

/-- R152, steps 1 to 4: the first case that applies decides a WAIT that completes at once; it changes no slot, and
its completion carries the slot as it stands. R152 step 5, R151: a WAIT on a slot that is WAITING, RESOLVING or
ARMED is in flight, with its deadline at the timebase plus the timeout, at most 2^64-1, or none with a timeout of 0;
its ring is BLOCKED and its completion owed. No slot changes, and the arbiter's choice follows. That a result
carries the trigger line wherever the loaded definition has one is log entry 21. -/
def Obligations.WaitCompletesAtOnceOrBlocksItsRing : Prop :=
  (∀ (h : Header) (timeout : BitVec 64) (s : State) (r : CommandRingId) (k : NoticeRingId) (st : Status),
     Fetching s r k →
     (match s.slots[h.slot].event with
       | none => st = .notLoaded
       | some e =>
         if s.slots[h.slot].generation ≠ h.generation then st = .stale
         else if 2 ^ 40 < timeout.toNat then st = .badParam
         else e.run = .dormant ∧ st = .ok) →
     ∃ t, exec (.wait h timeout) s = .next t ∧
       Answered s s t r k (completionOf s r h st (s.slots[h.slot].result false))) ∧
  (∀ (h : Header) (timeout : BitVec 64) (s : State) (r : CommandRingId) (k : NoticeRingId) (e : Event),
     Fetching s r k → s.slots[h.slot].event = some e → s.slots[h.slot].generation = h.generation →
     timeout.toNat ≤ 2 ^ 40 → e.run ≠ .dormant →
     ∃ t, exec (.wait h timeout) s = .next t ∧
       t = { s with intake := t.intake, notices := t.notices } ∧
       t.intake.rings[r] =
         { s.intake.rings[r] with
           take := s.intake.rings[r].nextTake, fetch := none, state := .blocked
           wait := some
             { slot := h.slot, generation := h.generation, ident := h.ident, takeIndex := s.intake.rings[r].nextTake,
               deadline :=
                 if timeout = 0 then none
                 else if s.time.timebase.toNat + timeout.toNat < 2 ^ 64 then some (s.time.timebase + timeout)
                 else some (BitVec.allOnes 64) }
           outstanding := s.intake.rings[r].outstanding ++
             [{ kind := .wait, ident := h.ident, takeIndex := s.intake.rings[r].nextTake }] } ∧
       t = settle
         (afterTake r k []
           (setRing r
             { s.intake.rings[r] with
               state := .blocked, wait := t.intake.rings[r].wait, outstanding := t.intake.rings[r].outstanding } s)))

/-- R155: a NOP completes OK with a result of zero, and changes nothing but the take index. Its completion stands
after those handed before it. -/
def Obligations.NopChangesOnlyTheTakeIndex : Prop :=
  ∀ (h : Header) (s : State) (r : CommandRingId) (k : NoticeRingId), Fetching s r k →
    ∃ t, exec (.nop h) s = .next t ∧ Answered s s t r k (completionOf s r h .ok .zero)

/-- R153: at or after its deadline a WAIT in flight is over; with its entry on the outstanding list it completes
TIMED_OUT with the slot as it stands; its ring is ACTIVE again, or STALLED where its notice ring is FAULTED, and the
arbiter's choice follows. Nothing else changes. That a result carries the trigger line wherever the loaded
definition has one is log entry 21. -/
def Obligations.DeadlineEndsTheWait : Prop :=
  ∀ (r : CommandRingId) (s : State) (k : NoticeRingId) (w : WaitInFlight) (d : Tick) (x : CommandRing),
    s.intake.rings[r].bound? = some k → s.intake.rings[r].wait = some w → w.deadline = some d →
    d.toNat ≤ s.time.timebase.toNat →
    { kind := .wait, ident := w.ident, takeIndex := w.takeIndex } ∈ s.intake.rings[r].outstanding →
    x = { s.intake.rings[r] with
            wait := none, state := if s.notices[k].state = .faulted then .stalled else .active
            outstanding := s.intake.rings[r].outstanding.erase
              { kind := .wait, ident := w.ident, takeIndex := w.takeIndex } } →
    ∃ t, exec (.deadlineExpiry r) s = .next t ∧
      ArbiterOnly
        (setNotice k
          (s.notices[k].answered
            (.completion r .timedOut w.ident w.takeIndex (s.slots[w.slot].result false))) (setRing r x s)) t

/-- R146, R149: FETCH_END with a good read is the command that its record carries, with the header's fields; a
record of an unknown kind completes BAD_COMMAND with a result of zero and changes nothing else. The take index goes
on by one, within the ring. R174, R175, Tables 10-2 to 10-6: where the kind, the identifier, the slot, the
generation and the operands of a command record lie. A field is little-endian. A kind code of 0 or of 16 or more
carries no command. R148: the record of a discarded fetch is not taken, whatever it holds, and a discarded bus error
faults nothing; only the fetch is over, and the arbiter's choice follows. For every command row and for FETCH_END.
That the levels on the capture pins come with the command is log entry 8; that a command row stands for the end of
the fetch in flight is log entry 9; that the discard of a fetch stalls an ACTIVE ring whose notice ring is FAULTED
is log entry 32. -/
def Obligations.EndOfAFetch : Prop :=
  (∀ (record : CommandRecord) (pins : BitVec 8) (s : State),
     (∀ m, commandOf record pins = some m →
       exec (.fetchEnd (.good record) pins) s =
         exec
           (match m with
             | .load d => .load (headerOf record) d
             | .start => .start (headerOf record)
             | .stop => .stop (headerOf record)
             | .retime f => .retime (headerOf record) f
             | .unload => .unload (headerOf record)
             | .query => .query (headerOf record)
             | .wait n => .wait (headerOf record) n
             | .nop => .nop (headerOf record)
             | .readTime => .readTime (headerOf record)
             | .trimRate v => .trimRate (headerOf record) v
             | .stepTimebase d => .stepTimebase (headerOf record) d
             | .setCalendar f => .setCalendar (headerOf record) f
             | .lineSetup f => .lineSetup (headerOf record) f
             | .lineForce w => .lineForce (headerOf record) w
             | .captureSetup f v => .captureSetup (headerOf record) f v) s) ∧
     ∀ (r : CommandRingId) (k : NoticeRingId), Fetching s r k →
       (record.extractLsb' 0 8 = 0 ∨ 16 ≤ (record.extractLsb' 0 8).toNat) →
       ∃ t, exec (.fetchEnd (.good record) pins) s = .next t ∧
         Answered s s t r k (completionOf s r (headerOf record) .badCommand .zero) ∧
         ∀ c, s.intake.rings[r].config = some c → s.intake.rings[r].take < c.size →
           s.intake.rings[r].nextTake = (s.intake.rings[r].take + 1) % c.size) ∧
  (∀ (x : CommandRecord) (pins : BitVec 8),
     ((headerOf x).ident.toNat = recordField x 0x02 2 ∧ (headerOf x).slot.val = recordField x 0x04 1 ∧
       (headerOf x).generation.toNat = recordField x 0x05 1) ∧
     (commandOf x pins = none ↔ recordField x 0 1 = 0 ∨ 16 ≤ recordField x 0 1) ∧
     ∀ m, commandOf x pins = some m →
       match m with
       | .load d =>
         recordField x 0 1 = 1 ∧ d.kind.toNat = recordField x 6 2 % 4 ∧ d.startMode.toNat = recordField x 6 2 / 4 % 4 ∧
         d.triggerMode.toNat = recordField x 6 2 / 16 % 2 ∧ d.triggerLine.toNat = recordField x 6 2 / 32 % 8 ∧
         d.policy.toNat = recordField x 6 2 / 256 % 4 ∧ d.ring.toNat = recordField x 6 2 / 1024 % 2 ∧
         d.actionCount.toNat = recordField x 6 2 / 2048 % 8 ∧ d.tag.toNat = recordField x 0x08 8 ∧
         d.area.toNat = recordField x 0x10 8 ∧ d.period.toNat = recordField x 0x18 6 ∧
         d.repeatCount.toNat = recordField x 0x1E 2 ∧
         ∀ i : Fin 4, wordStandsAt x (0x20 + 8 * i.val) d.words[i]
       | .start => recordField x 0 1 = 2
       | .stop => recordField x 0 1 = 3
       | .retime f =>
         recordField x 0 1 = 4 ∧
         f.start.map BitVec.toNat = (if recordField x 1 1 % 2 = 1 then some (recordField x 0x08 8) else none) ∧
         f.period.map BitVec.toNat = (if recordField x 1 1 / 2 % 2 = 1 then some (recordField x 0x10 8) else none) ∧
         f.expiry.map BitVec.toNat = if recordField x 1 1 / 4 % 2 = 1 then some (recordField x 0x18 8) else none
       | .unload => recordField x 0 1 = 5
       | .query => recordField x 0 1 = 6
       | .wait timeout => recordField x 0 1 = 7 ∧ timeout.toNat = recordField x 0x08 8
       | .nop => recordField x 0 1 = 8
       | .readTime => recordField x 0 1 = 9
       | .setCalendar f =>
         recordField x 0 1 = 10 ∧ f.year.toNat = recordField x 0x08 2 ∧ f.month.toNat = recordField x 0x0A 1 ∧
         f.day.toNat = recordField x 0x0B 1 ∧ f.hour.toNat = recordField x 0x0C 1 ∧
         f.minute.toNat = recordField x 0x0D 1 ∧ f.second.toNat = recordField x 0x0E 1
       | .stepTimebase delta => recordField x 0 1 = 11 ∧ delta.toNat = recordField x 0x08 8
       | .trimRate value => recordField x 0 1 = 12 ∧ value.toNat = recordField x 0x08 4
       | .lineSetup f =>
         recordField x 0 1 = 13 ∧ f.line.toNat = recordField x 0x08 1 ∧ f.enable.toNat = recordField x 0x09 1 ∧
         f.safe.toNat = recordField x 0x0A 1 ∧ f.initial.toNat = recordField x 0x0B 1
       | .lineForce w => recordField x 0 1 = 14 ∧ wordStandsAt x 0x08 w
       | .captureSetup f v =>
         recordField x 0 1 = 15 ∧ f.line.toNat = recordField x 0x08 1 ∧ f.mode.toNat = recordField x 0x09 1 ∧
         f.qualify.toNat = recordField x 0x0A 1 ∧ f.notify.toNat = recordField x 0x0B 1 ∧
         f.ring.toNat = recordField x 0x0C 1 ∧ f.interval.toNat = recordField x 0x0E 2 ∧
         v = if pins.getLsbD (recordField x 0x08 1) then .high else .low) ∧
  (∀ (c : Instr) (s : State) (r : CommandRingId) (f : Fetch),
     (∃ h d, c = .load h d) ∨ (∃ h, c = .start h ∨ c = .stop h ∨ c = .unload h ∨ c = .query h ∨ c = .nop h ∨ c = .readTime h) ∨
       (∃ h f, c = .retime h f) ∨ (∃ h n, c = .wait h n) ∨ (∃ h v, c = .trimRate h v) ∨ (∃ h d, c = .stepTimebase h d) ∨
       (∃ h f, c = .setCalendar h f) ∨ (∃ h f, c = .lineSetup h f) ∨ (∃ h w, c = .lineForce h w) ∨
       (∃ h f v, c = .captureSetup h f v) ∨ (∃ e p, c = .fetchEnd e p) →
     s.fetchingRing = some r → s.intake.rings[r].fetch = some f → f.discarded = true →
     ∃ t, exec c s = .next t ∧
       ArbiterOnly
         (setRing r
           { s.intake.rings[r] with
             fetch := none
             state :=
               if s.intake.rings[r].state = .active ∧ ∃ k, s.intake.rings[r].bound? = some k ∧ s.notices[k].state = .faulted
               then .stalled else s.intake.rings[r].state } s) t)

/-- R147, R123: a fetch that ends with a bus error leaves the take index, makes its ring FAULTED and sets FAULT; its
reservation goes back to the notice ring, which serves what waits there as R124 states; then a QUEUE_FAULT naming
the ring is offered to NR0: posted where NR0 takes it, else deferred or counted as lost; the arbiter's choice
follows. Where nothing waits there, NR0 takes the notice, and no other ring is eligible, nothing else changes. -/
def Obligations.FetchErrorFaultsTheRing : Prop :=
  ∀ (pins : BitVec 8) (s : State) (r : CommandRingId) (k : NoticeRingId) (x : CommandRing) (y : NoticeRing)
    (u : State) (n : SystemNotice),
    Fetching s r k → s.control.core = .running → r ∉ s.notices[k].requests →
    x = { s.intake.rings[r] with fetch := none, state := .faulted } →
    y = { s.notices[k] with reserved := s.notices[k].reserved - 1 } →
    u = serve k (setNotice k y (setRing r x s)) → n = { body := .commandFault r, tick := s.time.timebase } →
    ∃ t, exec (.fetchEnd .busError pins) s = .next t ∧
      ArbiterOnly
        (setNotice 0
          (if u.notices[(0 : NoticeRingId)].takesOffer then u.notices[(0 : NoticeRingId)].takePlace (.system n 0)
           else
             { u.notices[(0 : NoticeRingId)] with deferred := deferSystem n u.notices[(0 : NoticeRingId)].deferred })
          { u with control := { u.control with fault := true } }) t ∧
      t = { s with control := { s.control with fault := true }, intake := t.intake, notices := t.notices
                   slots := t.slots, capture := t.capture } ∧
      t.intake.rings[r] = x ∧
      (s.notices[k].deferred = [] → s.notices[k].requests = [] → s.notices[(0 : NoticeRingId)].state = .active →
        s.notices[(0 : NoticeRingId)].occupied + s.notices[(0 : NoticeRingId)].reserved
          < s.notices[(0 : NoticeRingId)].size →
        s.notices[(0 : NoticeRingId)].deferred = [] →
        (∀ q : CommandRingId, q ≠ r → s.intake.rings[q].eligible = false) →
        t.slots = s.slots ∧ t.capture = s.capture ∧
        (∀ q : CommandRingId, q ≠ r → t.intake.rings[q] = s.intake.rings[q]) ∧
        ∀ j : NoticeRingId, t.notices[j] =
          if j = 0 then
            (if k = 0 then y else s.notices[j]).takePlace (.system n 0)
          else if j = k then y else s.notices[j])

/-- R142: a valid post index is stored, and nothing else but the arbiter's choice follows; valid is less than the
size on a configured ring, and 0 on one that is not. R131, R142, R171, R129: an index write that is not valid is
ignored but for BAD_INDEX and, while the core is RUNNING, a BAD_INDEX system notice offered to NR0, which names the
register and carries the tick: posted where NR0 takes it, else deferred or counted as lost. -/
def Obligations.IndexWrites : Prop :=
  (∀ (r : CommandRingId) (v : BitVec 32) (s : State), s.control.resetAsserted = false →
     (match s.intake.rings[r].config with
       | some c => v.toNat < c.size
       | none => v = 0) →
     ∃ t, exec (.postIndexWrite r v) s = .next t ∧
       ArbiterOnly (setRing r { s.intake.rings[r] with post := v.toNat } s) t) ∧
  (∀ (c : Instr) (o : Byte) (s : State) (n : SystemNotice), s.control.resetAsserted = false →
     (∃ r v, c = .postIndexWrite r v ∧ o.toNat = 0x1C + 4 * r.val ∧
       (match s.intake.rings[r].config with
         | some x => x.size ≤ v.toNat
         | none => v ≠ 0)) ∨
     (∃ k v, c = .releaseIndexWrite k v ∧ o.toNat = 0x2C + 4 * k.val ∧
       (match s.notices[k].config with
         | some x => x.size ≤ v.toNat ∨
             s.notices[k].occupied < (v.toNat + x.size - s.notices[k].releaseIndex) % x.size
         | none => v ≠ 0)) →
     n = { body := .badIndex o, tick := s.time.timebase } →
     ∃ t, exec c s = .next t ∧
       t = { s with control := { s.control with badIndex := true }, notices := t.notices } ∧
       t.notices[(1 : NoticeRingId)] = s.notices[(1 : NoticeRingId)] ∧
       t.notices[(0 : NoticeRingId)] =
         if s.control.core ≠ .running then s.notices[(0 : NoticeRingId)]
         else if s.notices[(0 : NoticeRingId)].takesOffer then s.notices[(0 : NoticeRingId)].takePlace (.system n 0)
         else { s.notices[(0 : NoticeRingId)] with deferred := deferSystem n s.notices[(0 : NoticeRingId)].deferred })

/-- R140, R143, R144, R146: a ring is eligible when it is ACTIVE with its post index apart from its take index. The
fetch path free, a ring that is fetched has the turn and was eligible; its fetch reads the place at the take index,
at base address + 64 × take index; its count is kept up to the burst, else 0, with every eligible ring between
STALLED. R122, R143, R144, R145, the choice whole: with the path busy or no ring eligible only the mark changes, set
where the turn ring is not eligible. Else the turn ring is chosen if eligible, its turn not over and its count less
than its burst; if not, the first eligible ring after it, with the turn and count 0. The ring chosen is fetched with
its reservation, or with one granted by its notice ring, if that is ACTIVE with room and both lists empty; else its
request joins the tail of the request list, request outstanding becomes yes, it is STALLED, its turn is over, and
the choice goes on. R143, R144, R145: so, unless the turn ring keeps its turn and is served, the first ring after it
that is eligible and has a reservation, or is granted one at once, is fetched, with the turn and count 0; each
eligible ring passed over is STALLED with its request on the request list. R143, R146: when a fetch ends with a good
read, whatever its record, the count rises by one if its ring is the turn ring, and not else; the take index goes
on, and the choice follows what the command left, which moves no other ring's indices and no request. The mark of a
turn is log entry 12; that the turn may come back to its ring is log entry 13; the address sum is log entry 7. -/
def Obligations.TurnsGoRoundInOrder : Prop :=
  ((∀ (x : CommandRing) (c : CommandConfig), x.config = some c → x.take < c.size → x.post < c.size →
      (x.eligible = true ↔ x.state = .active ∧ x.post ≠ x.take)) ∧
   (∀ (s : State) (q : CommandRingId), s.fetchingRing = none → (settle s).fetchingRing = some q →
      (settle s).intake.turn = q ∧ s.intake.rings[q].eligible = true ∧
      (∀ c, s.intake.rings[q].config = some c → (settle s).intake.rings[q].fetch =
        some { place := s.intake.rings[q].take, address := c.base.toNat + 64 * s.intake.rings[q].take, discarded := false }) ∧
      (((settle s).intake.count = s.intake.count ∧ q = s.intake.turn ∧ s.intake.turnOver = false ∧
          (∃ c, s.intake.rings[q].config = some c ∧ s.intake.count < c.burst)) ∨
        ((settle s).intake.count = 0 ∧
          ∀ d : CommandRingId, d.val < (q - s.intake.turn - 1).val →
            s.intake.rings[s.intake.turn + 1 + d].eligible = true →
            (settle s).intake.rings[s.intake.turn + 1 + d].state = .stalled))) ∧
   (∀ (s : State) (q : CommandRingId) (c : CommandConfig), s.fetchingRing = none → s.intake.turn = q →
      s.intake.rings[q].config = some c → s.intake.rings[q].eligible = true → s.intake.turnOver = false →
      s.intake.count < c.burst →
      (s.intake.rings[q].fetchReservation = true ∨
        (s.notices[c.bound].state = .active ∧
          s.notices[c.bound].occupied + s.notices[c.bound].reserved < s.notices[c.bound].size ∧
          s.notices[c.bound].deferred = [] ∧ s.notices[c.bound].requests = [])) →
      (settle s).fetchingRing = some q ∧ (settle s).intake.turn = q ∧ (settle s).intake.count = s.intake.count) ∧
   ∀ s : State, s.fetchingRing = none → (∀ q : CommandRingId, s.intake.rings[q].eligible = false) →
     (settle s).fetchingRing = none ∧ (settle s).notices = s.notices ∧ (settle s).intake.rings = s.intake.rings) ∧
  ((∀ s : State, (s.fetchingRing ≠ none ∨ ∀ q : CommandRingId, s.intake.rings[q].eligible = false) →
      settle s =
        { s with intake := { s.intake with
            turnOver := s.intake.turnOver || !s.intake.rings[s.intake.turn].eligible } }) ∧
   ∀ (s u : State) (q : CommandRingId) (c : CommandConfig) (x : CommandRing),
     s.fetchingRing = none → s.intake.rings[q].eligible = true → s.intake.rings[q].config = some c →
     ((q = s.intake.turn ∧ s.intake.turnOver = false ∧ s.intake.count < c.burst ∧ u = s) ∨
       (¬(s.intake.rings[s.intake.turn].eligible = true ∧ s.intake.turnOver = false ∧
           ∃ b, s.intake.rings[s.intake.turn].config = some b ∧ s.intake.count < b.burst) ∧
         (∀ d : CommandRingId, d.val < (q - s.intake.turn - 1).val →
           s.intake.rings[s.intake.turn + 1 + d].eligible = false) ∧
         u = { s with intake := { s.intake with turn := q, count := 0, turnOver := false } })) →
     x = { s.intake.rings[q] with
             fetchReservation := false
             fetch := some
               { place := s.intake.rings[q].take, address := c.base.toNat + 64 * s.intake.rings[q].take, discarded := false } } →
     settle s =
       if s.intake.rings[q].fetchReservation = true then setRing q x u
       else if s.notices[c.bound].state = .active ∧
           s.notices[c.bound].occupied + s.notices[c.bound].reserved < s.notices[c.bound].size ∧
           s.notices[c.bound].deferred = [] ∧ s.notices[c.bound].requests = [] then
         setRing q x (setNotice c.bound { s.notices[c.bound] with reserved := s.notices[c.bound].reserved + 1 } u)
       else
         settle
           (setRing q { s.intake.rings[q] with requestOutstanding := true, state := .stalled }
             (setNotice c.bound { s.notices[c.bound] with requests := s.notices[c.bound].requests ++ [q] }
               { u with intake := { u.intake with turnOver := true } }))) ∧
  (∀ (s : State) (q : CommandRingId) (served : CommandRingId → Prop) (kept : Prop),
     (∀ r : CommandRingId, served r ↔ s.intake.rings[r].eligible = true ∧
       (s.intake.rings[r].fetchReservation = true ∨
         ∃ c, s.intake.rings[r].config = some c ∧ s.notices[c.bound].state = .active ∧
           s.notices[c.bound].occupied + s.notices[c.bound].reserved < s.notices[c.bound].size ∧
           s.notices[c.bound].deferred = [] ∧ s.notices[c.bound].requests = [])) →
     (kept ↔ s.intake.turnOver = false ∧
       ∃ b, s.intake.rings[s.intake.turn].config = some b ∧ s.intake.count < b.burst) →
     s.fetchingRing = none → ¬(kept ∧ served s.intake.turn) → served q →
     (∀ d : CommandRingId, d.val < (q - s.intake.turn - 1).val → ¬served (s.intake.turn + 1 + d)) →
     (settle s).fetchingRing = some q ∧ (settle s).intake.turn = q ∧ (settle s).intake.count = 0 ∧
     (settle s).intake.turnOver = false ∧
     ∀ r : CommandRingId, s.intake.rings[r].eligible = true →
       (r - s.intake.turn - 1).val < (q - s.intake.turn - 1).val ∨ (r = s.intake.turn ∧ kept) →
       (settle s).intake.rings[r].state = .stalled ∧ (settle s).intake.rings[r].requestOutstanding = true ∧
         ∃ c, s.intake.rings[r].config = some c ∧ r ∈ (settle s).notices[c.bound].requests) ∧
  (∀ (c : Instr) (s : State) (r : CommandRingId) (k : NoticeRingId), Fetching s r k →
     ((carried c).isSome = true ∨ ∃ record pins, c = .fetchEnd (.good record) pins) →
     ∃ v, exec c s = .next (settle v) ∧
       v.intake =
         { s.intake with
           rings := v.intake.rings, count := if r = s.intake.turn then s.intake.count + 1 else s.intake.count } ∧
       (∀ q : CommandRingId, v.intake.rings[q] =
         { s.intake.rings[q] with
           take := if q = r then s.intake.rings[r].nextTake else s.intake.rings[q].take
           fetch := if q = r then none else s.intake.rings[q].fetch
           state := v.intake.rings[q].state, wait := v.intake.rings[q].wait
           outstanding := v.intake.rings[q].outstanding }) ∧
       ∀ j : NoticeRingId, FedNotice s.notices[j] v.notices[j] ∧ v.notices[j].requests = s.notices[j].requests)

/-- R84, R80 to R82: READ_TIME completes OK with the timebase, the calendar second at it read as fields, the ticks
into that second, the trim in force and the pending trim; it changes nothing. -/
def Obligations.ReadTimeReportsTheTime : Prop :=
  ∀ (h : Header) (s : State) (r : CommandRingId) (k : NoticeRingId) (x : Reading), Fetching s r k →
    x = readSecond (s.time.calendarSecond s.time.timebase.toNat) →
    ∃ t, exec (.readTime h) s = .next t ∧
      Answered s s t r k
        (completionOf s r h .ok
          (.time
            { tick := s.time.timebase, year := x.year, month := x.month, day := x.day, hour := x.hour,
              minute := x.minute, second := x.second, weekday := x.weekday,
              into := (s.time.timebase.toNat - s.time.anchorTick.toNat) % second, trim := s.time.trim,
              pending := s.time.pendingTrim.map fun p => p.value }))

/-- R75, R151: a TRIM_RATE outside -20,000 to +20,000 is refused BAD_PARAM, one taken while a trim is pending BUSY,
both with the trim in force and the pending value; one accepted becomes the pending trim and owes its completion.
R74, R76: a second boundary takes the oldest boundary tick that counting has reached, and applies the pending trim;
the completion of the TRIM_RATE carries the value, the timebase and the calendar second that began at the boundary,
where its entry still stands on its ring's outstanding list; it is discarded where the entry is gone. The pending
field of an applied trim is log entry 23; the tick and second it carries are log entry 16; which boundaries are due
is log entry 15. -/
def Obligations.TrimRateIsAppliedAtASecondBoundary : Prop :=
  (∀ (h : Header) (v : BitVec 32) (s : State) (r : CommandRingId) (k : NoticeRingId), Fetching s r k →
     (∀ st : Status,
       (st = .badParam ∧ (v.toInt < -20000 ∨ 20000 < v.toInt)) ∨
         (st = .busy ∧ -20000 ≤ v.toInt ∧ v.toInt ≤ 20000 ∧ s.time.pendingTrim.isSome = true) →
       ∃ t, exec (.trimRate h v) s = .next t ∧
         Answered s s t r k
           (completionOf s r h st (.trim s.time.trim (s.time.pendingTrim.map fun p => p.value) 0 0))) ∧
     (-20000 ≤ v.toInt → v.toInt ≤ 20000 → s.time.pendingTrim = none →
       ∃ t, exec (.trimRate h v) s = .next t ∧
         Owing s
           { s with time :=
               { s.time with
                 pendingTrim := some
                   { value := v.toInt, ring := r, ident := h.ident, takeIndex := s.intake.rings[r].nextTake } } } t r k
           { kind := .trimRate, ident := h.ident, takeIndex := s.intake.rings[r].nextTake })) ∧
  (∀ (s : State) (u : TimeUnit) (b : Nat) (l : List Nat), s.time.dueBoundaries = b :: l →
     u = { s.time with
           dueBoundaries := l, pendingTrim := none
           trim := (s.time.pendingTrim.map fun p => p.value).getD s.time.trim } →
     (∀ p : Option PendingTrim, s.time.pendingTrim = p →
       (∀ q, p = some q →
         { kind := .trimRate, ident := q.ident, takeIndex := q.takeIndex } ∉ s.intake.rings[q.ring].outstanding) →
       exec .secondBoundary s = .next { s with time := u }) ∧
     ∀ (p : PendingTrim) (o : Owed) (k : NoticeRingId), s.time.pendingTrim = some p →
       o = { kind := .trimRate, ident := p.ident, takeIndex := p.takeIndex } →
       o ∈ s.intake.rings[p.ring].outstanding → s.intake.rings[p.ring].bound? = some k →
       exec .secondBoundary s =
         .next
           (setNotice k
             (s.notices[k].answered
               (.completion p.ring .ok p.ident p.takeIndex
                 (.trim p.value none s.time.timebase (s.time.calendarSecond b))))
             (setRing p.ring
               { s.intake.rings[p.ring] with outstanding := s.intake.rings[p.ring].outstanding.erase o }
               { s with time := u })))

/-- R78, R74, R77: a STEP_TIMEBASE of 0, of more than 2^40, or beyond 2^64-1 is refused BAD_PARAM and changes
nothing; one accepted adds its delta to the timebase, with one second boundary for all the boundary ticks it carries
the timebase across, and keeps the anchor, the accumulator and the boundaries that counting had reached before. One
that crosses none leaves the trim pending. Where it applies a pending trim, that completion stands before the step's
own; where the trim's entry is gone from its outstanding list (R151), the step's own completion stands alone. That
the boundaries counting had reached before stay due is log entry 15; the trim completion is that of log entries 16,
23 and 34. -/
def Obligations.StepMovesTheTimebase : Prop :=
  ∀ (h : Header) (d : BitVec 64) (s : State) (r : CommandRingId) (k : NoticeRingId), Fetching s r k →
    (d.toNat = 0 ∨ 2 ^ 40 < d.toNat ∨ 2 ^ 64 ≤ s.time.timebase.toNat + d.toNat →
      ∃ t, exec (.stepTimebase h d) s = .next t ∧ Answered s s t r k (completionOf s r h .badParam .zero)) ∧
    ∀ (x : Tick) (u : TimeUnit) (b : Bool), 1 ≤ d.toNat → d.toNat ≤ 2 ^ 40 → s.time.timebase.toNat + d.toNat < 2 ^ 64 →
      x = s.time.timebase + d → b = decide (s.time.nextBoundary ≤ x.toNat ∧ s.time.pendingTrim.isSome = true) →
      u = { s.time with
            timebase := x
            nextBoundary :=
              if s.time.nextBoundary ≤ x.toNat then
                s.time.anchorTick.toNat + ((x.toNat - s.time.anchorTick.toNat) / second + 1) * second
              else s.time.nextBoundary
            trim := if b then (s.time.pendingTrim.map fun p => p.value).getD s.time.trim else s.time.trim
            pendingTrim := if b then none else s.time.pendingTrim } →
      (b = false →
        ∃ t, exec (.stepTimebase h d) s = .next t ∧
          Answered s { s with time := u } t r k
            (completionOf s r h .ok (.step s.time.timebase x (s.time.calendarSecond x.toNat) false))) ∧
      (b = true →
        ∀ p : PendingTrim, s.time.pendingTrim = some p →
          exec (.stepTimebase h d) s =
            .next (settle
              (afterTake r k
                [completionOf s r h .ok (.step s.time.timebase x (s.time.calendarSecond x.toNat) true)]
                (owedEnded p.ring { kind := .trimRate, ident := p.ident, takeIndex := p.takeIndex }
                  (.completion p.ring .ok p.ident p.takeIndex (.trim p.value none x (s.time.calendarSecond x.toNat)))
                  { s with time := u }))))

/-- R72, R73, R74, R58: a reference clock period carries the timebase on by one tick at a trim of 0; at another trim
by one, or, where the accumulator carries, by two or none by the trim's sign; at most to 2^64-1. A boundary tick
that it reaches becomes due, and the next lies a second later. Every density generator counts it, and nothing else
changes. While RESET_N is asserted it changes nothing. How the boundaries that are due are kept is log entry 15. -/
def Obligations.ReferencePeriodCountsTicks : Prop :=
  ∀ s : State,
    (s.control.resetAsserted = true → exec .referenceClockPeriod s = .next s) ∧
    (s.control.resetAsserted = false →
      ∃ t, exec .referenceClockPeriod s = .next t ∧
        t = { s with time := { s.time with timebase := t.time.timebase, accumulator := t.time.accumulator
                                           nextBoundary := t.time.nextBoundary, dueBoundaries := t.time.dueBoundaries }
                     lines := t.lines } ∧
        (s.time.trim = 0 →
          t.time.accumulator = s.time.accumulator ∧
          t.time.timebase.toNat = min (s.time.timebase.toNat + 1) (2 ^ 64 - 1)) ∧
        (s.time.trim ≠ 0 → s.time.accumulator + s.time.trim.natAbs < 100000000 →
          t.time.accumulator = s.time.accumulator + s.time.trim.natAbs ∧
          t.time.timebase.toNat = min (s.time.timebase.toNat + 1) (2 ^ 64 - 1)) ∧
        (s.time.trim ≠ 0 → 100000000 ≤ s.time.accumulator + s.time.trim.natAbs →
          t.time.accumulator + 100000000 = s.time.accumulator + s.time.trim.natAbs ∧
          t.time.timebase.toNat =
            min (s.time.timebase.toNat + if 0 < s.time.trim then 2 else 0) (2 ^ 64 - 1)) ∧
        (t.time.timebase.toNat < s.time.nextBoundary →
          t.time.nextBoundary = s.time.nextBoundary ∧ t.time.dueBoundaries = s.time.dueBoundaries) ∧
        (s.time.nextBoundary ≤ t.time.timebase.toNat →
          t.time.nextBoundary = s.time.nextBoundary + 100000000 ∧
          t.time.dueBoundaries = s.time.dueBoundaries ++ [s.time.nextBoundary]) ∧
        ∀ l : LineId, t.lines[l] =
          match s.lines[l].mode with
          | .density v now p next n => { s.lines[l] with mode := .density v now p next (n + 1) }
          | .disabled | .held _ | .pulsing _ _ _ => s.lines[l])

/-- R85: the six fields of a SET_CALENDAR are valid exactly as the rule lists, and a valid SET_CALENDAR names the
calendar second of R81's reverse reading; one that is not valid is refused BAD_PARAM and changes nothing. R81, R82:
the reading of a calendar second is a date of the calendar, its fields give the second back by the reverse reading,
and its weekday is that of its day number; every valid date is the reading of one calendar second. That a refused
SET_CALENDAR has a result of zero, its anchor fields included, is log entry 22. -/
def Obligations.SetCalendarChecksItsFields : Prop :=
  ((∀ f : CalendarFields, (calendarSecondOf f).isSome = true ↔
     2000 ≤ f.year.toNat ∧ f.year.toNat ≤ 2399 ∧ 1 ≤ f.month.toNat ∧ f.month.toNat ≤ 12 ∧ 1 ≤ f.day.toNat ∧
       f.day.toNat ≤
         (if f.month.toNat = 2 then
           (if f.year.toNat % 4 = 0 ∧ (f.year.toNat % 100 ≠ 0 ∨ f.year.toNat % 400 = 0) then 29 else 28)
          else if f.month.toNat ∈ [4, 6, 9, 11] then 30 else 31) ∧
       f.hour.toNat ≤ 23 ∧ f.minute.toNat ≤ 59 ∧ f.second.toNat ≤ 59) ∧
   ∀ (h : Header) (f : CalendarFields) (s : State) (r : CommandRingId) (k : NoticeRingId),
     Fetching s r k → calendarSecondOf f = none →
     ∃ t, exec (.setCalendar h f) s = .next t ∧ Answered s s t r k (completionOf s r h .badParam .zero)) ∧
  ((∀ (c : Nat) (x : Reading), c < 12622780800 → x = readSecond c →
     2000 ≤ x.year ∧ x.year ≤ 2399 ∧ 1 ≤ x.month ∧ x.month ≤ 12 ∧ 1 ≤ x.day ∧ x.day ≤ monthLength x.year x.month ∧
       x.hour ≤ 23 ∧ x.minute ≤ 59 ∧ x.second ≤ 59 ∧ x.weekday = (c / 86400 + 5) % 7 + 1 ∧
       secondOfFields x.year x.month x.day x.hour x.minute x.second = c) ∧
   ∀ (f : CalendarFields) (c : Nat), calendarSecondOf f = some c →
     c < 12622780800 ∧
       readSecond c =
         { year := f.year.toNat, month := f.month.toNat, day := f.day.toNat, hour := f.hour.toNat,
           minute := f.minute.toNat, second := f.second.toNat, weekday := (c / 86400 + 5) % 7 + 1 })

/-- R86, R97, R98: an accepted SET_CALENDAR with no pass in flight sets the anchor to the timebase and the named
second, takes every started CALENDAR slot to RESOLVING with an item of the new pass, and completes OK at once where
there is none, else owes its completion to the pass it starts. R97, R99, R100: with a pass in flight, an accepted
SET_CALENDAR does the same, and ends that pass: the first SET_CALENDAR completes SUPERSEDED with its anchor and
counts as they stood, before any completion of the second; it is discarded, and the rest done all the same, where
its entry is gone from its ring's outstanding list. -/
def Obligations.SetCalendarStartsAPass : Prop :=
  (∀ (h : Header) (f : CalendarFields) (c : Nat) (s : State) (r : CommandRingId) (k : NoticeRingId),
     Fetching s r k → calendarSecondOf f = some c → s.resolver.pass = none →
     (startedSlots s = [] →
       ∃ t, exec (.setCalendar h f) s = .next t ∧
         Answered s (calendarSet c none s) t r k
           (completionOf s r h .ok (.calendar s.time.timebase c 0 0 0 0))) ∧
     (startedSlots s ≠ [] →
       ∃ t, exec (.setCalendar h f) s = .next t ∧
         Owing s
           (calendarSet c
             (some
               { ring := r, ident := h.ident, takeIndex := s.intake.rings[r].nextTake, anchorTick := s.time.timebase,
                 anchorSecond := c, placed := (startedSlots s).length, matched := 0, noMatch := 0, stopped := 0 }) s)
           t r k { kind := .setCalendar, ident := h.ident, takeIndex := s.intake.rings[r].nextTake })) ∧
  (∀ (h : Header) (f : CalendarFields) (c : Nat) (s w : State) (r : CommandRingId) (k : NoticeRingId) (p : Pass),
     Fetching s r k → calendarSecondOf f = some c → s.resolver.pass = some p → w = passEnded p .superseded s →
     (startedSlots s = [] →
       exec (.setCalendar h f) s =
         .next (settle
           (afterTake r k [completionOf s r h .ok (.calendar s.time.timebase c 0 0 0 0)]
             { calendarSet c none s with intake := w.intake, notices := w.notices }))) ∧
     ∀ (a : Pass) (o : Owed), startedSlots s ≠ [] →
       a = { ring := r, ident := h.ident, takeIndex := s.intake.rings[r].nextTake, anchorTick := s.time.timebase,
             anchorSecond := c, placed := (startedSlots s).length, matched := 0, noMatch := 0, stopped := 0 } →
       o = { kind := .setCalendar, ident := h.ident, takeIndex := s.intake.rings[r].nextTake } →
       exec (.setCalendar h f) s =
         .next (settle
           (afterTake r k []
             (setRing r { w.intake.rings[r] with outstanding := w.intake.rings[r].outstanding ++ [o] }
               { calendarSet c (some a) s with intake := w.intake, notices := w.notices }))))

/-- R93: the search finds the candidate of least distance, from 1 to 126,230,400, that the pattern matches, counted
forward through the wrap; it finds none exactly where no candidate in that range matches. -/
def Obligations.ResolutionFindsTheLeastMatch : Prop :=
  ∀ (p : Pattern) (b : Nat), b < 12622780800 →
    (∀ d, p.resolve b = some d ↔
      1 ≤ d ∧ d ≤ 126230400 ∧ fitsSecond p ((b + d) % 12622780800) ∧
        ∀ d', 1 ≤ d' → d' < d → ¬ fitsSecond p ((b + d') % 12622780800)) ∧
    (p.resolve b = none ↔ ∀ d, 1 ≤ d → d ≤ 126230400 → ¬ fitsSecond p ((b + d) % 12622780800))

/-- R92, R96: TAKE moves the head item of the queue into the work where there is no work; the end of an abandoned
work only ends it. R94, R98: a work that ends with a match at distance `d` makes its slot ARMED at the base begin
tick plus `d` seconds, where that is in the range of the timebase; remaining, firings done and the started count are
kept; a pass member is counted as matched, and the last one ends the pass with an OK completion of its SET_CALENDAR,
which is discarded where its entry is gone from its ring's outstanding list (R100, R151). -/
def Obligations.WorkArmsOnAMatch : Prop :=
  ((∀ (s : State) (x : Item) (l : List Item), s.resolver.work = none → s.resolver.queue = x :: l →
     exec .take s =
       .next { s with resolver := { s.resolver with queue := l, work := some { item := x, abandoned := false } } }) ∧
   ∀ (s : State) (w : Work), s.resolver.work = some w → w.abandoned = true →
     exec .workEnd s = .next { s with resolver := { s.resolver with work := none } }) ∧
  (∀ (s u : State) (x : Item) (e : Event) (p : Pattern) (d : Nat),
     s.resolver.work = some { item := x, abandoned := false } → s.slots[x.slot].event = some e →
     e.defn.timing = .calendar p → p.resolve x.base = some d → x.beginTick.toNat + d * second < 2 ^ 64 →
     u = armedAt x.slot e (BitVec.ofNat 64 (x.beginTick.toNat + d * second))
           { s with resolver := { s.resolver with work := none } } →
     (x.member = false ∨ s.resolver.pass = none → exec .workEnd s = .next u) ∧
     ∀ a : Pass, x.member = true → s.resolver.pass = some a →
       (a.matched + a.noMatch + a.stopped + 1 < a.placed →
         exec .workEnd s = .next { u with resolver := { u.resolver with pass := some { a with matched := a.matched + 1 } } }) ∧
       ∀ o : Owed, a.placed ≤ a.matched + a.noMatch + a.stopped + 1 →
         o = { kind := .setCalendar, ident := a.ident, takeIndex := a.takeIndex } →
         (o ∉ s.intake.rings[a.ring].outstanding →
           exec .workEnd s = .next { u with resolver := { u.resolver with pass := none } }) ∧
         ∀ k : NoticeRingId, o ∈ s.intake.rings[a.ring].outstanding → s.intake.rings[a.ring].bound? = some k →
           exec .workEnd s =
             .next
               (setNotice k
                 (s.notices[k].answered
                   (.completion a.ring .ok a.ident a.takeIndex
                     (.calendar a.anchorTick a.anchorSecond a.placed (a.matched + 1) a.noMatch a.stopped)))
                 (setRing a.ring
                   { s.intake.rings[a.ring] with outstanding := s.intake.rings[a.ring].outstanding.erase o }
                   { u with resolver := { u.resolver with pass := none } })))

/-- R95, R98, R7, R153: a work that ends with no match, or beyond the range of the timebase, makes its slot DORMANT,
lowers the started count, and ends the WAITs on the slot, whose completions are handed first, in ring order; then it
offers a firing notice with NO_MATCH and LAST whatever the policy, from the base begin tick to the timebase: it is
posted where the notice ring takes it, else the slot has its notice pending; then a member of the pass in flight is
counted, and the last one ends the pass with an OK completion; the arbiter's choice follows. The order of the
effects within the happening is log entry 24. That a result carries the trigger line wherever the loaded definition
has one is log entry 21. -/
def Obligations.NoMatchReturnsToDormant : Prop :=
  ∀ (s u v : State) (x : Item) (e : Event) (p : Pattern) (report : FiringReport),
    s.resolver.work = some { item := x, abandoned := false } → s.slots[x.slot].event = some e →
    e.defn.timing = .calendar p →
    (p.resolve x.base = none ∨ ∃ d, p.resolve x.base = some d ∧ 2 ^ 64 ≤ x.beginTick.toNat + d * second) →
    u = reported x.slot (stoppedResult x.slot e s)
          { s with slots := s.slots.set x.slot { s.slots[x.slot] with event := some { e with run := .dormant } }
                   resolver := { s.resolver with work := none, started := s.resolver.started - 1 } } →
    report =
      { expiry := x.beginTick, fire := s.time.timebase, count := 1, overruns := 0, mask := 0,
        flags := { late := false, last := true, coalesced := false, actionFailed := false, haltedOver := false,
                   missed := false, noMatch := true } } →
    v = (if u.notices[e.defn.ring].takesOffer then
           setNotice e.defn.ring
             (u.notices[e.defn.ring].takePlace (.firing x.slot s.slots[x.slot].generation e.defn.tag report)) u
         else
           setSlot x.slot { u.slots[x.slot] with noticePending := true }
             (setNotice e.defn.ring
               { u.notices[e.defn.ring] with deferred := deferFiring x.slot report u.notices[e.defn.ring].deferred } u)) →
    ∃ t, exec .workEnd s = .next t ∧ t = settle (itemEnded x.member (fun a => { a with noMatch := a.noMatch + 1 }) v) ∧
      WaitsOver x.slot s t

/-- R50: DRIVE on an enabled line ends any pulse or density in progress, sets the held level and makes the line
HELD, so that the pin drives the level from the happening; a pulse that it ended has no pulse end; on a line that
holds the level already the record does not change. Given as LINE_FORCE takes it; a firing's action is the same.
R51: TOGGLE on an enabled line ends any pulse or density in progress and holds the opposite of the held level stored
in the record, whatever level the pin was driving. -/
def Obligations.DriveAndToggleHoldALevel : Prop :=
  (∀ (h : Header) (w : ActionWord) (s : State) (r : CommandRingId) (k : NoticeRingId) (l : LineId) (v : Level) (x : Line),
     Fetching s r k → actionOf w = some (.drive l v) → s.halted = false → s.lines[l].mode ≠ .disabled →
     x = { safe := s.lines[l].safe, mode := .held v } →
     (∃ t, exec (.lineForce h w) s = .next t ∧
       Answered s (setLine l x s) t r k (completionOf s r h .ok (.lineForce 1 (some v) false v)) ∧
       t.lines[l].pinLevel = v ∧ exec (.pulseEnd l) t = .next t) ∧
     (s.lines[l].mode = .held v → x = s.lines[l]) ∧
     ∀ e : Tick, (applyAction e (.drive l v) s) = (setLine l x s, false)) ∧
  (∀ (h : Header) (w : ActionWord) (s : State) (r : CommandRingId) (k : NoticeRingId) (l : LineId) (v : Level) (x : Line),
     Fetching s r k → actionOf w = some (.toggle l) → s.halted = false →
     (s.lines[l].mode = .held v ∨ (∃ p e, s.lines[l].mode = .pulsing v p e) ∨
       ∃ d q n a, s.lines[l].mode = .density v d q n a) →
     x = { safe := s.lines[l].safe, mode := .held v.opposite } →
     (∃ t, exec (.lineForce h w) s = .next t ∧
       Answered s (setLine l x s) t r k
         (completionOf s r h .ok (.lineForce 1 (some v.opposite) false v.opposite)) ∧
       t.lines[l].pinLevel = v.opposite) ∧
     ∀ e : Tick, (applyAction e (.toggle l) s) = (setLine l x s, false))

/-- R52: PULSE on an enabled line, in HELD, PULSING or DENSITY alike, makes the line PULSING at the action's level
with its end at the timebase plus the width, at most 2^64-1, and keeps the held level. R53: DENSITY on an enabled
line that is HELD or PULSING starts the pattern at frame position 0 with no pending pair; on a line in DENSITY it
becomes the pending pair and the pattern goes on. The held level is kept. -/
def Obligations.PulseAndDensityActions : Prop :=
  (∀ (h : Header) (w : ActionWord) (s : State) (r : CommandRingId) (k : NoticeRingId) (l : LineId) (v p : Level) (n : Nat)
     (e : Tick) (x : Line),
     Fetching s r k → actionOf w = some (.pulse l p n) → s.halted = false →
     (s.lines[l].mode = .held v ∨ (∃ p e, s.lines[l].mode = .pulsing v p e) ∨
       ∃ d q n a, s.lines[l].mode = .density v d q n a) →
     e.toNat = min (s.time.timebase.toNat + n) (2 ^ 64 - 1) →
     x = { safe := s.lines[l].safe, mode := .pulsing v p e } →
     (∃ t, exec (.lineForce h w) s = .next t ∧
       Answered s (setLine l x s) t r k (completionOf s r h .ok (.lineForce 2 (some v) false p)) ∧
       t.lines[l].pinLevel = p) ∧
     ∀ z : Tick, (applyAction z (.pulse l p n) s) = (setLine l x s, false)) ∧
  (∀ (h : Header) (w : ActionWord) (s : State) (r : CommandRingId) (k : NoticeRingId) (l : LineId) (v : Level) (d : Density),
     Fetching s r k → actionOf w = some (.density l d) → s.halted = false →
     (∀ x : Line, s.lines[l].mode = .held v ∨ (∃ p e, s.lines[l].mode = .pulsing v p e) →
       x = { safe := s.lines[l].safe, mode := .density v d 0 none 0 } →
       (∃ t, exec (.lineForce h w) s = .next t ∧
         Answered s (setLine l x s) t r k
           (completionOf s r h .ok (.lineForce 3 (some v) false (if d.value = 0 then .low else .high)))) ∧
       ∀ e : Tick, (applyAction e (.density l d) s) = (setLine l x s, false)) ∧
     ∀ (x : Line) (now : Density) (p : BitVec 16) (old : Option Density) (n : Nat),
       s.lines[l].mode = .density v now p old n →
       x = { safe := s.lines[l].safe, mode := .density v now p (some d) n } →
       (∃ t, exec (.lineForce h w) s = .next t ∧
         Answered s (setLine l x s) t r k
           (completionOf s r h .ok (.lineForce 3 (some v) true (s.lines[l].pinLevel)))) ∧
       ∀ e : Tick, (applyAction e (.density l d) s) = (setLine l x s, false))

/-- R63, R64, R65: LINE_SETUP with a value that is not defined is refused BAD_PARAM and changes nothing. An accepted
one writes the safe level; disabling makes the line DISABLED; enabling a DISABLED line holds the initial held level,
or the safe level while HALTED; enabling an enabled line changes no more, or while HALTED holds the safe level. It
completes OK with the line's state, safe level, held level and pin level as it leaves them. R66, R149: LINE_FORCE is
refused BAD_PARAM for a word that is no valid line action, then HALTED while the controller is HALTED, then
LINE_DISABLED on a DISABLED line; refused it changes nothing. A line action of a firing on a DISABLED line fails and
changes nothing (R49). -/
def Obligations.LineSetupAndRefusals : Prop :=
  (∀ (h : Header) (f : LineSetupFields) (s : State) (r : CommandRingId) (k : NoticeRingId), Fetching s r k →
     (16 ≤ f.line.toNat ∨ 2 ≤ f.enable.toNat ∨ 2 ≤ f.safe.toNat ∨ 2 ≤ f.initial.toNat →
       ∃ t, exec (.lineSetup h f) s = .next t ∧ Answered s s t r k (completionOf s r h .badParam .zero)) ∧
     ∀ (l : LineId) (safe init : Level) (x : Line), f.line.toNat = l.val →
       (f.safe = if safe = .high then 1 else 0) → (f.initial = if init = .high then 1 else 0) →
       ((f.enable = 0 ∧ x = { safe, mode := .disabled }) ∨
         (f.enable = 1 ∧ s.lines[l].mode = .disabled ∧ s.halted = false ∧ x = { safe, mode := .held init }) ∨
         (f.enable = 1 ∧ s.lines[l].mode ≠ .disabled ∧ s.halted = false ∧ x = { safe, mode := s.lines[l].mode }) ∨
         (f.enable = 1 ∧ s.halted = true ∧ x = { safe, mode := .held safe })) →
       ∃ t, exec (.lineSetup h f) s = .next t ∧
         Answered s (setLine l x s) t r k (completionOf s r h .ok
           (match x.mode with
             | .disabled => .lineSetup 0 safe none safe
             | .held v => .lineSetup 1 safe (some v) v
             | .pulsing v p _ => .lineSetup 2 safe (some v) p
             | .density v _ _ _ _ => .lineSetup 3 safe (some v) x.pinLevel))) ∧
  (∀ (h : Header) (w : ActionWord) (s : State) (r : CommandRingId) (k : NoticeRingId) (st : Status), Fetching s r k →
     ((match actionOf w with
       | some (.drive l _) | some (.toggle l) | some (.pulse l _ _) | some (.density l _) =>
         if s.halted then st = .halted else s.lines[l].mode = .disabled ∧ st = .lineDisabled
       | some (.start _) | some (.stop _) | some .mark | none => st = .badParam) →
       ∃ t, exec (.lineForce h w) s = .next t ∧ Answered s s t r k (completionOf s r h st .zero)) ∧
     ∀ (a : Action) (l : LineId) (e : Tick), a.line? = some l → s.lines[l].mode = .disabled →
       applyAction e a s = (s, true))

/-- R55, R56: the pulse end of a PULSING line, at or after its end tick, makes the line HELD at its held level and
changes nothing else; a line action, a disabling or a halt after it leaves the line as that claim alone would. R58,
R60: at the end of a density clock the frame position goes on by one; from 65,535 it returns to 0, a frame start,
which applies the pending pair if there is one. DENSITY_CLOCK and FRAME_START change that line alone. The reference
periods that a density clock has counted are log entry 14. -/
def Obligations.PulseEndsAndDensityClocks : Prop :=
  (∀ (s : State) (l : LineId) (v p : Level) (e : Tick),
     s.lines[l].mode = .pulsing v p e → e.toNat ≤ s.time.timebase.toNat →
     exec (.pulseEnd l) s = .next (setLine l { safe := s.lines[l].safe, mode := .held v } s) ∧
     (∀ (z : Tick) (a : Action), a.line? = some l →
       Line.act z a { safe := s.lines[l].safe, mode := .held v } = Line.act z a s.lines[l]) ∧
     Line.haltEffect { safe := s.lines[l].safe, mode := .held v } = Line.haltEffect s.lines[l] ∧
     ∀ (c : LineSetup) (b : Bool), c.enable = false →
       Line.setUp c b { safe := s.lines[l].safe, mode := .held v } = Line.setUp c b s.lines[l]) ∧
  (∀ (s : State) (l : LineId) (v : Level) (now : Density) (p : BitVec 16) (next : Option Density) (n : Nat),
     s.lines[l].mode = .density v now p next n → 2 ^ now.code.val ≤ n →
     (p.toNat < 65535 →
       exec (.densityClock l) s =
         .next (setLine l { safe := s.lines[l].safe, mode := .density v now (p + 1) next (n - 2 ^ now.code.val) } s)) ∧
     (p.toNat = 65535 →
       (∀ d, next = some d →
         exec (.frameStart l) s =
           .next (setLine l { safe := s.lines[l].safe, mode := .density v d 0 none (n - 2 ^ now.code.val) } s)) ∧
       (next = none →
         exec (.frameStart l) s =
           .next (setLine l { safe := s.lines[l].safe, mode := .density v now 0 none (n - 2 ^ now.code.val) } s)) ∧
       exec (.densityClock l) s = exec (.frameStart l) s))

/-- R48, R59, Table 3-2: a DISABLED line drives its safe level, a HELD one its held level, a PULSING one its pulse
level; a line in DENSITY drives high where the 16-bit bit-reversal of its position is less than its density value;
the bit-reversal is the number whose digit `i` is digit `15 - i` of the position; and of the 65,536 positions of a
frame exactly as many are high as the value says. -/
def Obligations.DensityFrameHighCount : Prop :=
  (∀ (x : Line) (v p : Level) (e : Tick),
    (x.mode = .disabled → x.pinLevel = x.safe) ∧ (x.mode = .held v → x.pinLevel = v) ∧
      (x.mode = .pulsing v p e → x.pinLevel = p)) ∧
  (∀ (x : Line) (v : Level) (now : Density) (p : BitVec 16) (next : Option Density) (n : Nat),
    x.mode = .density v now p next n → (x.pinLevel = .high ↔ bitReversal p < now.value)) ∧
  (∀ (p : BitVec 16) (i : Nat), i < 16 → (bitReversal p).testBit i = p.getLsbD (15 - i)) ∧
  ∀ d : Density, d.value ≤ 65536 →
    ((List.range 65536).countP fun p => densityLevel d (BitVec.ofNat 16 p) = .high) = d.value

/-- R110, R111: CAPTURE_SETUP with a value that is not valid is refused BAD_PARAM and changes nothing. An accepted
one writes the configuration; to OFF it stops sampling, else it takes the first sample at once, with the level on
the pin, and makes no edge. Sequence, held record, lost count and waiting list are kept. That the pin level is an
operand is log entry 8; the mark after the last sample is log entry 25. -/
def Obligations.CaptureSetupRestartsSampling : Prop :=
  ∀ (h : Header) (f : CaptureSetupFields) (v : Level) (s : State) (r : CommandRingId) (k : NoticeRingId), Fetching s r k →
    (8 ≤ f.line.toNat ∨ 4 ≤ f.mode.toNat ∨ f.qualify.toNat ∉ [1, 2, 4, 8] ∨ f.interval = 0 ∨ 2 ≤ f.notify.toNat ∨
        2 ≤ f.ring.toNat →
      ∃ t, exec (.captureSetup h f v) s = .next t ∧ Answered s s t r k (completionOf s r h .badParam .zero)) ∧
    ∀ (c : CaptureId) (m : EdgeMode) (b : Bool) (j : NoticeRingId) (next : Tick) (x : CaptureLine),
      f.line.toNat = c.val → [EdgeMode.off, .rising, .falling, .both][f.mode.toNat]? = some m → f.qualify.toNat ∈ [1, 2, 4, 8] → f.interval ≠ 0 →
      (f.notify = if b then 1 else 0) → f.ring.toNat = j.val →
      next.toNat = min (s.time.timebase.toNat + f.interval.toNat) (2 ^ 64 - 1) →
      x = { s.capture.lines[c] with
              edgeMode := m, qualify := f.qualify.toNat, interval := f.interval.toNat, notify := b, ring := j
              sampling :=
                if m = .off then none
                else some { next := next, stable := v, count := 0, first := none,
                            spent := decide (s.time.timebase.toNat = 2 ^ 64 - 1) } } →
      ∃ t, exec (.captureSetup h f v) s = .next t ∧
        Answered s (setCapture c x s) t r k
          (completionOf s r h .ok
            (.capture
              { edgeMode := m, qualify := f.qualify.toNat, notify := b, ring := j, interval := f.interval.toNat,
                stable := if m = .off then none else some v, heldPresent := s.capture.lines[c].held.isSome,
                lost := s.capture.lines[c].lost, edgeSequence := s.capture.lines[c].edgeSequence,
                waiting := s.capture.lines[c].waiting.length }))

/-- R104, R105: a due sample that completes no run of Q changes its line's sampling state alone: at the stable level
it clears the candidates; at the other level it counts one more, the first of them giving the first candidate tick.
Its tick is its scheduled tick, or the timebase where that is an interval or more beyond; the next follows an
interval after. R105, R106, R107, R112, R113, R114, R116: a due sample that completes a run of Q changes the stable
level. An edge its mode does not accept does no more. An accepted edge raises the sequence by one; with notify on it
is offered where no record is held, or counted as lost; then, triggers not being suppressed, each slot of the
waiting list is armed or re-armed in list order by `triggerSlot` at the edge's timestamp, which is the first
candidate tick. The mark after the last sample is log entry 25. -/
def Obligations.SamplesQualifyEdges : Prop :=
  (∀ (s : State) (c : CaptureId) (x : CaptureLine) (p : Sampling) (v : Level) (z next : Tick) (b : Bool),
     x = s.capture.lines[c] → x.sampling = some p → p.spent = false → p.next.toNat ≤ s.time.timebase.toNat →
     z = (if s.time.timebase.toNat - p.next.toNat < x.interval then p.next else s.time.timebase) →
     next.toNat = min (z.toNat + x.interval) (2 ^ 64 - 1) → b = decide (z.toNat = 2 ^ 64 - 1) →
     (v = p.stable →
       exec (.sample c v) s =
         .next (setCapture c
           { x with sampling := some { next := next, stable := p.stable, count := 0, first := none, spent := b } } s)) ∧
     (v ≠ p.stable → p.count + 1 < x.qualify →
       exec (.sample c v) s =
         .next (setCapture c
           { x with
             sampling := some
               { next := next, stable := p.stable, count := p.count + 1,
                 first := some (if p.count = 0 then z else p.first.getD z), spent := b } } s))) ∧
  (∀ (s u : State) (c : CaptureId) (x y : CaptureLine) (p : Sampling) (v : Level) (z next ts : Tick) (b : Bool),
     x = s.capture.lines[c] → x.sampling = some p → p.spent = false → p.next.toNat ≤ s.time.timebase.toNat →
     z = (if s.time.timebase.toNat - p.next.toNat < x.interval then p.next else s.time.timebase) →
     next.toNat = min (z.toNat + x.interval) (2 ^ 64 - 1) → b = decide (z.toNat = 2 ^ 64 - 1) →
     v ≠ p.stable → x.qualify ≤ p.count + 1 → ts = (if p.count = 0 then z else p.first.getD z) →
     y = { x with sampling := some { next := next, stable := v, count := 0, first := none, spent := b } } →
     (x.edgeMode = .off ∨ (x.edgeMode = .rising ∧ v = .low) ∨ (x.edgeMode = .falling ∧ v = .high) →
       exec (.sample c v) s = .next (setCapture c y s)) ∧
     (x.edgeMode = .both ∨ (x.edgeMode = .rising ∧ v = .high) ∨ (x.edgeMode = .falling ∧ v = .low) →
       u =
         (if x.notify = false then setCapture c { y with edgeSequence := x.edgeSequence + 1 } s
          else if x.held.isSome = true then
            setCapture c { y with edgeSequence := x.edgeSequence + 1, lost := min (x.lost + 1) 255 } s
          else if s.notices[x.ring].takesOffer = true then
            setNotice x.ring (s.notices[x.ring].takePlace (.edge c v ts (x.edgeSequence + 1) 0))
              (setCapture c { y with edgeSequence := x.edgeSequence + 1 } s)
          else
            setNotice x.ring { s.notices[x.ring] with deferred := s.notices[x.ring].deferred ++ [.line c] }
              (setCapture c
                { y with edgeSequence := x.edgeSequence + 1,
                         held := some { direction := v, timestamp := ts, sequence := x.edgeSequence + 1, ring := x.ring } }
                s)) →
       exec (.sample c v) s =
         .next (if s.capture.suppressed then u else x.waiting.foldl (triggerSlot c ts) u)))

/-- R113, R114: an accepted edge of timestamp `ts` arms a WAITING slot at `ts` plus its delay modulo 2^64, with
remaining set back to the repeat count and firings done kept; a ONCE slot leaves the waiting list, a RETRIGGER slot
keeps its place; an ARMED RETRIGGER slot is taken out of the timeline and inserted again in the same way. -/
def Obligations.EdgeArmsWaitingSlots : Prop :=
  ∀ (s : State) (c : CaptureId) (i : SlotId) (ts start : Tick) (e e' : Event) (n : Nat) (d : CaptureId) (m : TriggerMode),
    s.slots[i].event = some e → e.defn.timing = .tick (.trigger d m) start n →
    e' = { e with remaining := if e.defn.repeatCount = 0 then none else some e.defn.repeatCount } →
    (e.run = .waiting → m = .once →
      triggerSlot c ts s i =
        setCapture c { s.capture.lines[c] with waiting := s.capture.lines[c].waiting.filter fun j => j ≠ i }
          (armedAt i e' (ts + start) s)) ∧
    (e.run = .waiting → m = .retrigger → triggerSlot c ts s i = armedAt i e' (ts + start) s) ∧
    (e.run.isArmed = true → m = .retrigger →
      triggerSlot c ts s i =
        armedAt i e' (ts + start)
          { s with timeline := { s.timeline with entries := s.timeline.entries.filter fun y => y.slot ≠ i } })

/-- R28, R30 to R37, in the order of Table 2-3: while RUNNING and not HALTED, the due head fires. It leaves the
timeline; the slot takes its new state; the actions are applied in list order; the firing notice is offered as the
policy requires; the arbiter's choice follows. R36: the actions of a firing are applied in list order, each on the
state that the one before it left; mask position `i` is set exactly when action `i` failed, the positions beyond the
list are clear, and the actions after one that failed are applied all the same. That the dormancy report of the
firing slot comes with its new state, before its actions, is the model's choice (log entry 24). -/
def Obligations.FiringTakesItsStepsInOrder : Prop :=
  (∀ (s u : State) (x : Entry) (l : List Entry) (v : Event) (c : Continuation) (mask : BitVec 4),
     s.control.core = .running → s.halted = false → s.timeline.entries = x :: l →
     x.expiry.toNat ≤ s.time.timebase.toNat → s.slots[x.slot].event = some v →
     c = continuation v.defn.timing v.remaining x.expiry.toNat s.time.timebase.toNat →
     (u, mask) =
       applyActions x.expiry v.defn.actions
         (conclude x.slot v.defn c
           (setSlot x.slot
             { s.slots[x.slot] with
               event := some
                 { v with
                   firingsDone := min (v.firingsDone + 1) 4294967295
                   remaining := v.remaining.map fun n => if c.last then n - c.skip else n - (1 + c.skip) } }
             { s with timeline := { s.timeline with entries := l } })) →
     ∃ t, exec .firing s = .next t ∧
       ArbiterOnly
         (if v.defn.policy = .every ∨ (v.defn.policy = .last ∧ c.last = true) then
           offerFiring v.defn.ring x.slot
             { expiry := x.expiry, fire := s.time.timebase, count := 1, overruns := min c.skip 65535, mask
               flags :=
                 { late := decide (s.timeline.lateThreshold < s.time.timebase.toNat - x.expiry.toNat), last := c.last
                   coalesced := false, actionFailed := decide (mask ≠ 0), haltedOver := x.haltedOver, missed := false
                   noMatch := false } } u
          else u) t) ∧
  ((∀ (z : Tick) (s : State), applyActions z [] s = (s, 0)) ∧
   (∀ (z : Tick) (a : Action) (l : List Action) (s : State),
     (applyActions z (a :: l) s).1 = (applyActions z l (applyAction z a s).1).1 ∧
       (applyActions z (a :: l) s).2.getLsbD 0 = (applyAction z a s).2 ∧
       ∀ i, i < 3 →
         (applyActions z (a :: l) s).2.getLsbD (i + 1) = (applyActions z l (applyAction z a s).1).2.getLsbD i) ∧
   ∀ (z : Tick) (l : List Action) (s : State) (i : Nat),
     (∀ a, i < 4 → l[i]? = some a →
       (applyActions z l s).2.getLsbD i = (applyAction z a (applyActions z (l.take i) s).1).2) ∧
     (l.length ≤ i → (applyActions z l s).2.getLsbD i = false))

/-- R31, R32, R33: the continuation of a TICK slot. With period 0 or remaining 1 the firing is last and skips
nothing. Else, with `k` the number of whole periods from `e` to `f`, it goes on to `e + (k + 1) p`, the first expiry
after `f`, with `k` counted as skipped, unless the count or the range of the timebase ends the run; remaining never
falls below 1, and a run accounts for its repeat count. R34: a CALENDAR slot skips nothing and is last with
remaining 1. -/
def Obligations.SkipRuleFindsTheNextExpiry : Prop :=
  (∀ (mode : StartMode) (start : Tick) (p e f : Nat) (left : Option Nat) (c : Continuation), e ≤ f → f < 2 ^ 64 →
    c = continuation (.tick mode start p) left e f →
    ((p = 0 ∨ left = some 1) → c = { last := true, skip := 0, next := none }) ∧
    ∀ k, 0 < p → left ≠ some 1 → left ≠ some 0 → e + k * p ≤ f → f < e + (k + 1) * p →
      (∀ n, left = some n → n - 1 ≤ k → c = { last := true, skip := n - 1, next := none }) ∧
      ((∀ n, left = some n → k < n - 1) → e + (k + 1) * p < 2 ^ 64 →
        ∃ x : Tick, x.toNat = e + (k + 1) * p ∧ f < x.toNat ∧ c = { last := false, skip := k, next := some x }) ∧
      ((∀ n, left = some n → k < n - 1) → 2 ^ 64 ≤ e + (k + 1) * p → c = { last := true, skip := k, next := none }) ∧
      ∀ n m, left = some n → c.remainingAfter left = some m →
        1 ≤ m ∧ m + c.skip + (if c.last then 0 else 1) = n) ∧
  ∀ (p : Pattern) (e f : Nat) (left : Option Nat),
    continuation (.calendar p) left e f = { last := decide (left = some 1), skip := 0, next := none }

/-- R35, R2, R7, R34: the new state of a slot whose run goes on or ends: ARMED at the next expiry with a fresh
sequence number; RESOLVING with an item at the tail of the queue; WAITING at the tail of its line's list for
RETRIGGER; else DORMANT, with the started count lowered for CALENDAR kind and every WAIT on it over: the entry of
each leaves its outstanding list, its ring is ACTIVE, or STALLED where its notice ring is FAULTED, and its
completion is handed, OK with the slot DORMANT, in ring order CR0 to CR3 (R151, R153); nothing else changes. That a
result carries the trigger line wherever the loaded definition has one is log entry 21. -/
def Obligations.ConclusionOfAFiring : Prop :=
  ∀ (s : State) (i : SlotId) (e : Event) (c : Continuation), s.slots[i].event = some e →
    (∀ x, c.last = false → c.next = some x → conclude i e.defn c s = armedAt i e x s) ∧
    (∀ n, c.last = false → c.next = none → n = (s.time.timebase.toNat - s.time.anchorTick.toNat) / second →
      conclude i e.defn c s =
        { setSlot i { s.slots[i] with event := some { e with run := .resolving } } s with
          resolver :=
            { s.resolver with
              queue := s.resolver.queue ++
                [{ slot := i, base := s.time.calendarSecond s.time.timebase.toNat, member := false
                   beginTick := BitVec.ofNat 64 (s.time.anchorTick.toNat + n * second) }] } }) ∧
    (∀ d, c.last = true → e.defn.retriggerLine = some d →
      conclude i e.defn c s =
        setCapture d
          { s.capture.lines[d] with waiting := (s.capture.lines[d].waiting.filter fun j => j ≠ i) ++ [i] }
          (setSlot i { s.slots[i] with event := some { e with run := .waiting } } s)) ∧
    (c.last = true → e.defn.retriggerLine = none →
      conclude i e.defn c s =
        reported i (stoppedResult i e s)
          { s with
            slots := s.slots.set i { s.slots[i] with event := some { e with run := .dormant } }
            resolver :=
              if e.defn.isCalendar = true then { s.resolver with started := s.resolver.started - 1 } else s.resolver } ∧
      WaitsOver i s (conclude i e.defn c s))

/-- R21: a START action fails on a FREE target, on one that is not DORMANT, and on a CALENDAR one with 32 started;
it starts a DORMANT target as the command does, a RELATIVE one at the firing's scheduled expiry plus its delay. A
STOP action fails on a FREE target, changes nothing on a DORMANT one, and stops any other as the command does: out
of every collection, with its item, its pass and its WAITs ended in the same way. MARK changes nothing and does not
fail (R54). That a STOP counts the pass before the slot is reported DORMANT, so that the completion of the ended
pass stands before those of the WAITs, is the model's choice (log entry 24). That a result carries the trigger line
wherever the loaded definition has one is log entry 21. -/
def Obligations.SlotActionsOfAFiring : Prop :=
  (∀ (s : State) (i : SlotId) (z : Tick),
    (s.slots[i].event = none → applyAction z (.start i) s = (s, true) ∧ applyAction z (.stop i) s = (s, true)) ∧
    applyAction z .mark s = (s, false)) ∧
  ∀ (s : State) (i : SlotId) (z : Tick) (e : Event), s.slots[i].event = some e →
    (e.run ≠ .dormant ∨ (e.defn.isCalendar = true ∧ 32 ≤ s.resolver.started) →
      applyAction z (.start i) s = (s, true)) ∧
    (e.run = .dormant →
      applyAction z (.stop i) s = (s, false) ∧
      (∀ x n, e.defn.timing = .tick .absolute x n →
        applyAction z (.start i) s = (armedAt i (e.started .dormant) x s, false)) ∧
      (∀ d n, e.defn.timing = .tick .relative d n →
        applyAction z (.start i) s = (armedAt i (e.started .dormant) (z + d) s, false)) ∧
      (∀ c m d n, e.defn.timing = .tick (.trigger c m) d n →
        applyAction z (.start i) s =
          (setCapture c
            { s.capture.lines[c] with waiting := (s.capture.lines[c].waiting.filter fun j => j ≠ i) ++ [i] }
            (setSlot i { s.slots[i] with event := some (e.started .waiting) } s), false)) ∧
      (∀ p n, e.defn.timing = .calendar p → s.resolver.started < 32 →
        n = (s.time.timebase.toNat - s.time.anchorTick.toNat) / second →
        applyAction z (.start i) s =
          ({ setSlot i { s.slots[i] with event := some (e.started .resolving) } s with
              resolver :=
                { s.resolver with
                  started := s.resolver.started + 1
                  queue := s.resolver.queue ++
                    [{ slot := i, base := s.time.calendarSecond s.time.timebase.toNat, member := false
                       beginTick := BitVec.ofNat 64 (s.time.anchorTick.toNat + n * second) }] } }, false))) ∧
    (e.run ≠ .dormant → ∃ t w, applyAction z (.stop i) s = (t, false) ∧ StoppedSlot i e s t ∧ WaitsOver i s t ∧
      w = reported i (stoppedResult i e s) (passStopped s t) ∧ t.intake = w.intake ∧ t.notices = w.notices)

/-- R159, R165, R166, R68, R39, R116: on a RUNNING controller with no cause latched, HALT latches SOFTWARE and the
assertion of HALT_IN latches PIN; within the happening every enabled line is HELD at its safe level, triggers are
suppressed, and a HALTED notice with the cause and the tick is offered to NR0. The timeline, the slots, the intake
and the time unit are as they were. R165: with a cause latched already, or outside RUNNING, HALT and the assertion
of HALT_IN latch their cause and do nothing else; the release of HALT_IN changes its level alone; while RESET_N is
asserted only the level follows the pin (R169). The controller is HALTED while RUNNING with a cause latched (R159).
An assertion or a release of a pin that stands so already changes nothing. That RESET_N asserted leaves HALT_IN its
level alone is log entry 26; that a pin event which changes no level has no effect is log entry 2. -/
def Obligations.EntryToHalted : Prop :=
  (∀ (c : Instr) (s : State) (software pin : Bool) (n : SystemNotice),
     s.control.core = .running → s.control.software = false → s.control.pin = false → s.control.resetAsserted = false →
     ((c = .halt ∧ software = true ∧ pin = false) ∨
       (c = .haltInAssert ∧ s.control.haltIn = false ∧ software = false ∧ pin = true)) →
     n = { body := .halted software pin, tick := s.time.timebase } →
     ∃ t, exec c s = .next t ∧
       t = { s with control := { s.control with software := software, pin := pin, haltIn := s.control.haltIn || pin }
                    capture := { s.capture with suppressed := true }, lines := t.lines, notices := t.notices } ∧
       t.halted = true ∧
       (∀ l : LineId, t.lines[l] =
         if s.lines[l].mode = .disabled then s.lines[l] else { safe := s.lines[l].safe, mode := .held s.lines[l].safe }) ∧
       t.notices[(1 : NoticeRingId)] = s.notices[(1 : NoticeRingId)] ∧
       t.notices[(0 : NoticeRingId)] =
         if s.notices[(0 : NoticeRingId)].takesOffer then s.notices[(0 : NoticeRingId)].takePlace (.system n 0)
         else { s.notices[(0 : NoticeRingId)] with deferred := deferSystem n s.notices[(0 : NoticeRingId)].deferred }) ∧
  (∀ s : State,
     (s.control.resetAsserted = false →
       (s.control.core ≠ .running ∨ s.control.software = true ∨ s.control.pin = true) →
       exec .halt s = .next { s with control := { s.control with software := true } } ∧
       (s.control.haltIn = false →
         exec .haltInAssert s = .next { s with control := { s.control with haltIn := true, pin := true } })) ∧
     (s.control.resetAsserted = true →
       exec .haltInAssert s = .next { s with control := { s.control with haltIn := true } }) ∧
     exec .haltInRelease s = .next { s with control := { s.control with haltIn := false } } ∧
     (s.halted = true ↔ s.control.core = .running ∧ (s.control.software = true ∨ s.control.pin = true)) ∧
     (s.control.haltIn = true → exec .haltInAssert s = .next s) ∧
     (s.control.resetAsserted = false → exec .resetNRelease s = .next s))

/-- R167, R160: a RESUME with HALT_IN asserted sets RESUME_REFUSED alone; with HALT_IN released on a controller that
is not HALTED it clears both causes alone. A CATCHUP resume of a HALTED controller clears both causes, ends the
suppression of triggers, marks the entries at or before the timebase (R41), and offers a RESUMED notice to NR0; no
line, no slot and no expiry changes (R69). -/
def Obligations.ResumeClearsTheCauses : Prop :=
  ∀ (m : ResumeMode) (s : State), s.control.resetAsserted = false →
    (s.control.haltIn = true →
      exec (.resume m) s = .next { s with control := { s.control with resumeRefused := true } }) ∧
    (s.control.haltIn = false → s.halted = false →
      exec (.resume m) s = .next { s with control := { s.control with software := false, pin := false } }) ∧
    ∀ n : SystemNotice, s.control.haltIn = false → s.halted = true → m = .catchup →
      n = { body := .resumed m, tick := s.time.timebase } →
      ∃ t, exec (.resume m) s = .next t ∧
        ArbiterOnly
          (setNotice 0
            (if s.notices[(0 : NoticeRingId)].takesOffer then s.notices[(0 : NoticeRingId)].takePlace (.system n 0)
             else { s.notices[(0 : NoticeRingId)] with deferred := deferSystem n s.notices[(0 : NoticeRingId)].deferred })
            { s with
              control := { s.control with software := false, pin := false }
              capture := { s.capture with suppressed := false }
              timeline := { s.timeline with entries := s.timeline.entries.map fun x =>
                if x.expiry.toNat ≤ s.time.timebase.toNat then { x with haltedOver := true } else x } }) t

/-- R42, R43, R69: a DISCARD resume leaves no entry at or before the resume tick, keeps every entry beyond it of a
slot with no entry before it, applies no action, counts no firing, and changes no line and no definition. R40, R167:
the RESUMED notice is offered to NR0 first; the entries at or before the resume tick are then taken one by one in
timeline order; suppression of triggers ends, and the arbiter's choice follows. R42, R43, R44: one overdue entry
under DISCARD: it is removed; with the continuation found at the resume tick, remaining falls by 1 + s where the run
goes on and by s where it ends; the slot takes the state of R43; and, as the policy requires, a MISSED notice is
offered with overrun figure 1 + s and the resume tick in place of a fire tick. -/
def Obligations.DiscardPassesOverEntries : Prop :=
  (∀ (s u v : State) (n : SystemNotice), s.control.resetAsserted = false → s.control.haltIn = false →
     s.halted = true → n = { body := .resumed .discard, tick := s.time.timebase } →
     u = setNotice 0
           (if s.notices[(0 : NoticeRingId)].takesOffer then s.notices[(0 : NoticeRingId)].takePlace (.system n 0)
            else { s.notices[(0 : NoticeRingId)] with deferred := deferSystem n s.notices[(0 : NoticeRingId)].deferred })
           { s with control := { s.control with software := false, pin := false } } →
     v = (s.timeline.entries.filter fun x => x.expiry.toNat ≤ s.time.timebase.toNat).foldl discardEntry u →
     ∃ t, exec (.resume .discard) s = .next t ∧
       ArbiterOnly { v with capture := { v.capture with suppressed := false } } t ∧
       t = { s with control := { s.control with software := false, pin := false }
                    intake := t.intake, notices := t.notices, slots := t.slots, timeline := t.timeline
                    resolver := t.resolver, capture := t.capture } ∧
       t.capture.suppressed = false ∧
       (∀ x ∈ t.timeline.entries, s.time.timebase.toNat < x.expiry.toNat) ∧
       (∀ x ∈ s.timeline.entries, (∀ y ∈ s.timeline.entries, y.slot = x.slot → s.time.timebase.toNat < y.expiry.toNat) →
         x ∈ t.timeline.entries) ∧
       ∀ i : SlotId, t.slots[i].generation = s.slots[i].generation ∧
         t.slots[i].event.map (fun e => (e.defn, e.firingsDone)) = s.slots[i].event.map fun e => (e.defn, e.firingsDone)) ∧
  (∀ (s u : State) (x : Entry) (v : Event) (c : Continuation), s.slots[x.slot].event = some v →
     c = continuation v.defn.timing v.remaining x.expiry.toNat s.time.timebase.toNat →
     u = conclude x.slot v.defn c
       (setSlot x.slot
         { s.slots[x.slot] with
           event := some
             { v with remaining := v.remaining.map fun n => if c.last then n - c.skip else n - (1 + c.skip) } }
         { s with timeline := { s.timeline with entries := s.timeline.entries.filter fun y => y.slot ≠ x.slot } }) →
     discardEntry s x =
       if v.defn.policy = .every ∨ (v.defn.policy = .last ∧ c.last = true) then
         offerFiring v.defn.ring x.slot
           { expiry := x.expiry, fire := s.time.timebase, count := 1, overruns := min (1 + c.skip) 65535, mask := 0
             flags := { late := false, last := c.last, coalesced := false, actionFailed := false, haltedOver := false
                        missed := true, noMatch := false } } u
       else u)

/-- R125, R126, R127, R3: a firing offer is posted where the ring is ACTIVE with room and an empty deferred list,
with the slot's generation and tag; else the slot joins the tail of the list with its notice pending, or, where it
is listed already, the offer is merged into what it holds there, in its place. R129: while the core is RUNNING a
system notice is posted on NR0 where NR0 takes it, ACTIVE with room and an empty deferred list; else SYSTEM joins
the tail of the deferred list with the notice whole and a lost count of 0, or, listed already, keeps its place and
its notice, and its lost count rises by one, at most to 255. Outside RUNNING it is not offered. A QUEUE_FAULT naming
NR1 carries the lost-record count at its posting (R132). R121, Table 7-1: a record that takes a place takes the one
at the write index, at the ring's base address plus 32 times the place, with the ring's present phase; the write
index goes on by one, and the phase turns over where it returns to 0; the occupied count rises by one and the record
joins the tail of the write queue. Places are exact sums, log entry 7. -/
def Obligations.OffersArePostedOrDeferred : Prop :=
  (∀ (k : NoticeRingId) (i : SlotId) (e : Event) (p : FiringReport) (s : State), s.slots[i].event = some e →
     (s.notices[k].state = .active → s.notices[k].occupied + s.notices[k].reserved < s.notices[k].size →
       s.notices[k].deferred = [] →
       offerFiring k i p s =
         setNotice k (s.notices[k].takePlace (.firing i s.slots[i].generation e.defn.tag p)) s) ∧
     ((s.notices[k].state ≠ .active ∨ s.notices[k].size ≤ s.notices[k].occupied + s.notices[k].reserved ∨
         s.notices[k].deferred ≠ []) →
       (i ∉ s.notices[k].deferred.filterMap Deferred.slot? →
         offerFiring k i p s =
           setSlot i { s.slots[i] with noticePending := true }
             (setNotice k { s.notices[k] with deferred := s.notices[k].deferred ++ [.slot i p] } s)) ∧
       ∀ (a b : List Deferred) (q : FiringReport), s.notices[k].deferred = a ++ .slot i q :: b →
         i ∉ a.filterMap Deferred.slot? →
         offerFiring k i p s =
           setSlot i { s.slots[i] with noticePending := true }
             (setNotice k
               { s.notices[k] with
                 deferred := a ++
                   .slot i
                     { expiry := q.expiry, fire := p.fire, count := min (q.count + 1) 65535
                       overruns := min (q.overruns + p.overruns) 65535, mask := q.mask ||| p.mask
                       flags :=
                         { late := q.flags.late || p.flags.late, last := q.flags.last || p.flags.last
                           coalesced := q.flags.coalesced || p.flags.coalesced
                           actionFailed := q.flags.actionFailed || p.flags.actionFailed
                           haltedOver := q.flags.haltedOver || p.flags.haltedOver
                           missed := q.flags.missed || p.flags.missed
                           noMatch := q.flags.noMatch || p.flags.noMatch } } :: b } s))) ∧
  ((∀ x : NoticeRing, x.takesOffer = true ↔
     x.state = .active ∧ x.occupied + x.reserved < x.size ∧ x.deferred = []) ∧
   (∀ (n : SystemNotice) (l : List Deferred), (∀ d ∈ l, d.isSystem = false) → deferSystem n l = l ++ [.system n 0]) ∧
   (∀ (n kept : SystemNotice) (a b : List Deferred) (lost : Nat), (∀ d ∈ a, d.isSystem = false) →
     deferSystem n (a ++ .system kept lost :: b) = a ++ .system kept (min (lost + 1) 255) :: b) ∧
   ∀ (body : SystemBody) (s : State) (n m : SystemNotice) (x : NoticeRing), x = s.notices[(0 : NoticeRingId)] →
     n = { body := body, tick := s.time.timebase } →
     m = (match body with
       | .noticeFault 1 _ => { n with body := .noticeFault 1 s.notices[(1 : NoticeRingId)].lostRecords }
       | .noticeFault 0 _ | .commandFault _ | .badIndex _ | .halted _ _ | .resumed _ => n) →
     (s.control.core ≠ .running → offerSystem body s = s) ∧
     (s.control.core = .running → x.state = .active → x.occupied + x.reserved < x.size → x.deferred = [] →
       offerSystem body s = setNotice 0 (x.takePlace (.system m 0)) s) ∧
     (s.control.core = .running → x.state ≠ .active ∨ x.size ≤ x.occupied + x.reserved ∨ x.deferred ≠ [] →
       offerSystem body s = setNotice 0 { x with deferred := deferSystem n x.deferred } s)) ∧
  (∀ (x : NoticeRing) (c : NoticeConfig) (n : Notice), x.config = some c → x.writeIndex < c.size →
     x.takePlace n =
       { x with
         writeIndex := (x.writeIndex + 1) % c.size
         phase := if x.writeIndex + 1 = c.size then !x.phase else x.phase
         occupied := x.occupied + 1
         queue := x.queue ++
           [{ place := x.writeIndex, address := c.base.toNat + 32 * x.writeIndex, phase := x.phase, notice := n
              released := false }] })

/-- Tables 10-7, 10-8 and 10-10, R174, R176: where each content of a firing notice lies. Tables 10-7, 10-8, 10-9,
10-11 and 10-12, R174, R176: where each content of a completion, an edge and a system notice lies; fields that a
notice does not fill read 0. A field is little-endian. -/
def Obligations.NoticeRecordLayouts : Prop :=
  (∀ (b : Bool) (i : SlotId) (g : BitVec 8) (tag : BitVec 64) (p : FiringReport) (x : NoticeRecord),
     p.count ≤ 65535 → p.overruns ≤ 65535 → x = noticeRecord b (.firing i g tag p) →
     x.extractLsb' 0 3 = 2 ∧ x.extractLsb' 3 4 = p.mask ∧ x.getLsbD 7 = b ∧ (x.extractLsb' 8 8).toNat = i.val ∧
       x.extractLsb' 16 8 = g ∧ x.getLsbD 24 = p.flags.late ∧ x.getLsbD 25 = p.flags.last ∧
       x.getLsbD 26 = p.flags.coalesced ∧ x.getLsbD 27 = p.flags.actionFailed ∧ x.getLsbD 28 = p.flags.haltedOver ∧
       x.getLsbD 29 = p.flags.missed ∧ x.getLsbD 30 = p.flags.noMatch ∧ x.getLsbD 31 = false ∧
       (x.extractLsb' 32 16).toNat = p.count ∧ (x.extractLsb' 48 16).toNat = p.overruns ∧
       x.extractLsb' 64 64 = tag ∧ x.extractLsb' 128 64 = p.expiry ∧ x.extractLsb' 192 64 = p.fire) ∧
  ((∀ (b : Bool) (c : CaptureId) (v : Level) (ts : Tick) (q : BitVec 16) (lost : Nat) (x : NoticeRecord), lost ≤ 255 →
      x = noticeRecord b (.edge c v ts q lost) →
      recordField x 0 1 = 3 + (if b then 128 else 0) ∧ recordField x 1 1 = c.val ∧
      recordField x 2 1 = (if v = .high then 1 else 0) ∧ recordField x 3 1 = lost ∧ recordField x 4 2 = q.toNat ∧
      recordField x 6 2 = 0 ∧ recordField x 8 8 = ts.toNat ∧ recordField x 16 16 = 0) ∧
   (∀ (b : Bool) (n : SystemNotice) (lost : Nat) (x : NoticeRecord), lost ≤ 255 → x = noticeRecord b (.system n lost) →
      recordField x 0 1 = 4 + (if b then 128 else 0) ∧ recordField x 2 1 = lost ∧ recordField x 6 2 = 0 ∧
      recordField x 8 8 = n.tick.toNat ∧ recordField x 16 16 = 0 ∧
      (match n.body with
        | .commandFault r => recordField x 1 1 = 1 ∧ recordField x 3 1 = r.val ∧ recordField x 4 2 = 0
        | .noticeFault k m => recordField x 1 1 = 1 ∧ recordField x 3 1 = 4 + k.val ∧ (m ≤ 65535 → recordField x 4 2 = m)
        | .badIndex o => recordField x 1 1 = 2 ∧ recordField x 3 1 = o.toNat ∧ recordField x 4 2 = 0
        | .halted software pin =>
          recordField x 1 1 = 3 ∧ recordField x 3 1 = (if software then 1 else 0) + (if pin then 2 else 0) ∧
            recordField x 4 2 = 0
        | .resumed m => recordField x 1 1 = 4 ∧ recordField x 3 1 = (if m = .discard then 1 else 0) ∧ recordField x 4 2 = 0)) ∧
   ∀ (b : Bool) (r : CommandRingId) (st : Status) (ident : BitVec 16) (take : Nat) (res : Result) (x : NoticeRecord)
     (level : Level → Nat) (maybe : Option Level → Nat) (trim : Option Int → Nat), take ≤ 65535 →
     (∀ v, level v = if v = .high then 1 else 0) → (∀ v, maybe (some v) = level v) → maybe none = 255 →
     (∀ v, trim (some v) = (v % 65536).toNat) → trim none = 0x8000 →
     x = noticeRecord b (.completion r st ident take res) →
     recordField x 0 1 = 1 + (if b then 128 else 0) ∧
     [Status.ok, .alreadyStopped, .notLoaded, .stale, .slotBusy, .notDormant, .wrongKind, .noticePending, .calendarFull,
       .busy, .superseded, .timedOut, .lineDisabled, .halted, .badCommand, .badParam][recordField x 1 1]? = some st ∧
     recordField x 2 1 = r.val ∧ recordField x 3 1 = 0 ∧ recordField x 4 2 = ident.toNat ∧ recordField x 6 2 = take ∧
     match res with
     | .zero => recordField x 8 24 = 0
     | .slot y =>
       y.state ≤ 255 → (∀ n, y.remaining = some n → n ≤ 65535) → y.firingsDone < 2 ^ 32 →
       recordField x 8 1 = y.state ∧ recordField x 9 1 = y.generation.toNat ∧
       recordField x 10 1 =
         (if y.remaining.isSome then 1 else 0) + (if y.expiry.isSome then 2 else 0) + (if y.noticePending then 4 else 0) +
           (if y.expiryApplied then 8 else 0) + (if y.triggerLine.isSome then 16 else 0) ∧
       recordField x 11 1 = (y.triggerLine.map Fin.val).getD 0 ∧ recordField x 12 2 = y.remaining.getD 0 ∧
       recordField x 14 1 = (if y.calendarKind then 1 else 0) ∧ recordField x 15 1 = 0 ∧
       recordField x 16 4 = y.firingsDone ∧ recordField x 20 4 = 0 ∧
       recordField x 24 8 = (y.expiry.map BitVec.toNat).getD 0
     | .time y =>
       y.year ≤ 65535 → y.month ≤ 255 → y.day ≤ 255 → y.hour ≤ 255 → y.minute ≤ 255 → y.second ≤ 255 → y.weekday ≤ 255 →
       y.into < 2 ^ 32 →
       recordField x 8 8 = y.tick.toNat ∧ recordField x 16 2 = y.year ∧ recordField x 18 1 = y.month ∧
       recordField x 19 1 = y.day ∧ recordField x 20 1 = y.hour ∧ recordField x 21 1 = y.minute ∧
       recordField x 22 1 = y.second ∧ recordField x 23 1 = y.weekday ∧ recordField x 24 4 = y.into ∧
       recordField x 28 2 = trim (some y.trim) ∧ recordField x 30 2 = trim y.pending
     | .trim v pending tick c =>
       c < 2 ^ 40 → recordField x 8 2 = trim (some v) ∧ recordField x 10 2 = trim pending ∧ recordField x 12 4 = 0 ∧
       recordField x 16 8 = tick.toNat ∧ recordField x 24 5 = c ∧ recordField x 29 3 = 0
     | .step before stepped c applied =>
       c < 2 ^ 40 → recordField x 8 8 = before.toNat ∧ recordField x 16 8 = stepped.toNat ∧ recordField x 24 5 = c ∧
       recordField x 29 1 = (if applied then 1 else 0) ∧ recordField x 30 2 = 0
     | .calendar tick c placed matched noMatch stopped =>
       c < 2 ^ 40 → placed ≤ 255 → matched ≤ 255 → noMatch ≤ 255 → stopped ≤ 255 →
       recordField x 8 8 = tick.toNat ∧ recordField x 16 5 = c ∧ recordField x 21 1 = placed ∧
       recordField x 22 1 = matched ∧ recordField x 23 1 = noMatch ∧ recordField x 24 1 = stopped ∧ recordField x 25 7 = 0
     | .lineSetup state safe held pin =>
       state ≤ 255 → recordField x 8 1 = state ∧ recordField x 9 1 = level safe ∧ recordField x 10 1 = maybe held ∧
       recordField x 11 1 = level pin ∧ recordField x 12 20 = 0
     | .lineForce state held pending pin =>
       state ≤ 255 → recordField x 8 1 = state ∧ recordField x 9 1 = maybe held ∧
       recordField x 10 1 = (if pending then 1 else 0) ∧ recordField x 11 1 = level pin ∧ recordField x 12 20 = 0
     | .capture y =>
       y.qualify ≤ 255 → y.interval ≤ 65535 → y.lost ≤ 255 → y.waiting ≤ 65535 →
       [EdgeMode.off, .rising, .falling, .both][recordField x 8 1]? = some y.edgeMode ∧ recordField x 9 1 = y.qualify ∧
       recordField x 10 1 = (if y.notify then 1 else 0) ∧ recordField x 11 1 = y.ring.val ∧
       recordField x 12 2 = y.interval ∧ recordField x 14 1 = maybe y.stable ∧
       recordField x 15 1 = (if y.heldPresent then 1 else 0) ∧ recordField x 16 1 = y.lost ∧ recordField x 17 1 = 0 ∧
       recordField x 18 2 = y.edgeSequence.toNat ∧ recordField x 20 2 = y.waiting ∧ recordField x 22 10 = 0)

/-- R121, R135, R174, R176: a record write that ends good puts the record's 32 bytes, little-endian, at its address
and changes no other byte; the record leaves the write queue and, where its place is not released meanwhile, is
unreleased from the tick of the end; ready is re-evaluated, and nothing else changes. R138, R139: the end of a write
that was in flight at a reset of its ring has no effect on the ring, good or with a bus error: the ring is only free
to write again. No byte outside the record's 32 changes; a good end puts the record there (log entry 6), and a bus
error leaves free values (log entry 5). The write of before a reset is log entry 18. -/
def Obligations.RecordWriteEndsGoodOrStale : Prop :=
  (∀ (k : NoticeRingId) (s : State) (q : Queued) (l : List Queued) (w : List Tick),
     s.notices[k].stale = none → s.notices[k].queue = q :: l →
     w = (if q.released then s.notices[k].written else s.notices[k].written ++ [s.time.timebase]) →
     ∃ t, exec (.writeEnd k .good) s = .next t ∧ t = { s with memory := t.memory, notices := t.notices } ∧
       (∀ a : Nat, Memory.read t.memory a =
         if q.address ≤ a ∧ a < q.address + 32 then
           some ((noticeRecord q.phase q.notice).extractLsb' (8 * (a - q.address)) 8)
         else Memory.read s.memory a) ∧
       t.notices[k] = { s.notices[k] with queue := l, written := w, ready := t.notices[k].ready } ∧
       (∀ c, s.notices[k].config = some c →
         (t.notices[k].ready = true ↔ ∃ o, w.head? = some o ∧
           (c.threshold ≤ w.length ∨ min (o.toNat + c.holdoff) (2 ^ 64 - 1) ≤ s.time.timebase.toNat))) ∧
       ∀ j : NoticeRingId, j ≠ k → t.notices[j] = s.notices[j]) ∧
  (∀ (k : NoticeRingId) (e : WriteEnd) (s : State) (q : Queued), s.notices[k].stale = some q →
     ∃ t, exec (.writeEnd k e) s = .next t ∧
       t = { s with memory := t.memory, freeCount := t.freeCount
                    notices := s.notices.set k { s.notices[k] with stale := none } } ∧
       (∀ a : Nat, (a < q.address ∨ q.address + 32 ≤ a) → Memory.read t.memory a = Memory.read s.memory a) ∧
       (e = .good → t.freeCount = s.freeCount ∧ ∀ a : Nat, q.address ≤ a → a < q.address + 32 →
         Memory.read t.memory a = some ((noticeRecord q.phase q.notice).extractLsb' (8 * (a - q.address)) 8)))

/-- R132, R133, R134: a record write that ends with a bus error loses that record and every record behind it, each
counted, and the ring is FAULTED with its other counts and lists kept; FAULT is set; each bound command ring that is
ACTIVE with no fetch in flight is STALLED; a fault of NR1 is offered to NR0 as a QUEUE_FAULT with the count, one of
NR0 is not; the arbiter's choice follows. No byte outside the record's 32 changes; what those hold is a free value
(log entry 5). -/
def Obligations.RecordWriteErrorFaultsTheRing : Prop :=
  ∀ (k : NoticeRingId) (s : State) (q : Queued) (l : List Queued) (x : NoticeRing) (n : SystemNotice),
    s.control.core = .running → s.notices[k].stale = none → s.notices[k].queue = q :: l →
    x = { s.notices[k] with queue := [], state := .faulted
                            lostRecords := min (s.notices[k].lostRecords + (l.length + 1)) 65535 } →
    n = { body := .noticeFault 1 x.lostRecords, tick := s.time.timebase } →
    ∃ t, exec (.writeEnd k .busError) s = .next t ∧
      t = { s with control := { s.control with fault := true }, memory := t.memory, freeCount := t.freeCount
                   intake := t.intake, notices := t.notices } ∧
      (∀ a : Nat, (a < q.address ∨ q.address + 32 ≤ a) → Memory.read t.memory a = Memory.read s.memory a) ∧
      ∀ y : State, y = setNotice k x
          { s with
            control := { s.control with fault := true }, memory := t.memory, freeCount := t.freeCount
            intake :=
              { s.intake with rings := s.intake.rings.map fun z =>
                  if z.bound? = some k ∧ z.state = .active ∧ z.fetch = none then { z with state := .stalled } else z } } →
        ArbiterOnly
          (if k = 1 then
             setNotice 0
               (if s.notices[(0 : NoticeRingId)].takesOffer then s.notices[(0 : NoticeRingId)].takePlace (.system n 0)
                else
                  { s.notices[(0 : NoticeRingId)] with
                    deferred :=
                      deferSystem { n with body := .noticeFault 1 0 } s.notices[(0 : NoticeRingId)].deferred }) y
           else y) t

/-- R130, R135: a valid release moves the release index and lowers the occupied count by the places freed; the
records among them that are written are no longer unreleased, and those still queued are marked released in their
order. The freed places are served as R124 states, ready is re-evaluated, and the arbiter's choice follows. A ring
that is not configured takes a release of 0 and frees nothing. R124, R127, R128, R129, R132, R145: the free places
of an ACTIVE ring with room are served one by one, as long as there are any: first the head of the deferred list
leaves it and takes a place, a slot with COALESCED where its count is greater than 1 and its notice pending cleared,
a capture line with its held record and lost count, which are then cleared, SYSTEM with its kept notice and lost
count; with nothing deferred the head request is granted. With no room, nothing waiting or the ring not ACTIVE,
nothing is served. R136, R135: the holdoff expiry makes a ring with an unreleased record ready once the timebase
stands at or beyond its oldest post tick plus its holdoff, at most 2^64-1, and changes nothing else. How the
unreleased count and the oldest post tick are kept is log entry 19; that a release of 1 right after the reset of a
FAULTED NR0 is valid is the model's choice (log entry 39). -/
def Obligations.ReleaseAndHoldoff : Prop :=
  (∀ (k : NoticeRingId) (v : BitVec 32) (s : State), s.control.resetAsserted = false →
     (s.notices[k].config = none → v = 0 → exec (.releaseIndexWrite k v) s = .next s) ∧
     ∀ (c : NoticeConfig) (d : Nat), s.notices[k].config = some c → v.toNat < c.size →
       d = (v.toNat + c.size - s.notices[k].releaseIndex) % c.size → d ≤ s.notices[k].occupied →
       ∃ t x u y, exec (.releaseIndexWrite k v) s = .next t ∧ u = serve k (setNotice k x s) ∧
         ArbiterOnly (setNotice k { u.notices[k] with ready := y } u) t ∧
         x = { s.notices[k] with
                 releaseIndex := v.toNat, occupied := s.notices[k].occupied - d
                 written := s.notices[k].written.drop d, queue := x.queue } ∧
         x.queue.map (fun q => (q.place, q.address, q.phase, q.notice)) =
           s.notices[k].queue.map (fun q => (q.place, q.address, q.phase, q.notice)) ∧
         (d ≤ s.notices[k].written.length → x.queue = s.notices[k].queue) ∧
         (∀ a b, s.notices[k].queue = a ++ b → (∀ q ∈ a, q.released = true) → (∀ q ∈ b, q.released = false) →
           x.queue = a ++ (b.take (d - s.notices[k].written.length)).map (fun q => { q with released := true }) ++
             b.drop (d - s.notices[k].written.length)) ∧
         (y = true ↔ ∃ o, (s.notices[k].written.drop d).head? = some o ∧
           (c.threshold ≤ s.notices[k].written.length - d ∨
             min (o.toNat + c.holdoff) (2 ^ 64 - 1) ≤ s.time.timebase.toNat))) ∧
  (∀ (k : NoticeRingId) (s : State) (x : NoticeRing), x = s.notices[k] →
     (x.state ≠ .active ∨ x.size ≤ x.occupied + x.reserved ∨ (x.deferred = [] ∧ x.requests = []) → serve k s = s) ∧
     (x.state = .active → x.occupied + x.reserved < x.size →
       (∀ i p l e, x.deferred = .slot i p :: l → s.slots[i].event = some e →
         serve k s =
           serve k
             (setSlot i { s.slots[i] with noticePending := false }
               (setNotice k
                 (NoticeRing.takePlace
                   (.firing i s.slots[i].generation e.defn.tag
                     { p with flags := { p.flags with coalesced := p.flags.coalesced || decide (1 < p.count) } })
                   { x with deferred := l }) s))) ∧
       (∀ c l h, x.deferred = .line c :: l → s.capture.lines[c].held = some h →
         serve k s =
           serve k
             (setCapture c { s.capture.lines[c] with held := none, lost := 0 }
               (setNotice k
                 (NoticeRing.takePlace (.edge c h.direction h.timestamp h.sequence s.capture.lines[c].lost)
                   { x with deferred := l }) s))) ∧
       (∀ n lost l, x.deferred = .system n lost :: l →
         serve k s =
           serve k
             (setNotice k
               (NoticeRing.takePlace
                 (.system
                   (match n.body with
                     | .noticeFault 1 _ => { n with body := .noticeFault 1 s.notices[(1 : NoticeRingId)].lostRecords }
                     | .noticeFault 0 _ | .commandFault _ | .badIndex _ | .halted _ _ | .resumed _ => n) lost)
                 { x with deferred := l }) s)) ∧
       ∀ r l, x.deferred = [] → x.requests = r :: l →
         serve k s =
           serve k
             (setRing r { s.intake.rings[r] with requestOutstanding := false, fetchReservation := true, state := .active }
               (setNotice k { x with reserved := x.reserved + 1, requests := l } s)))) ∧
  (∀ (k : NoticeRingId) (s : State) (c : NoticeConfig) (o : Tick) (l : List Tick),
     s.notices[k].config = some c → s.notices[k].written = o :: l →
     min (o.toNat + c.holdoff) (2 ^ 64 - 1) ≤ s.time.timebase.toNat →
     exec (.holdoffExpiry k) s = .next (setNotice k { s.notices[k] with ready := true } s))

/-- R168, R22, R46, R70, R87, R102, R117, R139, R157, R164: CORE_RESET brings every block to its core reset values:
the core OFF, SOFTWARE clear and PIN latched where HALT_IN is asserted, flags, FAULT and enables clear; every slot
FREE with generation 0, every collection empty, every line DISABLED and low, every capture line OFF, every ring not
configured. The setup address and the time but for its pending trim are kept, and so is memory; a setup read is
abandoned, a fetch discarded on arrival, a notice write ends without effect on its ring. R169, R87, R178: power-on
and the assertion of RESET_N do as a core reset, and set the timebase, the accumulator, the trim, the anchor and the
setup address to 0; while RESET_N is asserted STATUS reads 0 but for the HALT_IN level; at its release, and at the
end of power-on, the core is OFF with PIN latched where HALT_IN is asserted. R22, R46, R70, R87, R102, R117, R139,
R157, R169: the values right after power-on, block by block. The levels of the two input pins (log entry 3) and the
fields that are the model's own (log entries 15, 18 and 19) are the model's choice. What bus work in flight becomes
is log entries 18 and 27. -/
def Obligations.ResetValues : Prop :=
  (∀ s : State, s.control.resetAsserted = false →
     ∃ t, exec .coreReset s = .next t ∧
       t.control =
         { Control.reset with
           pin := s.control.haltIn, haltIn := s.control.haltIn, setupAddress := s.control.setupAddress
           setupReads := s.control.setupReads.map fun x => { x with abandoned := true } } ∧
       t.time = { s.time with pendingTrim := none } ∧
       t.slots = State.reset.slots ∧ t.timeline = State.reset.timeline ∧ t.resolver = State.reset.resolver ∧
       t.lines = State.reset.lines ∧ t.capture = State.reset.capture ∧ t.memory = s.memory ∧
       t.intake.turn = 3 ∧ t.intake.count = 8 ∧
       (∀ r : CommandRingId, t.intake.rings[r] =
         { CommandRing.reset with fetch := s.intake.rings[r].fetch.map fun f => { f with discarded := true } }) ∧
       (∀ k : NoticeRingId, t.notices[k] =
         { NoticeRing.reset with
           stale := if s.notices[k].stale = none then s.notices[k].queue.head? else s.notices[k].stale }) ∧
       t.halted = false ∧ t.intr = false ∧ t.intBits = 0) ∧
  ((∀ s : State, ∃ t u, exec .powerOn s = .next t ∧ exec .resetNAssert s = .next u ∧
     t.time = TimeUnit.reset ∧ u.time = TimeUnit.reset ∧ t.control.setupAddress = 0 ∧ u.control.setupAddress = 0 ∧
     t.control.core = .off ∧ u.control.core = .off ∧ t.control.software = false ∧ u.control.software = false ∧
     t.control.pin = (s.control.haltIn && !s.control.resetAsserted) ∧ u.control.pin = false ∧
     u.control.resetAsserted = true ∧ t.control.enable = 0 ∧ u.control.enable = 0 ∧
     u = { t with control := { t.control with pin := false, resetAsserted := true } } ∧
     (∀ v, exec .coreReset { s with control := { s.control with resetAsserted := false } } = .next v →
       t = { v with time := TimeUnit.reset
                    control := { v.control with setupAddress := 0, pin := t.control.pin
                                                resetAsserted := s.control.resetAsserted } }) ∧
     u.statusWord = (if s.control.haltIn then 0x10#32 else 0#32)) ∧
   ∀ s : State, s.control.resetAsserted = true →
     exec .resetNRelease s =
       .next { s with control := { s.control with resetAsserted := false, pin := s.control.haltIn } }) ∧
  ((∀ i : SlotId, State.reset.slots[i] = { generation := 0, noticePending := false, event := none }) ∧
   State.reset.timeline = { entries := [], nextSequence := 0, lateThreshold := 0 } ∧
   (∀ l : LineId, State.reset.lines[l] = { safe := .low, mode := .disabled }) ∧
   State.reset.time =
     { timebase := 0, trim := 0, accumulator := 0, pendingTrim := none, anchorTick := 0, anchorSecond := 0
       nextBoundary := 100000000, dueBoundaries := [] } ∧
   State.reset.resolver = { queue := [], work := none, started := 0, pass := none } ∧
   (∀ c : CaptureId, State.reset.capture.lines[c] =
     { edgeMode := .off, qualify := 1, interval := 1, notify := false, ring := 0, sampling := none, edgeSequence := 0
       held := none, lost := 0, waiting := [] }) ∧
   State.reset.capture.suppressed = false ∧
   (∀ k : NoticeRingId, State.reset.notices[k] = NoticeRing.reset) ∧
   NoticeRing.reset =
     { config := none, state := .disabled, writeIndex := 0, releaseIndex := 0, phase := true, occupied := 0, reserved := 0
       queue := [], written := [], deferred := [], requests := [], lostRecords := 0, ready := false, stale := none } ∧
   (∀ r : CommandRingId, State.reset.intake.rings[r] = CommandRing.reset) ∧
   CommandRing.reset =
     { config := none, state := .disabled, take := 0, post := 0, fetchReservation := false, requestOutstanding := false
       fetch := none, wait := none, outstanding := [] } ∧
   State.reset.intake.turn = 3 ∧ State.reset.intake.count = 8 ∧
   State.reset.control =
     { core := .off, software := false, pin := false, haltIn := false, resetAsserted := false, setupAddress := 0
       setupReads := [], badIndex := false, startIgnored := false, resumeRefused := false, fault := false, enable := 0 })

/-- R160, R162, R171: START in OFF makes the core LOADING and begins a read at the setup address; in any other core
state it sets START_IGNORED alone. R171: CLEAR_FLAGS clears the three sticky flags alone. R172: a write to
INT_STATUS with bit 2 at 1 clears FAULT alone, and with bit 2 at 0 changes nothing. R173: a write to INT_ENABLE
stores bits 0 to 3 alone. R169, R178: while RESET_N is asserted every register write is ignored. -/
def Obligations.ControlUnitWrites : Prop :=
  (∀ (s : State) (v : BitVec 32), s.control.resetAsserted = false →
     (s.control.core = .off →
       exec .controlStart s =
         .next { s with control :=
                   { s.control with
                     core := .loading
                     setupReads := s.control.setupReads ++ [{ address := s.control.setupAddress, abandoned := false }] } }) ∧
     (s.control.core ≠ .off →
       exec .controlStart s = .next { s with control := { s.control with startIgnored := true } }) ∧
     exec .clearFlags s =
       .next { s with control := { s.control with badIndex := false, startIgnored := false, resumeRefused := false } } ∧
     exec (.intStatusWrite v) s =
       .next { s with control := { s.control with fault := s.control.fault && !v.getLsbD 2 } } ∧
     exec (.intEnableWrite v) s = .next { s with control := { s.control with enable := v.setWidth 4 } }) ∧
  (∀ (c : Instr) (s : State), s.control.resetAsserted = true →
     (c = .controlStart ∨ c = .halt ∨ (∃ m, c = .resume m) ∨ c = .coreReset ∨ c = .clearFlags ∨
       (∃ k, c = .noticeRingReset k) ∨ (∃ r, c = .commandRingReset r) ∨ (∃ r v, c = .postIndexWrite r v) ∨
       (∃ k v, c = .releaseIndexWrite k v) ∨ (∃ v, c = .intStatusWrite v) ∨ (∃ v, c = .intEnableWrite v) ∨
       ∃ o v n, c = .registerWrite o v n) →
     exec c s = .next s)

/-- R162, R163, R164, R27, R118, R140: the end of a live setup read. With a valid block and no cause latched the
core is RUNNING, every ring is configured and at its reset values, ACTIVE if enabled, the late threshold is written,
and the turn stands at CR3; with a bus error or an invalid block the core is FAILED and FAULT is set, and nothing is
configured. An abandoned read ends without effect. R163, R174, R177, Tables 10-13 and 10-14: the configuration that
a setup block carries, if it is valid. Command ring: base address a multiple of 64, one of the nine sizes, bound
notice ring 0 or 1, burst 1 to 8, enabled 0 or 1. Notice ring: base address a multiple of 32, one of the nine sizes,
threshold 1 to the size, holdoff at most 2^24, enabled 0 or 1. The late threshold is any 16-bit value. No other
block is valid. R162, R166: a valid load with a halt cause latched does the same and enters HALTED: every enabled
line is HELD at its safe level, triggers are suppressed, and a HALTED notice with the causes is posted on NR0 where
NR0 is enabled, at place 0 with phase 1, else deferred there. Reads are named by their place in the list, log entry
17; what a load keeps of bus work is log entry 31. -/
def Obligations.SetupReadDecidesTheLoad : Prop :=
  (∀ (i : Nat) (e : SetupEnd) (s u : State) (x : SetupRead), s.control.setupReads[i]? = some x →
     u = { s with control := { s.control with setupReads := s.control.setupReads.eraseIdx i } } →
     (x.abandoned = true → exec (.setupReadEnd i e) s = .next u) ∧
     (x.abandoned = false → (e = .busError ∨ ∃ b, e = .good b ∧ setupConfigOf b = none) →
       exec (.setupReadEnd i e) s = .next { u with control := { u.control with core := .failed, fault := true } }) ∧
     ∀ (b : SetupBlock) (c : SetupConfig), x.abandoned = false → e = .good b → setupConfigOf b = some c →
       s.control.software = false → s.control.pin = false →
       ∃ t, exec (.setupReadEnd i e) s = .next t ∧
         t = { u with control := { u.control with core := .running }, intake := t.intake, notices := t.notices
                      timeline := { u.timeline with lateThreshold := c.lateThreshold } } ∧
         t.intake.turn = 3 ∧ t.intake.count = 8 ∧
         (∀ r : CommandRingId, t.intake.rings[r] =
           { CommandRing.reset with
             config := some c.commands[r], state := if (c.commands[r]).enabled then .active else .disabled
             fetch := s.intake.rings[r].fetch.map fun f => { f with discarded := true } }) ∧
         ∀ k : NoticeRingId, t.notices[k] =
           { NoticeRing.reset with
             config := some c.notices[k], state := if (c.notices[k]).enabled then .active else .disabled
             stale := if s.notices[k].stale = none then s.notices[k].queue.head? else s.notices[k].stale }) ∧
  (∀ (b : SetupBlock) (c : SetupConfig), setupConfigOf b = some c ↔
     (∀ r : CommandRingId,
       (c.commands[r]).base.toNat = recordField b (16 * r.val) 8 ∧ recordField b (16 * r.val) 8 % 64 = 0 ∧
       (c.commands[r]).size = recordField b (16 * r.val + 0x08) 2 ∧
       (c.commands[r]).size ∈ [16, 32, 64, 128, 256, 512, 1024, 2048, 4096] ∧
       (c.commands[r]).bound.val = recordField b (16 * r.val + 0x0A) 1 ∧
       (c.commands[r]).burst = recordField b (16 * r.val + 0x0B) 1 ∧ 1 ≤ (c.commands[r]).burst ∧
       (c.commands[r]).burst ≤ 8 ∧
       recordField b (16 * r.val + 0x0C) 1 = if (c.commands[r]).enabled then 1 else 0) ∧
     (∀ k : NoticeRingId,
       (c.notices[k]).base.toNat = recordField b (0x40 + 24 * k.val) 8 ∧ recordField b (0x40 + 24 * k.val) 8 % 32 = 0 ∧
       (c.notices[k]).size = recordField b (0x48 + 24 * k.val) 2 ∧
       (c.notices[k]).size ∈ [16, 32, 64, 128, 256, 512, 1024, 2048, 4096] ∧
       (c.notices[k]).threshold = recordField b (0x4A + 24 * k.val) 2 ∧ 1 ≤ (c.notices[k]).threshold ∧
       (c.notices[k]).threshold ≤ (c.notices[k]).size ∧
       (c.notices[k]).holdoff = recordField b (0x4C + 24 * k.val) 4 ∧ (c.notices[k]).holdoff ≤ 2 ^ 24 ∧
       recordField b (0x50 + 24 * k.val) 1 = if (c.notices[k]).enabled then 1 else 0) ∧
     c.lateThreshold = recordField b 0x70 2) ∧
  (∀ (i : Nat) (b : SetupBlock) (c : SetupConfig) (s u : State) (x : SetupRead) (n : SystemNotice),
     s.control.setupReads[i]? = some x → x.abandoned = false → setupConfigOf b = some c →
     (s.control.software || s.control.pin) = true →
     u = { s with control := { s.control with setupReads := s.control.setupReads.eraseIdx i } } →
     n = { body := .halted s.control.software s.control.pin, tick := s.time.timebase } →
     ∃ t, exec (.setupReadEnd i (.good b)) s = .next t ∧ t.halted = true ∧
       t = { u with control := { u.control with core := .running }, intake := t.intake, notices := t.notices
                    timeline := { u.timeline with lateThreshold := c.lateThreshold }, lines := t.lines
                    capture := { u.capture with suppressed := true } } ∧
       t.intake.turn = 3 ∧ t.intake.count = 8 ∧
       (∀ r : CommandRingId, t.intake.rings[r] =
         { CommandRing.reset with
           config := some c.commands[r], state := if (c.commands[r]).enabled then .active else .disabled
           fetch := s.intake.rings[r].fetch.map fun f => { f with discarded := true } }) ∧
       (∀ l : LineId, t.lines[l] =
         if s.lines[l].mode = .disabled then s.lines[l] else { safe := s.lines[l].safe, mode := .held s.lines[l].safe }) ∧
       ∀ k : NoticeRingId, ∃ y, y =
           { NoticeRing.reset with
             config := some c.notices[k], state := if (c.notices[k]).enabled then .active else .disabled
             stale := if s.notices[k].stale = none then s.notices[k].queue.head? else s.notices[k].stale } ∧
         t.notices[k] =
           if k = 0 then
             (if (c.notices[k]).enabled then
                { y with
                  writeIndex := 1, occupied := 1
                  queue := [{ place := 0, address := (c.notices[k]).base.toNat, phase := true, notice := .system n 0
                              released := false }] }
              else { y with deferred := [.system n 0] })
           else y)

/-- R160, R170, R178, Table 10-15: a 32-bit write at an offset of the window is the command of the register that
stands there; one to a read-only register, or where none stands, and one of fewer than four bytes, changes nothing.
A CONTROL write takes its actions in the order START, HALT, RESUME, CORE_RESET, CLEAR_FLAGS, each on the state
before it, with the arbiter's choice after all of them where a resume is among them; a QUEUE_RESET write while
RUNNING resets the notice rings it names, NR0 then NR1, then the command rings, CR0 to CR3, with the arbiter's
choice after them. That a write of any number of bytes but four is ignored is log entry 35; that the arbiter's
choice comes once, after all the actions of a write, is log entry 11. -/
def Obligations.RegisterWindowWrites : Prop :=
  ∀ (o : BitVec 6) (v : BitVec 32) (n : Nat) (s : State), s.control.resetAsserted = false →
    (n ≠ 4 → exec (.registerWrite o v n) s = .next s) ∧
    ((o = 0x04 ∨ o = 0x34 ∨ o = 0x38 ∨ o = 0x3C) → exec (.registerWrite o v 4) s = .next s) ∧
    exec (.registerWrite 0x08 v 4) s = exec (.intStatusWrite v) s ∧
    exec (.registerWrite 0x0C v 4) s = exec (.intEnableWrite v) s ∧
    (∀ r : CommandRingId, o.toNat = 0x1C + 4 * r.val →
      exec (.registerWrite o v 4) s = exec (.postIndexWrite r v) s) ∧
    (∀ k : NoticeRingId, o.toNat = 0x2C + 4 * k.val →
      exec (.registerWrite o v 4) s = exec (.releaseIndexWrite k v) s) ∧
    (∃ t, exec (.registerWrite 0x14 v 4) s = .next t ∧
      t = { s with control := { s.control with setupAddress := t.control.setupAddress } } ∧ t.readRegister 5 = v ∧
      t.readRegister 6 = s.readRegister 6) ∧
    (∃ t, exec (.registerWrite 0x18 v 4) s = .next t ∧
      t = { s with control := { s.control with setupAddress := t.control.setupAddress } } ∧ t.readRegister 6 = v ∧
      t.readRegister 5 = s.readRegister 5) ∧
    (v.extractLsb' 0 5 = 0 → exec (.registerWrite 0x00 v 4) s = .next s) ∧
    (v.extractLsb' 0 5 = 1 → exec (.registerWrite 0x00 v 4) s = exec .controlStart s) ∧
    (v.extractLsb' 0 5 = 2 → exec (.registerWrite 0x00 v 4) s = exec .halt s) ∧
    (v.extractLsb' 0 5 = 4 →
      exec (.registerWrite 0x00 v 4) s = exec (.resume (if v.getLsbD 8 then .discard else .catchup)) s) ∧
    (v.extractLsb' 0 5 = 8 → exec (.registerWrite 0x00 v 4) s = exec .coreReset s) ∧
    (v.extractLsb' 0 5 = 16 → exec (.registerWrite 0x00 v 4) s = exec .clearFlags s) ∧
    (∀ t u, v.extractLsb' 0 5 = 9 → exec .controlStart s = .next t → exec .coreReset t = .next u →
      exec (.registerWrite 0x00 v 4) s = .next u) ∧
    (∀ t u, v.extractLsb' 0 5 = 3 → exec .controlStart s = .next t → exec .halt t = .next u →
      exec (.registerWrite 0x00 v 4) s = .next u) ∧
    (∀ t u, v.extractLsb' 0 5 = 6 → exec .halt s = .next t →
      exec (.resume (if v.getLsbD 8 then .discard else .catchup)) t = .next u →
      exec (.registerWrite 0x00 v 4) s = .next u) ∧
    (v.extractLsb' 0 6 = 0 → exec (.registerWrite 0x10 v 4) s = .next s) ∧
    (∀ r : CommandRingId, (v.extractLsb' 0 6).toNat = 2 ^ r.val →
      exec (.registerWrite 0x10 v 4) s = exec (.commandRingReset r) s) ∧
    (∀ k : NoticeRingId, (v.extractLsb' 0 6).toNat = 2 ^ (4 + k.val) →
      exec (.registerWrite 0x10 v 4) s = exec (.noticeRingReset k) s) ∧
    (exec .controlStart s = .next (controlStart s) ∧ exec .halt s = .next (controlHalt s) ∧
      exec .coreReset s = .next (controlReset s) ∧ exec .clearFlags s = .next (controlClear s) ∧
      ∀ m, exec (.resume m) s =
        .next (if s.halted = true ∧ s.control.haltIn = false then settle (controlResume m s) else controlResume m s)) ∧
    (∀ a b c d e : State, a = (if v.getLsbD 0 then controlStart s else s) → b = (if v.getLsbD 1 then controlHalt a else a) →
      c = (if v.getLsbD 2 then controlResume (if v.getLsbD 8 then .discard else .catchup) b else b) →
      d = (if v.getLsbD 3 then controlReset c else c) → e = (if v.getLsbD 4 then controlClear d else d) →
      exec (.registerWrite 0x00 v 4) s =
        .next (if v.getLsbD 2 = true ∧ b.halted = true ∧ b.control.haltIn = false then settle e else e)) ∧
    (s.control.core ≠ .running → exec (.registerWrite 0x10 v 4) s = .next s) ∧
    (s.control.core = .running →
      (∀ k, exec (.noticeRingReset k) s = .next (settle (resetNoticeRing k s))) ∧
      (∀ r, exec (.commandRingReset r) s = .next (settle (resetCommandRing false r s))) ∧
      ∀ a b c d e f : State, v.extractLsb' 0 6 ≠ 0 → a = (if v.getLsbD 4 then resetNoticeRing 0 s else s) →
        b = (if v.getLsbD 5 then resetNoticeRing 1 a else a) → c = (if v.getLsbD 0 then resetCommandRing false 0 b else b) →
        d = (if v.getLsbD 1 then resetCommandRing false 1 c else c) →
        e = (if v.getLsbD 2 then resetCommandRing false 2 d else d) →
        f = (if v.getLsbD 3 then resetCommandRing false 3 e else e) →
        exec (.registerWrite 0x10 v 4) s = .next (settle f))

/-- R171, R172, R173, R178, Table 10-16: what reads of the window return. A read narrower than 32 bits returns the
bytes addressed from the register's word. -/
def Obligations.RegisterWindowReads : Prop :=
  ∀ s : State,
    s.readRegister 0 = 0 ∧ s.readRegister 4 = 0 ∧ s.readRegister 14 = 0 ∧ s.readRegister 15 = 0 ∧
    s.readRegister 13 = 0x24160100#32 ∧ s.readRegister 3 = s.control.enable.setWidth 32 ∧
    (s.readRegister 6 ++ s.readRegister 5 : BitVec 64) = s.control.setupAddress ∧
    (∀ (r : CommandRingId) (w : Fin 16), w.val = 7 + r.val → s.intake.rings[r].post < 4096 →
      (s.readRegister w).toNat = if s.intake.rings[r].config.isSome then s.intake.rings[r].post else 0) ∧
    (∀ (k : NoticeRingId) (w : Fin 16), w.val = 11 + k.val → s.notices[k].releaseIndex < 4096 →
      (s.readRegister w).toNat = if s.notices[k].config.isSome then s.notices[k].releaseIndex else 0) ∧
    ((s.readRegister 2).getLsbD 0 = s.notices[(0 : NoticeRingId)].ready ∧
      (s.readRegister 2).getLsbD 1 = s.notices[(1 : NoticeRingId)].ready ∧
      (s.readRegister 2).getLsbD 2 = s.control.fault ∧ (s.readRegister 2).getLsbD 3 = s.halted ∧
      (s.readRegister 2).toNat < 16) ∧
    ((s.readRegister 1).extractLsb' 0 2 =
        (match s.control.core with
          | .off => 0
          | .loading => 1
          | .running => 2
          | .failed => 3) ∧
      (s.readRegister 1).getLsbD 2 = s.control.software ∧ (s.readRegister 1).getLsbD 3 = s.control.pin ∧
      (s.readRegister 1).getLsbD 4 = s.control.haltIn ∧ (s.readRegister 1).getLsbD 5 = s.control.badIndex ∧
      (s.readRegister 1).getLsbD 6 = s.control.startIgnored ∧ (s.readRegister 1).getLsbD 7 = s.control.resumeRefused ∧
      (∀ r : CommandRingId, (s.readRegister 1).extractLsb' (8 + 3 * r.val) 3 =
        match s.intake.rings[r].state with
          | .disabled => 0
          | .active => 1
          | .stalled => 2
          | .blocked => 3
          | .faulted => 4) ∧
      (∀ k : NoticeRingId, (s.readRegister 1).extractLsb' (20 + 2 * k.val) 2 =
        match s.notices[k].state with
          | .disabled => 0
          | .active => 1
          | .faulted => 2) ∧
      (s.readRegister 1).toNat < 2 ^ 24) ∧
    (s.intr = true ↔ ∃ i, i < 4 ∧ (s.readRegister 2).getLsbD i = true ∧ s.control.enable.getLsbD i = true) ∧
    ∀ (w : Fin 16) (i n : Nat) (o : BitVec 6), i + n ≤ 4 → o.toNat = 4 * w.val + i →
      s.readBytes o n = (s.readRegister w).toNat / 2 ^ (8 * i) % 2 ^ (8 * n)

/-- R156, R123, R170: the reset of a command ring, while RUNNING: indices to 0, the fetch discarded, the WAIT ended,
the outstanding list emptied, the request withdrawn, the other requests keeping their order, every reservation
returned and the freed places served as R124 states, and the ring ACTIVE if enabled; the arbiter's choice follows.
With nothing deferred and no other request waiting on its notice ring nothing else changes. Outside RUNNING it is
ignored. That the reservations go back together is log entry 38. -/
def Obligations.CommandRingResetClearsTheRing : Prop :=
  ∀ (r : CommandRingId) (s : State), s.control.resetAsserted = false →
    (s.control.core ≠ .running → exec (.commandRingReset r) s = .next s) ∧
    ∀ (c : CommandConfig) (n : Nat) (u : State), s.control.core = .running → s.intake.rings[r].config = some c →
      n = (if s.intake.rings[r].fetchReservation then 1 else 0) +
            (if s.intake.rings[r].fetch.map Fetch.discarded = some false then 1 else 0) +
            s.intake.rings[r].outstanding.length →
      u = setNotice c.bound
            { s.notices[c.bound] with
              reserved := s.notices[c.bound].reserved - n
              requests := s.notices[c.bound].requests.filter fun q => q ≠ r }
            (setRing r
              { config := some c, state := if c.enabled then .active else .disabled, take := 0, post := 0
                fetchReservation := false, requestOutstanding := false, wait := none, outstanding := []
                fetch := s.intake.rings[r].fetch.map fun f => { f with discarded := true } } s) →
      ∃ t, exec (.commandRingReset r) s = .next t ∧ ArbiterOnly (serve c.bound u) t ∧
        (s.notices[c.bound].deferred = [] → (∀ q ∈ s.notices[c.bound].requests, q = r) → ArbiterOnly u t)

/-- R137, R138, R170, R109, R3: the reset of a notice ring, while RUNNING: the ring is at its reset values with its
configuration kept, and ACTIVE if enabled; a write in flight goes on to end without effect; the slots on its
deferred list have no notice pending and the capture lines on it no held record; every command ring bound to it is
reset, and no other. Triggers stay suppressed or not as they were. The reset of a FAULTED NR0 offers a QUEUE_FAULT
naming NR0 with its lost-record count before, which the fresh ring posts. Outside RUNNING it is ignored. R137 step
8, R134: the reset of a FAULTED NR0 that is configured and enabled, while RUNNING, posts at place 0 with phase 1 a
QUEUE_FAULT naming NR0 with the count of its lost records. A write in flight at the reset is log entry 18. -/
def Obligations.NoticeRingResetClearsTheRing : Prop :=
  (∀ (k : NoticeRingId) (s : State), s.control.resetAsserted = false →
     (s.control.core ≠ .running → exec (.noticeRingReset k) s = .next s) ∧
     ∀ (c : NoticeConfig) (x : NoticeRing) (n : SystemNotice), s.control.core = .running → s.notices[k].config = some c →
       x = { NoticeRing.reset with
             config := some c, state := if c.enabled then .active else .disabled
             stale := if s.notices[k].stale = none then s.notices[k].queue.head? else s.notices[k].stale } →
       n = { body := .noticeFault 0 s.notices[(0 : NoticeRingId)].lostRecords, tick := s.time.timebase } →
       ∃ t, exec (.noticeRingReset k) s = .next t ∧
         t = { s with intake := t.intake, notices := t.notices, slots := t.slots, capture := t.capture } ∧
         t.capture.suppressed = s.capture.suppressed ∧
         (∀ i : SlotId, t.slots[i] =
           if i ∈ s.notices[k].deferred.filterMap Deferred.slot? then { s.slots[i] with noticePending := false }
           else s.slots[i]) ∧
         (∀ x : CaptureId, t.capture.lines[x] =
           if x ∈ s.notices[k].deferred.filterMap Deferred.line? then { s.capture.lines[x] with held := none, lost := 0 }
           else s.capture.lines[x]) ∧
         ArbiterOnly
           (setNotice k
             (if k = 0 ∧ s.notices[k].state = .faulted then
                if c.enabled = true ∧ 1 ≤ c.size then x.takePlace (.system n 0) else { x with deferred := [.system n 0] }
              else x)
             { s with
               slots := t.slots, capture := t.capture
               intake :=
                 { s.intake with rings := s.intake.rings.map fun y =>
                     match y.config with
                     | some b =>
                       if b.bound = k then
                         { CommandRing.reset with
                           config := some b, state := if b.enabled then .active else .disabled
                           fetch := y.fetch.map fun f => { f with discarded := true } }
                       else y
                     | none => y } }) t) ∧
  (∀ (s : State) (c : NoticeConfig), s.control.resetAsserted = false → s.control.core = .running →
     s.notices[(0 : NoticeRingId)].config = some c → c.enabled = true → 1 ≤ c.size →
     s.notices[(0 : NoticeRingId)].state = .faulted →
     ∃ t, exec (.noticeRingReset 0) s = .next t ∧ t.control.fault = s.control.fault ∧
       t.notices[(0 : NoticeRingId)].state = .active ∧ t.notices[(0 : NoticeRingId)].lostRecords = 0 ∧
       t.notices[(0 : NoticeRingId)].queue =
         [{ place := 0, address := c.base.toNat, phase := true, released := false
            notice := .system { body := .noticeFault 0 s.notices[(0 : NoticeRingId)].lostRecords, tick := s.time.timebase }
              0 }])

/-- The model's queue of commands (log entry 1): a step runs the command at the front of the queue on the state with
the queue's rest; with none waiting the block idles. The queue is the model's own. -/
def Obligations.StepRunsTheFrontCommand : Prop :=
  ∀ (c : Instr) (l : List Instr) (s : State),
    (s.pending = c :: l → step s = exec c { s with pending := l }) ∧ (s.pending = [] → step s = .next s)

/-- Log entry 2: a happening that is not due changes nothing. A firing while HALTED or outside RUNNING (R28, R39),
or with no overdue head; a pulse end, a density clock, a second boundary, a sample or a deadline before its time; a
pulse end on a line that is not PULSING; a density clock or a frame start on one that is not in DENSITY, and a frame
start at a position other than 65,535; a holdoff before its time, of a ring that is ready already, or with no
unreleased record (R136); the end of a fetch, a write, a setup read or a work with none under way, each of the
fifteen command records among them; a take with a work in progress. That a happening not due is a command with no
effect is the model's choice (log entry 2), that a command record with no fetch in flight is one is log entry 9, and
when a density clock is due is log entry 14. -/
def Obligations.NothingHappensBeforeItsTime : Prop :=
  ∀ s : State,
    ((s.halted = true ∨ s.control.core ≠ .running ∨ s.timeline.entries = [] ∨
        ∃ x l, s.timeline.entries = x :: l ∧ s.time.timebase.toNat < x.expiry.toNat) → exec .firing s = .next s) ∧
    (∀ l v p e, s.lines[(l : LineId)].mode = .pulsing v p e → s.time.timebase.toNat < e.toNat →
      exec (.pulseEnd l) s = .next s) ∧
    (∀ l v d p n a, s.lines[(l : LineId)].mode = .density v d p n a → a < 2 ^ d.code.val →
      exec (.densityClock l) s = .next s ∧ exec (.frameStart l) s = .next s) ∧
    (∀ l, ((∀ v p e, s.lines[(l : LineId)].mode ≠ .pulsing v p e) → exec (.pulseEnd l) s = .next s) ∧
      ((∀ v d p n a, s.lines[l].mode ≠ .density v d p n a) →
        exec (.densityClock l) s = .next s ∧ exec (.frameStart l) s = .next s)) ∧
    (∀ l v d p n a, s.lines[(l : LineId)].mode = .density v d p n a → p.toNat ≠ 65535 →
      exec (.frameStart l) s = .next s) ∧
    (∀ c h m, carried c = some (h, m) → s.fetchingRing = none → exec c s = .next s) ∧
    (s.time.dueBoundaries = [] → exec .secondBoundary s = .next s) ∧
    (∀ c v, s.capture.lines[(c : CaptureId)].edgeMode = .off → s.capture.lines[c].sampling = none →
      exec (.sample c v) s = .next s) ∧
    (∀ c v p, s.capture.lines[(c : CaptureId)].sampling = some p →
      (p.spent = true ∨ s.time.timebase.toNat < p.next.toNat) → exec (.sample c v) s = .next s) ∧
    (∀ r w d, s.intake.rings[(r : CommandRingId)].wait = some w → w.deadline = some d →
      s.time.timebase.toNat < d.toNat → exec (.deadlineExpiry r) s = .next s) ∧
    (∀ r, (s.intake.rings[(r : CommandRingId)].wait = none ∨
        ∃ w, s.intake.rings[r].wait = some w ∧ w.deadline = none) → exec (.deadlineExpiry r) s = .next s) ∧
    (∀ k, (s.notices[(k : NoticeRingId)].ready = true ∨
        (s.notices[k].ready = false ∧
          (s.notices[k].written = [] ∨ ∃ c o l, s.notices[k].config = some c ∧ s.notices[k].written = o :: l ∧
            s.notices[k].written.length < c.threshold ∧
            s.time.timebase.toNat < min (o.toNat + c.holdoff) (2 ^ 64 - 1)))) → exec (.holdoffExpiry k) s = .next s) ∧
    (∀ e p, s.fetchingRing = none → exec (.fetchEnd e p) s = .next s) ∧
    (∀ k e, s.notices[(k : NoticeRingId)].stale = none → s.notices[k].queue = [] → exec (.writeEnd k e) s = .next s) ∧
    (∀ i e, s.control.setupReads[i]? = none → exec (.setupReadEnd i e) s = .next s) ∧
    (s.resolver.work = none → exec .workEnd s = .next s) ∧
    ((s.resolver.work.isSome = true ∨ s.resolver.queue = []) → exec .take s = .next s)

/-- Every command of the table has its meaning in every state: it answers a next state, whatever waits behind it,
and leaves the queue as it is. R4, R1, R9, R18, R19, R22: at any command, a slot's generation goes up by one modulo
256 at a LOAD of that slot, which was FREE; it is 0 with the slot FREE after a command that resets the core; it is
kept in every other case. A slot then becomes FREE by an UNLOAD of it alone, becomes loaded by no command, and
changes its definition by a RETIME of it alone, and in its timing alone. The queue is log entry 1. -/
def Obligations.EveryCommandAnswersAndGenerations : Prop :=
  (∀ (c : Instr) (s : State), ∃ t, exec c s = .next t ∧ t.pending = s.pending ∧
     ∀ l : List Instr, exec c { s with pending := l } = .next { t with pending := l }) ∧
  (∀ (c : Instr) (s t : State) (i : SlotId), exec c s = .next t →
     (resetsCore c ∧ t.slots[i] = Slot.reset) ∨
     ((∃ h d, carried c = some (h, .load d) ∧ h.slot = i) ∧ s.slots[i].event = none ∧ t.slots[i].event.isSome = true ∧
       t.slots[i].generation = s.slots[i].generation + 1) ∨
     (t.slots[i].generation = s.slots[i].generation ∧
       (s.slots[i].event = none → t.slots[i].event = none) ∧
       ∀ d, s.slots[i].event = some d →
         (t.slots[i].event = none ∧ ∃ h, carried c = some (h, .unload) ∧ h.slot = i) ∨
         ∃ e, t.slots[i].event = some e ∧
           (e.defn = d.defn ∨
             ((∃ h f, carried c = some (h, .retime f) ∧ h.slot = i) ∧ e.defn = { d.defn with timing := e.defn.timing }))))

/-- The state right after power-on meets every invariant below. -/
def Obligations.ResetMeetsTheInvariants : Prop :=
  TimelineOrdered State.reset ∧ SetupSound State.reset ∧ HaltedSafe State.reset ∧ IdleOutsideRunning State.reset ∧
    SpaceLaw State.reset ∧ FetchPathServed State.reset ∧ Anchored State.reset ∧ CollectionsSound State.reset ∧
    DeferredSound State.reset ∧ Memory.wf State.reset.memory

/-- R23, R24: every step keeps the timeline in order of expiry, then of sequence, equal sequences standing together
only once the counter has stopped. The model's memory (log entry 4): every step keeps its canonical form. -/
def Obligations.StepKeepsTimelineAndMemory : Prop :=
  (∀ s t : State, TimelineOrdered s → step s = .next t → TimelineOrdered t) ∧
  (∀ s t : State, Memory.wf s.memory → step s = .next t → Memory.wf t.memory)

/-- R162, R164, R169: every step keeps one live setup read at most, in LOADING alone, and the core OFF while RESET_N
is asserted. R68, R116, R159: every step keeps every output line at its safe level, and triggers suppressed, while
the controller is HALTED. R158, R14, R70: every step keeps the rings, slots, lines and work idle while the core is
not RUNNING. -/
def Obligations.StepKeepsSafetyAndIdleness : Prop :=
  (∀ s t : State, SetupSound s → step s = .next t → SetupSound t) ∧
  (∀ s t : State, SetupSound s → HaltedSafe s → step s = .next t → HaltedSafe t) ∧
  (∀ s t : State, SetupSound s → IdleOutsideRunning s → step s = .next t → IdleOutsideRunning t)

/-- R120, with R122, R123, R140 and R145: every step keeps occupied + reserved at most the size of each notice ring,
with the reserved count the number of reservations that its command rings hold. -/
def Obligations.StepKeepsTheSpaceLaw : Prop :=
  ∀ s t : State, SpaceLaw s → step s = .next t → SpaceLaw t

/-- R143: every step keeps at most one fetch in flight, leaves no ring eligible with the fetch path free, and while
RUNNING leaves the turn over wherever its ring is not eligible: it has left ACTIVE, or has no pending command left.
That the choice is the last effect of a happening is log entry 11; the mark of a turn that is over is log entry 12.
-/
def Obligations.StepKeepsTheFetchPathServed : Prop :=
  ∀ s t : State, FetchPathServed s → step s = .next t → FetchPathServed t

/-- R71: every step keeps the anchor at or before the timebase, and its second within the calendar. R74: every step
keeps the next boundary the least boundary tick beyond the timebase, and those due between the anchor and the
timebase, each once. R72: the timebase never decreases, except that power-on and RESET_N set it to 0. How the
boundaries that are due are kept is log entry 15. -/
def Obligations.StepKeepsAnchorAndTime : Prop :=
  (∀ s t : State, Anchored s → step s = .next t → Anchored t) ∧
  (∀ (c : Instr) (s t : State), c ≠ .powerOn → c ≠ .resetNAssert → exec c s = .next t →
     s.time.timebase.toNat ≤ t.time.timebase.toNat)

/-- R5, R88, R89, R112: every step keeps each slot in the collections that its state names, once in each, and the
started count the number of CALENDAR slots that are RESOLVING or ARMED, at most 32. -/
def Obligations.StepKeepsTheCollectionsSound : Prop :=
  ∀ s t : State, CollectionsSound s → step s = .next t → CollectionsSound t

/-- R3, R103, R107, R126: every step keeps the deferred lists with each source once, and a slot's notice pending and
a line's held record exactly where they are listed. -/
def Obligations.StepKeepsTheDeferredListsSound : Prop :=
  ∀ s t : State, SetupSound s → IdleOutsideRunning s → DeferredSound s → step s = .next t → DeferredSound t
end

