-- ==== Sys2Proof/Laws/State.lean ====
section
/-! SUPPORT. Record updates: what each leaves alone, and what reads after it give. -/

namespace Sys2Proof.Machine

open Sys2Proof

/-! ### One record of a block -/

@[simp] theorem setSlot_frame (i : SlotId) (x : Slot) (s : State) :
    (setSlot i x s).control = s.control ∧ (setSlot i x s).intake = s.intake ∧ (setSlot i x s).timeline = s.timeline ∧
    (setSlot i x s).resolver = s.resolver ∧ (setSlot i x s).time = s.time ∧ (setSlot i x s).lines = s.lines ∧
    (setSlot i x s).capture = s.capture ∧ (setSlot i x s).notices = s.notices ∧ (setSlot i x s).memory = s.memory ∧
    (setSlot i x s).freeCount = s.freeCount ∧ (setSlot i x s).pending = s.pending := by
  exact ⟨rfl, rfl, rfl, rfl, rfl, rfl, rfl, rfl, rfl, rfl, rfl⟩

@[simp] theorem setLine_frame (l : LineId) (x : Line) (s : State) :
    (setLine l x s).control = s.control ∧ (setLine l x s).intake = s.intake ∧ (setLine l x s).slots = s.slots ∧
    (setLine l x s).timeline = s.timeline ∧ (setLine l x s).resolver = s.resolver ∧ (setLine l x s).time = s.time ∧
    (setLine l x s).capture = s.capture ∧ (setLine l x s).notices = s.notices ∧ (setLine l x s).memory = s.memory ∧
    (setLine l x s).freeCount = s.freeCount ∧ (setLine l x s).pending = s.pending := by
  exact ⟨rfl, rfl, rfl, rfl, rfl, rfl, rfl, rfl, rfl, rfl, rfl⟩

@[simp] theorem setCapture_frame (c : CaptureId) (x : CaptureLine) (s : State) :
    (setCapture c x s).control = s.control ∧ (setCapture c x s).intake = s.intake ∧
    (setCapture c x s).slots = s.slots ∧ (setCapture c x s).timeline = s.timeline ∧
    (setCapture c x s).resolver = s.resolver ∧ (setCapture c x s).time = s.time ∧ (setCapture c x s).lines = s.lines ∧
    (setCapture c x s).notices = s.notices ∧ (setCapture c x s).memory = s.memory ∧
    (setCapture c x s).freeCount = s.freeCount ∧ (setCapture c x s).pending = s.pending := by
  exact ⟨rfl, rfl, rfl, rfl, rfl, rfl, rfl, rfl, rfl, rfl, rfl⟩

@[simp] theorem setNotice_frame (k : NoticeRingId) (x : NoticeRing) (s : State) :
    (setNotice k x s).control = s.control ∧ (setNotice k x s).intake = s.intake ∧ (setNotice k x s).slots = s.slots ∧
    (setNotice k x s).timeline = s.timeline ∧ (setNotice k x s).resolver = s.resolver ∧
    (setNotice k x s).time = s.time ∧ (setNotice k x s).lines = s.lines ∧ (setNotice k x s).capture = s.capture ∧
    (setNotice k x s).memory = s.memory ∧ (setNotice k x s).freeCount = s.freeCount ∧
    (setNotice k x s).pending = s.pending := by
  exact ⟨rfl, rfl, rfl, rfl, rfl, rfl, rfl, rfl, rfl, rfl, rfl⟩

@[simp] theorem setRing_frame (r : CommandRingId) (x : CommandRing) (s : State) :
    (setRing r x s).control = s.control ∧ (setRing r x s).slots = s.slots ∧ (setRing r x s).timeline = s.timeline ∧
    (setRing r x s).resolver = s.resolver ∧ (setRing r x s).time = s.time ∧ (setRing r x s).lines = s.lines ∧
    (setRing r x s).capture = s.capture ∧ (setRing r x s).notices = s.notices ∧ (setRing r x s).memory = s.memory ∧
    (setRing r x s).freeCount = s.freeCount ∧ (setRing r x s).pending = s.pending := by
  exact ⟨rfl, rfl, rfl, rfl, rfl, rfl, rfl, rfl, rfl, rfl, rfl⟩

@[simp] theorem setEvent_frame (i : SlotId) (e : Event) (s : State) :
    (setEvent i e s).control = s.control ∧ (setEvent i e s).intake = s.intake ∧
    (setEvent i e s).timeline = s.timeline ∧ (setEvent i e s).resolver = s.resolver ∧ (setEvent i e s).time = s.time ∧
    (setEvent i e s).lines = s.lines ∧ (setEvent i e s).capture = s.capture ∧ (setEvent i e s).notices = s.notices ∧
    (setEvent i e s).memory = s.memory ∧ (setEvent i e s).freeCount = s.freeCount ∧
    (setEvent i e s).pending = s.pending := by
  exact ⟨rfl, rfl, rfl, rfl, rfl, rfl, rfl, rfl, rfl, rfl, rfl⟩

@[simp] theorem setNoticePending_frame (i : SlotId) (b : Bool) (s : State) :
    (setNoticePending i b s).control = s.control ∧ (setNoticePending i b s).intake = s.intake ∧
    (setNoticePending i b s).timeline = s.timeline ∧ (setNoticePending i b s).resolver = s.resolver ∧
    (setNoticePending i b s).time = s.time ∧ (setNoticePending i b s).lines = s.lines ∧
    (setNoticePending i b s).capture = s.capture ∧ (setNoticePending i b s).notices = s.notices ∧
    (setNoticePending i b s).memory = s.memory ∧ (setNoticePending i b s).freeCount = s.freeCount ∧
    (setNoticePending i b s).pending = s.pending := by
  exact ⟨rfl, rfl, rfl, rfl, rfl, rfl, rfl, rfl, rfl, rfl, rfl⟩

@[simp] theorem passTurn_frame (r : CommandRingId) (s : State) :
    (passTurn r s).control = s.control ∧ (passTurn r s).slots = s.slots ∧ (passTurn r s).timeline = s.timeline ∧
    (passTurn r s).resolver = s.resolver ∧ (passTurn r s).time = s.time ∧ (passTurn r s).lines = s.lines ∧
    (passTurn r s).capture = s.capture ∧ (passTurn r s).notices = s.notices ∧ (passTurn r s).memory = s.memory ∧
    (passTurn r s).freeCount = s.freeCount ∧ (passTurn r s).pending = s.pending := by
  exact ⟨rfl, rfl, rfl, rfl, rfl, rfl, rfl, rfl, rfl, rfl, rfl⟩

@[simp] theorem endTurn_frame (s : State) :
    (endTurn  s).control = s.control ∧ (endTurn  s).slots = s.slots ∧ (endTurn  s).timeline = s.timeline ∧
    (endTurn  s).resolver = s.resolver ∧ (endTurn  s).time = s.time ∧ (endTurn  s).lines = s.lines ∧
    (endTurn  s).capture = s.capture ∧ (endTurn  s).notices = s.notices ∧ (endTurn  s).memory = s.memory ∧
    (endTurn  s).freeCount = s.freeCount ∧ (endTurn  s).pending = s.pending := by
  exact ⟨rfl, rfl, rfl, rfl, rfl, rfl, rfl, rfl, rfl, rfl, rfl⟩

@[simp] theorem removeEntry_frame (i : SlotId) (s : State) :
    (removeEntry i s).control = s.control ∧ (removeEntry i s).intake = s.intake ∧ (removeEntry i s).slots = s.slots ∧
    (removeEntry i s).resolver = s.resolver ∧ (removeEntry i s).time = s.time ∧ (removeEntry i s).lines = s.lines ∧
    (removeEntry i s).capture = s.capture ∧ (removeEntry i s).notices = s.notices ∧
    (removeEntry i s).memory = s.memory ∧ (removeEntry i s).freeCount = s.freeCount ∧
    (removeEntry i s).pending = s.pending := by
  exact ⟨rfl, rfl, rfl, rfl, rfl, rfl, rfl, rfl, rfl, rfl, rfl⟩

@[simp] theorem leaveWaiting_frame (c : CaptureId) (i : SlotId) (s : State) :
    (leaveWaiting c i s).control = s.control ∧ (leaveWaiting c i s).intake = s.intake ∧
    (leaveWaiting c i s).slots = s.slots ∧ (leaveWaiting c i s).timeline = s.timeline ∧
    (leaveWaiting c i s).resolver = s.resolver ∧ (leaveWaiting c i s).time = s.time ∧
    (leaveWaiting c i s).lines = s.lines ∧ (leaveWaiting c i s).notices = s.notices ∧
    (leaveWaiting c i s).memory = s.memory ∧ (leaveWaiting c i s).freeCount = s.freeCount ∧
    (leaveWaiting c i s).pending = s.pending := by
  exact ⟨rfl, rfl, rfl, rfl, rfl, rfl, rfl, rfl, rfl, rfl, rfl⟩

@[simp] theorem joinWaiting_frame (c : CaptureId) (i : SlotId) (s : State) :
    (joinWaiting c i s).control = s.control ∧ (joinWaiting c i s).intake = s.intake ∧
    (joinWaiting c i s).slots = s.slots ∧ (joinWaiting c i s).timeline = s.timeline ∧
    (joinWaiting c i s).resolver = s.resolver ∧ (joinWaiting c i s).time = s.time ∧
    (joinWaiting c i s).lines = s.lines ∧ (joinWaiting c i s).notices = s.notices ∧
    (joinWaiting c i s).memory = s.memory ∧ (joinWaiting c i s).freeCount = s.freeCount ∧
    (joinWaiting c i s).pending = s.pending := by
  exact ⟨rfl, rfl, rfl, rfl, rfl, rfl, rfl, rfl, rfl, rfl, rfl⟩

@[simp] theorem postNotice_frame (k : NoticeRingId) (n : Notice) (s : State) :
    (postNotice k n s).control = s.control ∧ (postNotice k n s).intake = s.intake ∧
    (postNotice k n s).slots = s.slots ∧ (postNotice k n s).timeline = s.timeline ∧
    (postNotice k n s).resolver = s.resolver ∧ (postNotice k n s).time = s.time ∧ (postNotice k n s).lines = s.lines ∧
    (postNotice k n s).capture = s.capture ∧ (postNotice k n s).memory = s.memory ∧
    (postNotice k n s).freeCount = s.freeCount ∧ (postNotice k n s).pending = s.pending := by
  exact ⟨rfl, rfl, rfl, rfl, rfl, rfl, rfl, rfl, rfl, rfl, rfl⟩

@[simp] theorem evalReady_frame (k : NoticeRingId) (s : State) :
    (evalReady k s).control = s.control ∧ (evalReady k s).intake = s.intake ∧ (evalReady k s).slots = s.slots ∧
    (evalReady k s).timeline = s.timeline ∧ (evalReady k s).resolver = s.resolver ∧ (evalReady k s).time = s.time ∧
    (evalReady k s).lines = s.lines ∧ (evalReady k s).capture = s.capture ∧ (evalReady k s).memory = s.memory ∧
    (evalReady k s).freeCount = s.freeCount ∧ (evalReady k s).pending = s.pending := by
  exact ⟨rfl, rfl, rfl, rfl, rfl, rfl, rfl, rfl, rfl, rfl, rfl⟩

@[simp] theorem dropStarted_frame (s : State) :
    (dropStarted  s).control = s.control ∧ (dropStarted  s).intake = s.intake ∧ (dropStarted  s).slots = s.slots ∧
    (dropStarted  s).timeline = s.timeline ∧ (dropStarted  s).time = s.time ∧ (dropStarted  s).lines = s.lines ∧
    (dropStarted  s).capture = s.capture ∧ (dropStarted  s).notices = s.notices ∧ (dropStarted  s).memory = s.memory ∧
    (dropStarted  s).freeCount = s.freeCount ∧ (dropStarted  s).pending = s.pending := by
  exact ⟨rfl, rfl, rfl, rfl, rfl, rfl, rfl, rfl, rfl, rfl, rfl⟩

@[simp] theorem pushItem_frame (i : SlotId) (m : Bool) (s : State) :
    (pushItem i m s).control = s.control ∧ (pushItem i m s).intake = s.intake ∧ (pushItem i m s).slots = s.slots ∧
    (pushItem i m s).timeline = s.timeline ∧ (pushItem i m s).time = s.time ∧ (pushItem i m s).lines = s.lines ∧
    (pushItem i m s).capture = s.capture ∧ (pushItem i m s).notices = s.notices ∧ (pushItem i m s).memory = s.memory ∧
    (pushItem i m s).freeCount = s.freeCount ∧ (pushItem i m s).pending = s.pending := by
  exact ⟨rfl, rfl, rfl, rfl, rfl, rfl, rfl, rfl, rfl, rfl, rfl⟩

@[simp] theorem beginFetch_frame (r : CommandRingId) (s : State) :
    (beginFetch r s).control = s.control ∧ (beginFetch r s).slots = s.slots ∧ (beginFetch r s).timeline = s.timeline ∧
    (beginFetch r s).resolver = s.resolver ∧ (beginFetch r s).time = s.time ∧ (beginFetch r s).lines = s.lines ∧
    (beginFetch r s).capture = s.capture ∧ (beginFetch r s).notices = s.notices ∧ (beginFetch r s).memory = s.memory ∧
    (beginFetch r s).freeCount = s.freeCount ∧ (beginFetch r s).pending = s.pending := by
  exact ⟨rfl, rfl, rfl, rfl, rfl, rfl, rfl, rfl, rfl, rfl, rfl⟩

@[simp] theorem setFault_frame (s : State) :
    (setFault  s).intake = s.intake ∧ (setFault  s).slots = s.slots ∧ (setFault  s).timeline = s.timeline ∧
    (setFault  s).resolver = s.resolver ∧ (setFault  s).time = s.time ∧ (setFault  s).lines = s.lines ∧
    (setFault  s).capture = s.capture ∧ (setFault  s).notices = s.notices ∧ (setFault  s).memory = s.memory ∧
    (setFault  s).freeCount = s.freeCount ∧ (setFault  s).pending = s.pending := by
  exact ⟨rfl, rfl, rfl, rfl, rfl, rfl, rfl, rfl, rfl, rfl, rfl⟩

@[simp] theorem setAnchor_frame (c : Nat) (s : State) :
    (setAnchor c s).control = s.control ∧ (setAnchor c s).intake = s.intake ∧ (setAnchor c s).slots = s.slots ∧
    (setAnchor c s).timeline = s.timeline ∧ (setAnchor c s).resolver = s.resolver ∧ (setAnchor c s).lines = s.lines ∧
    (setAnchor c s).capture = s.capture ∧ (setAnchor c s).notices = s.notices ∧ (setAnchor c s).memory = s.memory ∧
    (setAnchor c s).freeCount = s.freeCount ∧ (setAnchor c s).pending = s.pending := by
  exact ⟨rfl, rfl, rfl, rfl, rfl, rfl, rfl, rfl, rfl, rfl, rfl⟩

@[simp] theorem dropHead_frame (s : State) :
    (dropHead  s).control = s.control ∧ (dropHead  s).intake = s.intake ∧ (dropHead  s).slots = s.slots ∧
    (dropHead  s).resolver = s.resolver ∧ (dropHead  s).time = s.time ∧ (dropHead  s).lines = s.lines ∧
    (dropHead  s).capture = s.capture ∧ (dropHead  s).notices = s.notices ∧ (dropHead  s).memory = s.memory ∧
    (dropHead  s).freeCount = s.freeCount ∧ (dropHead  s).pending = s.pending := by
  exact ⟨rfl, rfl, rfl, rfl, rfl, rfl, rfl, rfl, rfl, rfl, rfl⟩

@[simp] theorem markOverdue_frame (s : State) :
    (markOverdue  s).control = s.control ∧ (markOverdue  s).intake = s.intake ∧ (markOverdue  s).slots = s.slots ∧
    (markOverdue  s).resolver = s.resolver ∧ (markOverdue  s).time = s.time ∧ (markOverdue  s).lines = s.lines ∧
    (markOverdue  s).capture = s.capture ∧ (markOverdue  s).notices = s.notices ∧ (markOverdue  s).memory = s.memory ∧
    (markOverdue  s).freeCount = s.freeCount ∧ (markOverdue  s).pending = s.pending := by
  exact ⟨rfl, rfl, rfl, rfl, rfl, rfl, rfl, rfl, rfl, rfl, rfl⟩

@[simp] theorem haltLines_frame (s : State) :
    (haltLines  s).control = s.control ∧ (haltLines  s).intake = s.intake ∧ (haltLines  s).slots = s.slots ∧
    (haltLines  s).timeline = s.timeline ∧ (haltLines  s).resolver = s.resolver ∧ (haltLines  s).time = s.time ∧
    (haltLines  s).capture = s.capture ∧ (haltLines  s).notices = s.notices ∧ (haltLines  s).memory = s.memory ∧
    (haltLines  s).freeCount = s.freeCount ∧ (haltLines  s).pending = s.pending := by
  exact ⟨rfl, rfl, rfl, rfl, rfl, rfl, rfl, rfl, rfl, rfl, rfl⟩

@[simp] theorem clearCauses_frame (s : State) :
    (clearCauses  s).intake = s.intake ∧ (clearCauses  s).slots = s.slots ∧ (clearCauses  s).timeline = s.timeline ∧
    (clearCauses  s).resolver = s.resolver ∧ (clearCauses  s).time = s.time ∧ (clearCauses  s).lines = s.lines ∧
    (clearCauses  s).capture = s.capture ∧ (clearCauses  s).notices = s.notices ∧ (clearCauses  s).memory = s.memory ∧
    (clearCauses  s).freeCount = s.freeCount ∧ (clearCauses  s).pending = s.pending := by
  exact ⟨rfl, rfl, rfl, rfl, rfl, rfl, rfl, rfl, rfl, rfl, rfl⟩

@[simp] theorem takeBack_frame (s : State) :
    (takeBack  s).control = s.control ∧ (takeBack  s).intake = s.intake ∧ (takeBack  s).time = s.time ∧
    (takeBack  s).lines = s.lines ∧ (takeBack  s).capture = s.capture ∧ (takeBack  s).notices = s.notices ∧
    (takeBack  s).memory = s.memory ∧ (takeBack  s).freeCount = s.freeCount ∧ (takeBack  s).pending = s.pending := by
  exact ⟨rfl, rfl, rfl, rfl, rfl, rfl, rfl, rfl, rfl⟩

@[simp] theorem configure_frame (c : SetupConfig) (s : State) :
    (configure c s).slots = s.slots ∧ (configure c s).resolver = s.resolver ∧ (configure c s).time = s.time ∧
    (configure c s).lines = s.lines ∧ (configure c s).capture = s.capture ∧ (configure c s).memory = s.memory ∧
    (configure c s).freeCount = s.freeCount ∧ (configure c s).pending = s.pending := by
  exact ⟨rfl, rfl, rfl, rfl, rfl, rfl, rfl, rfl⟩

@[simp] theorem controlReset_frame (s : State) :
    (controlReset  s).memory = s.memory ∧ (controlReset  s).freeCount = s.freeCount ∧
    (controlReset  s).pending = s.pending := by
  exact ⟨rfl, rfl, rfl⟩

@[simp] theorem addOwed_frame (r : CommandRingId) (o : Owed) (s : State) :
    (addOwed r o s).control = s.control ∧ (addOwed r o s).slots = s.slots ∧ (addOwed r o s).timeline = s.timeline ∧
    (addOwed r o s).resolver = s.resolver ∧ (addOwed r o s).time = s.time ∧ (addOwed r o s).lines = s.lines ∧
    (addOwed r o s).capture = s.capture ∧ (addOwed r o s).notices = s.notices ∧ (addOwed r o s).memory = s.memory ∧
    (addOwed r o s).freeCount = s.freeCount ∧ (addOwed r o s).pending = s.pending := by
  exact ⟨rfl, rfl, rfl, rfl, rfl, rfl, rfl, rfl, rfl, rfl, rfl⟩

@[simp] theorem dropFetch_frame (r : CommandRingId) (s : State) :
    (dropFetch r s).control = s.control ∧ (dropFetch r s).slots = s.slots ∧ (dropFetch r s).timeline = s.timeline ∧
    (dropFetch r s).resolver = s.resolver ∧ (dropFetch r s).time = s.time ∧ (dropFetch r s).lines = s.lines ∧
    (dropFetch r s).capture = s.capture ∧ (dropFetch r s).notices = s.notices ∧ (dropFetch r s).memory = s.memory ∧
    (dropFetch r s).freeCount = s.freeCount ∧ (dropFetch r s).pending = s.pending := by
  exact ⟨rfl, rfl, rfl, rfl, rfl, rfl, rfl, rfl, rfl, rfl, rfl⟩

@[simp] theorem faultBound_frame (k : NoticeRingId) (s : State) :
    (faultBound k s).control = s.control ∧ (faultBound k s).slots = s.slots ∧ (faultBound k s).timeline = s.timeline ∧
    (faultBound k s).resolver = s.resolver ∧ (faultBound k s).time = s.time ∧ (faultBound k s).lines = s.lines ∧
    (faultBound k s).capture = s.capture ∧ (faultBound k s).notices = s.notices ∧ (faultBound k s).memory = s.memory ∧
    (faultBound k s).freeCount = s.freeCount ∧ (faultBound k s).pending = s.pending := by
  exact ⟨rfl, rfl, rfl, rfl, rfl, rfl, rfl, rfl, rfl, rfl, rfl⟩

@[simp] theorem setRun_frame (i : SlotId) (r : Run) (s : State) :
    (setRun i r s).control = s.control ∧ (setRun i r s).intake = s.intake ∧ (setRun i r s).timeline = s.timeline ∧
    (setRun i r s).resolver = s.resolver ∧ (setRun i r s).time = s.time ∧ (setRun i r s).lines = s.lines ∧
    (setRun i r s).capture = s.capture ∧ (setRun i r s).notices = s.notices ∧ (setRun i r s).memory = s.memory ∧
    (setRun i r s).freeCount = s.freeCount ∧ (setRun i r s).pending = s.pending := by
  unfold setRun
  split <;> simp

@[simp] theorem arm_frame (i : SlotId) (x : Tick) (s : State) :
    (arm i x s).control = s.control ∧ (arm i x s).intake = s.intake ∧
    (arm i x s).resolver = s.resolver ∧ (arm i x s).time = s.time ∧ (arm i x s).lines = s.lines ∧
    (arm i x s).capture = s.capture ∧ (arm i x s).notices = s.notices ∧ (arm i x s).memory = s.memory ∧
    (arm i x s).freeCount = s.freeCount ∧ (arm i x s).pending = s.pending := by
  simp [arm]

/-! ### Reading a record after writing one -/

@[simp] theorem setSlot_get (i j : SlotId) (x : Slot) (s : State) :
    (setSlot i x s).slots[j] = if j = i then x else s.slots[j] := by
  simp [setSlot, Vector.getElem_set, Fin.ext_iff, eq_comm]

@[simp] theorem setSlot_val (i j : SlotId) (x : Slot) (s : State) :
    (setSlot i x s).slots[j.val] = if j = i then x else s.slots[j.val] := by
  simp [setSlot, Vector.getElem_set, Fin.ext_iff, eq_comm]

@[simp] theorem setLine_get (i j : LineId) (x : Line) (s : State) :
    (setLine i x s).lines[j] = if j = i then x else s.lines[j] := by
  simp [setLine, Vector.getElem_set, Fin.ext_iff, eq_comm]

@[simp] theorem setLine_val (i j : LineId) (x : Line) (s : State) :
    (setLine i x s).lines[j.val] = if j = i then x else s.lines[j.val] := by
  simp [setLine, Vector.getElem_set, Fin.ext_iff, eq_comm]

@[simp] theorem setCapture_get (i j : CaptureId) (x : CaptureLine) (s : State) :
    (setCapture i x s).capture.lines[j] = if j = i then x else s.capture.lines[j] := by
  simp [setCapture, Vector.getElem_set, Fin.ext_iff, eq_comm]

@[simp] theorem setCapture_val (i j : CaptureId) (x : CaptureLine) (s : State) :
    (setCapture i x s).capture.lines[j.val] = if j = i then x else s.capture.lines[j.val] := by
  simp [setCapture, Vector.getElem_set, Fin.ext_iff, eq_comm]

@[simp] theorem setNotice_get (i j : NoticeRingId) (x : NoticeRing) (s : State) :
    (setNotice i x s).notices[j] = if j = i then x else s.notices[j] := by
  simp [setNotice, Vector.getElem_set, Fin.ext_iff, eq_comm]

@[simp] theorem setNotice_val (i j : NoticeRingId) (x : NoticeRing) (s : State) :
    (setNotice i x s).notices[j.val] = if j = i then x else s.notices[j.val] := by
  simp [setNotice, Vector.getElem_set, Fin.ext_iff, eq_comm]

@[simp] theorem setRing_get (i j : CommandRingId) (x : CommandRing) (s : State) :
    (setRing i x s).intake.rings[j] = if j = i then x else s.intake.rings[j] := by
  simp [setRing, Vector.getElem_set, Fin.ext_iff, eq_comm]

@[simp] theorem setRing_val (i j : CommandRingId) (x : CommandRing) (s : State) :
    (setRing i x s).intake.rings[j.val] = if j = i then x else s.intake.rings[j.val] := by
  simp [setRing, Vector.getElem_set, Fin.ext_iff, eq_comm]

@[simp] theorem setRing_turn (r : CommandRingId) (x : CommandRing) (s : State) :
    (setRing r x s).intake.turn = s.intake.turn ∧ (setRing r x s).intake.count = s.intake.count ∧
    (setRing r x s).intake.turnOver = s.intake.turnOver := ⟨rfl, rfl, rfl⟩

@[simp] theorem setCapture_suppressed (c : CaptureId) (x : CaptureLine) (s : State) :
    (setCapture c x s).capture.suppressed = s.capture.suppressed := rfl

@[simp] theorem passTurn_rings (r : CommandRingId) (s : State) : (passTurn r s).intake.rings = s.intake.rings := rfl

@[simp] theorem endTurn_rings (s : State) : (endTurn s).intake.rings = s.intake.rings := rfl

end Sys2Proof.Machine
end

