-- ==== Sys2Proof/Laws/Frames.lean ====
section
/-! SUPPORT. For each shared operation, the blocks it leaves alone. -/

namespace Sys2Proof.Machine

open Sys2Proof

/-! ### Notices -/

@[simp] theorem offerFiring_frame (k : NoticeRingId) (i : SlotId) (p : FiringReport) (s : State) :
    (offerFiring k i p s).control = s.control ∧ (offerFiring k i p s).intake = s.intake ∧
    (offerFiring k i p s).timeline = s.timeline ∧ (offerFiring k i p s).resolver = s.resolver ∧
    (offerFiring k i p s).time = s.time ∧ (offerFiring k i p s).lines = s.lines ∧
    (offerFiring k i p s).capture = s.capture ∧ (offerFiring k i p s).memory = s.memory ∧
    (offerFiring k i p s).freeCount = s.freeCount ∧ (offerFiring k i p s).pending = s.pending := by
  unfold offerFiring
  split <;> simp

@[simp] theorem offerEdge_frame (c : CaptureId) (v : Level) (t : Tick) (s : State) :
    (offerEdge c v t s).control = s.control ∧ (offerEdge c v t s).intake = s.intake ∧
    (offerEdge c v t s).slots = s.slots ∧ (offerEdge c v t s).timeline = s.timeline ∧
    (offerEdge c v t s).resolver = s.resolver ∧ (offerEdge c v t s).time = s.time ∧
    (offerEdge c v t s).lines = s.lines ∧ (offerEdge c v t s).memory = s.memory ∧
    (offerEdge c v t s).freeCount = s.freeCount ∧ (offerEdge c v t s).pending = s.pending := by
  unfold offerEdge
  simp only []
  split <;> simp

@[simp] theorem offerSystem_frame (b : SystemBody) (s : State) :
    (offerSystem b s).control = s.control ∧ (offerSystem b s).intake = s.intake ∧ (offerSystem b s).slots = s.slots ∧
    (offerSystem b s).timeline = s.timeline ∧ (offerSystem b s).resolver = s.resolver ∧
    (offerSystem b s).time = s.time ∧ (offerSystem b s).lines = s.lines ∧ (offerSystem b s).capture = s.capture ∧
    (offerSystem b s).memory = s.memory ∧ (offerSystem b s).freeCount = s.freeCount ∧
    (offerSystem b s).pending = s.pending := by
  unfold offerSystem
  simp only []
  split
  · split <;> simp
  · simp

@[simp] theorem postDeferred_frame (k : NoticeRingId) (d : Deferred) (s : State) :
    (postDeferred k d s).control = s.control ∧ (postDeferred k d s).intake = s.intake ∧
    (postDeferred k d s).timeline = s.timeline ∧ (postDeferred k d s).resolver = s.resolver ∧
    (postDeferred k d s).time = s.time ∧ (postDeferred k d s).lines = s.lines ∧
    (postDeferred k d s).memory = s.memory ∧ (postDeferred k d s).freeCount = s.freeCount ∧
    (postDeferred k d s).pending = s.pending := by
  unfold postDeferred
  split
  · simp
  · split <;> simp
  · simp

@[simp] theorem serveDeferred_frame (k : NoticeRingId) (n : Nat) (s : State) :
    (serveDeferred k n s).control = s.control ∧ (serveDeferred k n s).intake = s.intake ∧
    (serveDeferred k n s).timeline = s.timeline ∧ (serveDeferred k n s).resolver = s.resolver ∧
    (serveDeferred k n s).time = s.time ∧ (serveDeferred k n s).lines = s.lines ∧
    (serveDeferred k n s).memory = s.memory ∧ (serveDeferred k n s).freeCount = s.freeCount ∧
    (serveDeferred k n s).pending = s.pending := by
  induction n generalizing s with
  | zero => simp [serveDeferred]
  | succ n ih =>
    unfold serveDeferred
    split
    · simp
    · split
      · simp [ih]
      · simp

@[simp] theorem grantRequest_frame (k : NoticeRingId) (r : CommandRingId) (l : List CommandRingId) (s : State) :
    (grantRequest k r l s).control = s.control ∧ (grantRequest k r l s).slots = s.slots ∧
    (grantRequest k r l s).timeline = s.timeline ∧ (grantRequest k r l s).resolver = s.resolver ∧
    (grantRequest k r l s).time = s.time ∧ (grantRequest k r l s).lines = s.lines ∧
    (grantRequest k r l s).capture = s.capture ∧ (grantRequest k r l s).memory = s.memory ∧
    (grantRequest k r l s).freeCount = s.freeCount ∧ (grantRequest k r l s).pending = s.pending := by
  simp [grantRequest]

@[simp] theorem serveRequests_frame (k : NoticeRingId) (n : Nat) (s : State) :
    (serveRequests k n s).control = s.control ∧ (serveRequests k n s).slots = s.slots ∧
    (serveRequests k n s).timeline = s.timeline ∧ (serveRequests k n s).resolver = s.resolver ∧
    (serveRequests k n s).time = s.time ∧ (serveRequests k n s).lines = s.lines ∧
    (serveRequests k n s).capture = s.capture ∧ (serveRequests k n s).memory = s.memory ∧
    (serveRequests k n s).freeCount = s.freeCount ∧ (serveRequests k n s).pending = s.pending := by
  induction n generalizing s with
  | zero => simp [serveRequests]
  | succ n ih =>
    unfold serveRequests
    split
    · simp
    · split
      · simp [ih]
      · simp

@[simp] theorem serve_frame (k : NoticeRingId) (s : State) :
    (serve k s).control = s.control ∧ (serve k s).timeline = s.timeline ∧ (serve k s).resolver = s.resolver ∧
    (serve k s).time = s.time ∧ (serve k s).lines = s.lines ∧ (serve k s).memory = s.memory ∧
    (serve k s).freeCount = s.freeCount ∧ (serve k s).pending = s.pending := by
  simp [serve]

@[simp] theorem returnReservations_frame (k : NoticeRingId) (n : Nat) (s : State) :
    (returnReservations k n s).control = s.control ∧ (returnReservations k n s).timeline = s.timeline ∧
    (returnReservations k n s).resolver = s.resolver ∧ (returnReservations k n s).time = s.time ∧
    (returnReservations k n s).lines = s.lines ∧ (returnReservations k n s).memory = s.memory ∧
    (returnReservations k n s).freeCount = s.freeCount ∧ (returnReservations k n s).pending = s.pending := by
  simp [returnReservations]

/-! ### Completions -/

@[simp] theorem useReservation_frame (k : NoticeRingId) (n : Notice) (s : State) :
    (useReservation k n s).control = s.control ∧ (useReservation k n s).intake = s.intake ∧
    (useReservation k n s).slots = s.slots ∧ (useReservation k n s).timeline = s.timeline ∧
    (useReservation k n s).resolver = s.resolver ∧ (useReservation k n s).time = s.time ∧
    (useReservation k n s).lines = s.lines ∧ (useReservation k n s).capture = s.capture ∧
    (useReservation k n s).memory = s.memory ∧ (useReservation k n s).freeCount = s.freeCount ∧
    (useReservation k n s).pending = s.pending := by
  unfold useReservation
  simp only []
  split <;> simp

@[simp] theorem handCompletion_frame (r : CommandRingId) (d : BitVec 16) (n : Nat) (st : Status) (q : Result) (s : State) :
    (handCompletion r d n st q s).control = s.control ∧ (handCompletion r d n st q s).intake = s.intake ∧
    (handCompletion r d n st q s).slots = s.slots ∧ (handCompletion r d n st q s).timeline = s.timeline ∧
    (handCompletion r d n st q s).resolver = s.resolver ∧ (handCompletion r d n st q s).time = s.time ∧
    (handCompletion r d n st q s).lines = s.lines ∧ (handCompletion r d n st q s).capture = s.capture ∧
    (handCompletion r d n st q s).memory = s.memory ∧ (handCompletion r d n st q s).freeCount = s.freeCount ∧
    (handCompletion r d n st q s).pending = s.pending := by
  unfold handCompletion
  split <;> simp

@[simp] theorem completeOwed_frame (r : CommandRingId) (o : Owed) (st : Status) (q : Result) (s : State) :
    (completeOwed r o st q s).control = s.control ∧ (completeOwed r o st q s).slots = s.slots ∧
    (completeOwed r o st q s).timeline = s.timeline ∧ (completeOwed r o st q s).resolver = s.resolver ∧
    (completeOwed r o st q s).time = s.time ∧ (completeOwed r o st q s).lines = s.lines ∧
    (completeOwed r o st q s).capture = s.capture ∧ (completeOwed r o st q s).memory = s.memory ∧
    (completeOwed r o st q s).freeCount = s.freeCount ∧ (completeOwed r o st q s).pending = s.pending := by
  unfold completeOwed
  split <;> simp

@[simp] theorem endWait_frame (r : CommandRingId) (w : WaitInFlight) (st : Status) (s : State) :
    (endWait r w st s).control = s.control ∧ (endWait r w st s).slots = s.slots ∧
    (endWait r w st s).timeline = s.timeline ∧ (endWait r w st s).resolver = s.resolver ∧
    (endWait r w st s).time = s.time ∧ (endWait r w st s).lines = s.lines ∧ (endWait r w st s).capture = s.capture ∧
    (endWait r w st s).memory = s.memory ∧ (endWait r w st s).freeCount = s.freeCount ∧
    (endWait r w st s).pending = s.pending := by
  simp [endWait]

@[simp] theorem endWaitOn_frame (i : SlotId) (r : CommandRingId) (s : State) :
    (endWaitOn i s r).control = s.control ∧ (endWaitOn i s r).slots = s.slots ∧ (endWaitOn i s r).timeline = s.timeline ∧
    (endWaitOn i s r).resolver = s.resolver ∧ (endWaitOn i s r).time = s.time ∧ (endWaitOn i s r).lines = s.lines ∧
    (endWaitOn i s r).capture = s.capture ∧ (endWaitOn i s r).memory = s.memory ∧ (endWaitOn i s r).freeCount = s.freeCount ∧
    (endWaitOn i s r).pending = s.pending := by
  unfold endWaitOn
  split
  · split <;> simp
  · simp

@[simp] theorem reportDormant_frame (i : SlotId) (s : State) :
    (reportDormant i s).control = s.control ∧ (reportDormant i s).slots = s.slots ∧
    (reportDormant i s).timeline = s.timeline ∧ (reportDormant i s).resolver = s.resolver ∧
    (reportDormant i s).time = s.time ∧ (reportDormant i s).lines = s.lines ∧
    (reportDormant i s).capture = s.capture ∧ (reportDormant i s).memory = s.memory ∧
    (reportDormant i s).freeCount = s.freeCount ∧ (reportDormant i s).pending = s.pending := by
  simp [reportDormant]

@[simp] theorem enterDormant_frame (i : SlotId) (s : State) :
    (enterDormant i s).control = s.control ∧ (enterDormant i s).timeline = s.timeline ∧
    (enterDormant i s).resolver = s.resolver ∧ (enterDormant i s).time = s.time ∧ (enterDormant i s).lines = s.lines ∧
    (enterDormant i s).capture = s.capture ∧ (enterDormant i s).memory = s.memory ∧
    (enterDormant i s).freeCount = s.freeCount ∧ (enterDormant i s).pending = s.pending := by
  simp [enterDormant]

/-! ### The arbiter -/

@[simp] theorem noteTurn_frame (s : State) :
    (noteTurn  s).control = s.control ∧ (noteTurn  s).slots = s.slots ∧ (noteTurn  s).timeline = s.timeline ∧
    (noteTurn  s).resolver = s.resolver ∧ (noteTurn  s).time = s.time ∧ (noteTurn  s).lines = s.lines ∧
    (noteTurn  s).capture = s.capture ∧ (noteTurn  s).notices = s.notices ∧ (noteTurn  s).memory = s.memory ∧
    (noteTurn  s).freeCount = s.freeCount ∧ (noteTurn  s).pending = s.pending := by
  unfold noteTurn
  split <;> simp

@[simp] theorem fetchWithGrant_frame (k : NoticeRingId) (r : CommandRingId) (s : State) :
    (fetchWithGrant k r s).control = s.control ∧ (fetchWithGrant k r s).slots = s.slots ∧
    (fetchWithGrant k r s).timeline = s.timeline ∧ (fetchWithGrant k r s).resolver = s.resolver ∧
    (fetchWithGrant k r s).time = s.time ∧ (fetchWithGrant k r s).lines = s.lines ∧
    (fetchWithGrant k r s).capture = s.capture ∧ (fetchWithGrant k r s).memory = s.memory ∧
    (fetchWithGrant k r s).freeCount = s.freeCount ∧ (fetchWithGrant k r s).pending = s.pending := by
  simp [fetchWithGrant]

@[simp] theorem stallOnRequest_frame (k : NoticeRingId) (r : CommandRingId) (s : State) :
    (stallOnRequest k r s).control = s.control ∧ (stallOnRequest k r s).slots = s.slots ∧
    (stallOnRequest k r s).timeline = s.timeline ∧ (stallOnRequest k r s).resolver = s.resolver ∧
    (stallOnRequest k r s).time = s.time ∧ (stallOnRequest k r s).lines = s.lines ∧
    (stallOnRequest k r s).capture = s.capture ∧ (stallOnRequest k r s).memory = s.memory ∧
    (stallOnRequest k r s).freeCount = s.freeCount ∧ (stallOnRequest k r s).pending = s.pending := by
  simp [stallOnRequest]

/-- The choice is an eligible ring, and changes no more than the turn. -/
theorem choice_cases {s t : State} {r : CommandRingId} (h : choice s = some (r, t)) :
    (t = s ∨ t = passTurn r s) ∧ s.intake.rings[r].eligible = true := by
  unfold choice at h
  split at h
  · rename_i hg
    cases h
    simp only [turnGoesOn, Bool.and_eq_true] at hg
    exact ⟨.inl rfl, hg.1.1⟩
  · obtain ⟨q, hq, h⟩ := Option.map_eq_some_iff.mp h
    cases h
    exact ⟨.inr rfl, by unfold nextEligible at hq; simpa using List.find?_some hq⟩

@[simp] theorem arbitrate_frame (n : Nat) (s : State) :
    (arbitrate n s).control = s.control ∧ (arbitrate n s).slots = s.slots ∧ (arbitrate n s).timeline = s.timeline ∧
    (arbitrate n s).resolver = s.resolver ∧ (arbitrate n s).time = s.time ∧ (arbitrate n s).lines = s.lines ∧
    (arbitrate n s).capture = s.capture ∧ (arbitrate n s).memory = s.memory ∧
    (arbitrate n s).freeCount = s.freeCount ∧ (arbitrate n s).pending = s.pending := by
  induction n generalizing s with
  | zero => simp [arbitrate]
  | succ n ih =>
    unfold arbitrate
    split
    · simp
    · split
      · simp
      · rename_i r t h
        obtain ⟨rfl | rfl, -⟩ := choice_cases h
        all_goals
          split
          · simp
          · split
            · simp
            · split <;> simp [ih]

@[simp] theorem settle_frame (s : State) :
    (settle  s).control = s.control ∧ (settle  s).slots = s.slots ∧ (settle  s).timeline = s.timeline ∧
    (settle  s).resolver = s.resolver ∧ (settle  s).time = s.time ∧ (settle  s).lines = s.lines ∧
    (settle  s).capture = s.capture ∧ (settle  s).memory = s.memory ∧ (settle  s).freeCount = s.freeCount ∧
    (settle  s).pending = s.pending := by
  simp [settle]

/-! ### The resolver and the time unit -/

@[simp] theorem endPass_frame (p : Pass) (st : Status) (s : State) :
    (endPass p st s).control = s.control ∧ (endPass p st s).slots = s.slots ∧ (endPass p st s).timeline = s.timeline ∧
    (endPass p st s).time = s.time ∧ (endPass p st s).lines = s.lines ∧ (endPass p st s).capture = s.capture ∧
    (endPass p st s).memory = s.memory ∧ (endPass p st s).freeCount = s.freeCount ∧
    (endPass p st s).pending = s.pending := by
  simp [endPass]

@[simp] theorem notePass_frame (p : Pass) (s : State) :
    (notePass p s).control = s.control ∧ (notePass p s).slots = s.slots ∧ (notePass p s).timeline = s.timeline ∧
    (notePass p s).time = s.time ∧ (notePass p s).lines = s.lines ∧ (notePass p s).capture = s.capture ∧
    (notePass p s).memory = s.memory ∧ (notePass p s).freeCount = s.freeCount ∧
    (notePass p s).pending = s.pending := by
  unfold notePass
  split <;> simp

@[simp] theorem countPass_frame (m : Bool) (f : Pass → Pass) (s : State) :
    (countPass m f s).control = s.control ∧ (countPass m f s).slots = s.slots ∧
    (countPass m f s).timeline = s.timeline ∧ (countPass m f s).time = s.time ∧ (countPass m f s).lines = s.lines ∧
    (countPass m f s).capture = s.capture ∧ (countPass m f s).memory = s.memory ∧
    (countPass m f s).freeCount = s.freeCount ∧ (countPass m f s).pending = s.pending := by
  unfold countPass
  split
  · split <;> simp
  · simp

@[simp] theorem dropItem_frame (i : SlotId) (s : State) :
    (dropItem i s).control = s.control ∧ (dropItem i s).slots = s.slots ∧ (dropItem i s).timeline = s.timeline ∧
    (dropItem i s).time = s.time ∧ (dropItem i s).lines = s.lines ∧ (dropItem i s).capture = s.capture ∧
    (dropItem i s).memory = s.memory ∧ (dropItem i s).freeCount = s.freeCount ∧
    (dropItem i s).pending = s.pending := by
  unfold dropItem
  split
  · simp
  · split
    · split <;> simp
    · simp

@[simp] theorem applyTrim_frame (n : Nat) (s : State) :
    (applyTrim n s).control = s.control ∧ (applyTrim n s).slots = s.slots ∧ (applyTrim n s).timeline = s.timeline ∧
    (applyTrim n s).resolver = s.resolver ∧ (applyTrim n s).lines = s.lines ∧ (applyTrim n s).capture = s.capture ∧
    (applyTrim n s).memory = s.memory ∧ (applyTrim n s).freeCount = s.freeCount ∧
    (applyTrim n s).pending = s.pending := by
  unfold applyTrim
  split <;> simp

@[simp] theorem stepTime_frame (d : BitVec 64) (s : State) :
    (stepTime d s).control = s.control ∧ (stepTime d s).slots = s.slots ∧ (stepTime d s).timeline = s.timeline ∧
    (stepTime d s).resolver = s.resolver ∧ (stepTime d s).lines = s.lines ∧ (stepTime d s).capture = s.capture ∧
    (stepTime d s).memory = s.memory ∧ (stepTime d s).freeCount = s.freeCount ∧
    (stepTime d s).pending = s.pending := by
  unfold stepTime
  simp only []
  split <;> simp

@[simp] theorem supersede_frame (s : State) :
    (supersede  s).control = s.control ∧ (supersede  s).slots = s.slots ∧ (supersede  s).timeline = s.timeline ∧
    (supersede  s).time = s.time ∧ (supersede  s).lines = s.lines ∧ (supersede  s).capture = s.capture ∧
    (supersede  s).memory = s.memory ∧ (supersede  s).freeCount = s.freeCount ∧
    (supersede  s).pending = s.pending := by
  unfold supersede
  split <;> simp

@[simp] theorem pushItems_frame (l : List SlotId) (s : State) :
    (l.foldl (fun t i => pushItem i true t) s).control = s.control ∧ (l.foldl (fun t i => pushItem i true t) s).intake = s.intake ∧ (l.foldl (fun t i => pushItem i true t) s).slots = s.slots ∧
    (l.foldl (fun t i => pushItem i true t) s).timeline = s.timeline ∧ (l.foldl (fun t i => pushItem i true t) s).time = s.time ∧ (l.foldl (fun t i => pushItem i true t) s).lines = s.lines ∧
    (l.foldl (fun t i => pushItem i true t) s).capture = s.capture ∧ (l.foldl (fun t i => pushItem i true t) s).notices = s.notices ∧ (l.foldl (fun t i => pushItem i true t) s).memory = s.memory ∧
    (l.foldl (fun t i => pushItem i true t) s).freeCount = s.freeCount ∧ (l.foldl (fun t i => pushItem i true t) s).pending = s.pending := by
  induction l generalizing s with
  | nil => simp
  | cons i l ih => simp [ih]

@[simp] theorem rePlace_frame (s : State) :
    (rePlace  s).control = s.control ∧ (rePlace  s).intake = s.intake ∧ (rePlace  s).time = s.time ∧
    (rePlace  s).lines = s.lines ∧ (rePlace  s).capture = s.capture ∧ (rePlace  s).notices = s.notices ∧
    (rePlace  s).memory = s.memory ∧ (rePlace  s).freeCount = s.freeCount ∧ (rePlace  s).pending = s.pending := by
  simp [rePlace]

@[simp] theorem workMatched_frame (x : Item) (t : Tick) (s : State) :
    (workMatched x t s).control = s.control ∧ (workMatched x t s).time = s.time ∧
    (workMatched x t s).lines = s.lines ∧ (workMatched x t s).capture = s.capture ∧
    (workMatched x t s).memory = s.memory ∧ (workMatched x t s).freeCount = s.freeCount ∧
    (workMatched x t s).pending = s.pending := by
  simp [workMatched]

@[simp] theorem workUnmatched_frame (x : Item) (k : NoticeRingId) (s : State) :
    (workUnmatched x k s).control = s.control ∧ (workUnmatched x k s).timeline = s.timeline ∧
    (workUnmatched x k s).time = s.time ∧ (workUnmatched x k s).lines = s.lines ∧
    (workUnmatched x k s).capture = s.capture ∧ (workUnmatched x k s).memory = s.memory ∧
    (workUnmatched x k s).freeCount = s.freeCount ∧ (workUnmatched x k s).pending = s.pending := by
  simp [workUnmatched]

@[simp] theorem endWork_frame (x : Item) (s : State) :
    (endWork x s).control = s.control ∧ (endWork x s).time = s.time ∧ (endWork x s).lines = s.lines ∧
    (endWork x s).capture = s.capture ∧ (endWork x s).memory = s.memory ∧ (endWork x s).freeCount = s.freeCount ∧
    (endWork x s).pending = s.pending := by
  unfold endWork
  split
  · split
    · split <;> simp
    · simp
  · simp

/-! ### Slots -/

@[simp] theorem startSlot_frame (i : SlotId) (e : Event) (t : Tick) (s : State) :
    (startSlot i e t s).control = s.control ∧ (startSlot i e t s).intake = s.intake ∧
    (startSlot i e t s).time = s.time ∧ (startSlot i e t s).lines = s.lines ∧
    (startSlot i e t s).notices = s.notices ∧ (startSlot i e t s).memory = s.memory ∧
    (startSlot i e t s).freeCount = s.freeCount ∧ (startSlot i e t s).pending = s.pending := by
  unfold startSlot
  simp only []
  split <;> simp

@[simp] theorem leaveCollections_frame (i : SlotId) (e : Event) (s : State) :
    (leaveCollections i e s).control = s.control ∧ (leaveCollections i e s).slots = s.slots ∧
    (leaveCollections i e s).time = s.time ∧ (leaveCollections i e s).lines = s.lines ∧
    (leaveCollections i e s).memory = s.memory ∧ (leaveCollections i e s).freeCount = s.freeCount ∧
    (leaveCollections i e s).pending = s.pending := by
  unfold leaveCollections
  simp only []
  split
  · simp
  · split <;> simp
  · simp
  · split <;> split <;> simp

@[simp] theorem stopSlot_frame (i : SlotId) (e : Event) (s : State) :
    (stopSlot i e s).control = s.control ∧ (stopSlot i e s).time = s.time ∧ (stopSlot i e s).lines = s.lines ∧
    (stopSlot i e s).memory = s.memory ∧ (stopSlot i e s).freeCount = s.freeCount ∧
    (stopSlot i e s).pending = s.pending := by
  simp [stopSlot]

@[simp] theorem startAction_frame (i : SlotId) (t : Tick) (s : State) :
    (startAction i t s).1.control = s.control ∧ (startAction i t s).1.intake = s.intake ∧
    (startAction i t s).1.time = s.time ∧ (startAction i t s).1.lines = s.lines ∧
    (startAction i t s).1.notices = s.notices ∧ (startAction i t s).1.memory = s.memory ∧
    (startAction i t s).1.freeCount = s.freeCount ∧ (startAction i t s).1.pending = s.pending := by
  unfold startAction
  split
  · simp
  · split <;> simp

@[simp] theorem stopAction_frame (i : SlotId) (s : State) :
    (stopAction i s).1.control = s.control ∧ (stopAction i s).1.time = s.time ∧ (stopAction i s).1.lines = s.lines ∧
    (stopAction i s).1.memory = s.memory ∧ (stopAction i s).1.freeCount = s.freeCount ∧
    (stopAction i s).1.pending = s.pending := by
  unfold stopAction
  split
  · simp
  · split <;> simp

/-! ### Lines and firings -/

@[simp] theorem actOnLine_frame (l : LineId) (a : Action) (s : State) :
    (actOnLine l a s).control = s.control ∧ (actOnLine l a s).intake = s.intake ∧ (actOnLine l a s).slots = s.slots ∧
    (actOnLine l a s).timeline = s.timeline ∧ (actOnLine l a s).resolver = s.resolver ∧
    (actOnLine l a s).time = s.time ∧ (actOnLine l a s).capture = s.capture ∧ (actOnLine l a s).notices = s.notices ∧
    (actOnLine l a s).memory = s.memory ∧ (actOnLine l a s).freeCount = s.freeCount ∧
    (actOnLine l a s).pending = s.pending := by
  unfold actOnLine
  split <;> simp

@[simp] theorem applyAction_frame (e : Tick) (a : Action) (s : State) :
    (applyAction e a s).1.control = s.control ∧ (applyAction e a s).1.time = s.time ∧
    (applyAction e a s).1.memory = s.memory ∧ (applyAction e a s).1.freeCount = s.freeCount ∧
    (applyAction e a s).1.pending = s.pending := by
  unfold applyAction
  split <;> simp

@[simp] theorem applyActions_frame (e : Tick) (l : List Action) (s : State) :
    (applyActions e l s).1.control = s.control ∧ (applyActions e l s).1.time = s.time ∧
    (applyActions e l s).1.memory = s.memory ∧ (applyActions e l s).1.freeCount = s.freeCount ∧
    (applyActions e l s).1.pending = s.pending := by
  induction l generalizing s with
  | nil => simp [applyActions]
  | cons a l ih => simp [applyActions, ih]

@[simp] theorem conclude_frame (i : SlotId) (d : Definition) (n : Continuation) (s : State) :
    (conclude i d n s).control = s.control ∧ (conclude i d n s).time = s.time ∧ (conclude i d n s).lines = s.lines ∧
    (conclude i d n s).memory = s.memory ∧ (conclude i d n s).freeCount = s.freeCount ∧
    (conclude i d n s).pending = s.pending := by
  unfold conclude
  split
  · split
    · simp
    · split <;> simp
  · split <;> simp

@[simp] theorem fireState_frame (x : Entry) (v : Event) (s : State) :
    (fireState x v s).control = s.control ∧ (fireState x v s).time = s.time ∧ (fireState x v s).lines = s.lines ∧
    (fireState x v s).memory = s.memory ∧ (fireState x v s).freeCount = s.freeCount ∧
    (fireState x v s).pending = s.pending := by
  simp [fireState]

@[simp] theorem fire_frame (x : Entry) (v : Event) (s : State) :
    (fire x v s).control = s.control ∧ (fire x v s).time = s.time ∧ (fire x v s).memory = s.memory ∧
    (fire x v s).freeCount = s.freeCount ∧ (fire x v s).pending = s.pending := by
  unfold fire
  simp only []
  split <;> simp

@[simp] theorem passOver_frame (x : Entry) (v : Event) (s : State) :
    (passOver x v s).control = s.control ∧ (passOver x v s).time = s.time ∧ (passOver x v s).lines = s.lines ∧
    (passOver x v s).memory = s.memory ∧ (passOver x v s).freeCount = s.freeCount ∧
    (passOver x v s).pending = s.pending := by
  unfold passOver
  simp only []
  split <;> simp

@[simp] theorem discardEntry_frame (x : Entry) (s : State) :
    (discardEntry s x).control = s.control ∧ (discardEntry s x).time = s.time ∧ (discardEntry s x).lines = s.lines ∧
    (discardEntry s x).memory = s.memory ∧ (discardEntry s x).freeCount = s.freeCount ∧
    (discardEntry s x).pending = s.pending := by
  unfold discardEntry
  split <;> simp

@[simp] theorem discardEntries_frame (l : List Entry) (s : State) :
    (l.foldl discardEntry s).control = s.control ∧ (l.foldl discardEntry s).time = s.time ∧ (l.foldl discardEntry s).lines = s.lines ∧ (l.foldl discardEntry s).memory = s.memory ∧
    (l.foldl discardEntry s).freeCount = s.freeCount ∧ (l.foldl discardEntry s).pending = s.pending := by
  induction l generalizing s with
  | nil => simp
  | cons i l ih => simp [ih]

@[simp] theorem discardOverdue_frame (s : State) :
    (discardOverdue  s).control = s.control ∧ (discardOverdue  s).time = s.time ∧
    (discardOverdue  s).lines = s.lines ∧ (discardOverdue  s).memory = s.memory ∧
    (discardOverdue  s).freeCount = s.freeCount ∧ (discardOverdue  s).pending = s.pending := by
  simp [discardOverdue]

@[simp] theorem resumeTimeline_frame (m : ResumeMode) (s : State) :
    (resumeTimeline m s).control = s.control ∧ (resumeTimeline m s).time = s.time ∧
    (resumeTimeline m s).lines = s.lines ∧ (resumeTimeline m s).memory = s.memory ∧
    (resumeTimeline m s).freeCount = s.freeCount ∧ (resumeTimeline m s).pending = s.pending := by
  unfold resumeTimeline
  split <;> simp

/-! ### Capture -/

@[simp] theorem armByEdge_frame (i : SlotId) (e : Event) (a : Tick) (t : Tick) (s : State) :
    (armByEdge i e a t s).control = s.control ∧ (armByEdge i e a t s).intake = s.intake ∧
    (armByEdge i e a t s).resolver = s.resolver ∧ (armByEdge i e a t s).time = s.time ∧
    (armByEdge i e a t s).lines = s.lines ∧ (armByEdge i e a t s).capture = s.capture ∧
    (armByEdge i e a t s).notices = s.notices ∧ (armByEdge i e a t s).memory = s.memory ∧
    (armByEdge i e a t s).freeCount = s.freeCount ∧ (armByEdge i e a t s).pending = s.pending := by
  simp [armByEdge]

@[simp] theorem triggerSlot_frame (c : CaptureId) (t : Tick) (i : SlotId) (s : State) :
    (triggerSlot c t s i).control = s.control ∧ (triggerSlot c t s i).intake = s.intake ∧
    (triggerSlot c t s i).resolver = s.resolver ∧ (triggerSlot c t s i).time = s.time ∧ (triggerSlot c t s i).lines = s.lines ∧
    (triggerSlot c t s i).notices = s.notices ∧ (triggerSlot c t s i).memory = s.memory ∧
    (triggerSlot c t s i).freeCount = s.freeCount ∧ (triggerSlot c t s i).pending = s.pending := by
  unfold triggerSlot
  split
  · split <;> simp
  · simp

@[simp] theorem triggerSlots_frame (c : CaptureId) (t : Tick) (l : List SlotId) (s : State) :
    (l.foldl (triggerSlot c t) s).control = s.control ∧ (l.foldl (triggerSlot c t) s).intake = s.intake ∧ (l.foldl (triggerSlot c t) s).resolver = s.resolver ∧ (l.foldl (triggerSlot c t) s).time = s.time ∧
    (l.foldl (triggerSlot c t) s).lines = s.lines ∧ (l.foldl (triggerSlot c t) s).notices = s.notices ∧ (l.foldl (triggerSlot c t) s).memory = s.memory ∧
    (l.foldl (triggerSlot c t) s).freeCount = s.freeCount ∧ (l.foldl (triggerSlot c t) s).pending = s.pending := by
  induction l generalizing s with
  | nil => simp
  | cons i l ih => simp [ih]

@[simp] theorem trigger_frame (c : CaptureId) (t : Tick) (s : State) :
    (trigger c t s).control = s.control ∧ (trigger c t s).intake = s.intake ∧ (trigger c t s).resolver = s.resolver ∧
    (trigger c t s).time = s.time ∧ (trigger c t s).lines = s.lines ∧ (trigger c t s).notices = s.notices ∧
    (trigger c t s).memory = s.memory ∧ (trigger c t s).freeCount = s.freeCount ∧
    (trigger c t s).pending = s.pending := by
  unfold trigger
  split <;> simp

@[simp] theorem reportEdge_frame (c : CaptureId) (v : Level) (t : Tick) (s : State) :
    (reportEdge c v t s).control = s.control ∧ (reportEdge c v t s).intake = s.intake ∧
    (reportEdge c v t s).slots = s.slots ∧ (reportEdge c v t s).timeline = s.timeline ∧
    (reportEdge c v t s).resolver = s.resolver ∧ (reportEdge c v t s).time = s.time ∧
    (reportEdge c v t s).lines = s.lines ∧ (reportEdge c v t s).memory = s.memory ∧
    (reportEdge c v t s).freeCount = s.freeCount ∧ (reportEdge c v t s).pending = s.pending := by
  unfold reportEdge
  split
  · split <;> simp
  · simp

@[simp] theorem acceptEdge_frame (c : CaptureId) (v : Level) (t : Tick) (s : State) :
    (acceptEdge c v t s).control = s.control ∧ (acceptEdge c v t s).intake = s.intake ∧
    (acceptEdge c v t s).resolver = s.resolver ∧ (acceptEdge c v t s).time = s.time ∧
    (acceptEdge c v t s).lines = s.lines ∧ (acceptEdge c v t s).memory = s.memory ∧
    (acceptEdge c v t s).freeCount = s.freeCount ∧ (acceptEdge c v t s).pending = s.pending := by
  simp [acceptEdge]

@[simp] theorem takeSample_frame (c : CaptureId) (p : Sampling) (v : Level) (s : State) :
    (takeSample c p v s).control = s.control ∧ (takeSample c p v s).intake = s.intake ∧
    (takeSample c p v s).resolver = s.resolver ∧ (takeSample c p v s).time = s.time ∧
    (takeSample c p v s).lines = s.lines ∧ (takeSample c p v s).memory = s.memory ∧
    (takeSample c p v s).freeCount = s.freeCount ∧ (takeSample c p v s).pending = s.pending := by
  unfold takeSample
  simp only []
  split
  · split <;> simp
  · simp

/-! ### Rings -/

@[simp] theorem stallIfFaulted_frame (r : CommandRingId) (s : State) :
    (stallIfFaulted r s).control = s.control ∧ (stallIfFaulted r s).slots = s.slots ∧
    (stallIfFaulted r s).timeline = s.timeline ∧ (stallIfFaulted r s).resolver = s.resolver ∧
    (stallIfFaulted r s).time = s.time ∧ (stallIfFaulted r s).lines = s.lines ∧
    (stallIfFaulted r s).capture = s.capture ∧ (stallIfFaulted r s).notices = s.notices ∧
    (stallIfFaulted r s).memory = s.memory ∧ (stallIfFaulted r s).freeCount = s.freeCount ∧
    (stallIfFaulted r s).pending = s.pending := by
  unfold stallIfFaulted
  split <;> simp

@[simp] theorem countTurn_frame (r : CommandRingId) (s : State) :
    (countTurn r s).control = s.control ∧ (countTurn r s).slots = s.slots ∧ (countTurn r s).timeline = s.timeline ∧
    (countTurn r s).resolver = s.resolver ∧ (countTurn r s).time = s.time ∧ (countTurn r s).lines = s.lines ∧
    (countTurn r s).capture = s.capture ∧ (countTurn r s).notices = s.notices ∧ (countTurn r s).memory = s.memory ∧
    (countTurn r s).freeCount = s.freeCount ∧ (countTurn r s).pending = s.pending := by
  unfold countTurn
  split <;> simp

@[simp] theorem advanceTake_frame (r : CommandRingId) (s : State) :
    (advanceTake r s).control = s.control ∧ (advanceTake r s).slots = s.slots ∧
    (advanceTake r s).timeline = s.timeline ∧ (advanceTake r s).resolver = s.resolver ∧
    (advanceTake r s).time = s.time ∧ (advanceTake r s).lines = s.lines ∧ (advanceTake r s).capture = s.capture ∧
    (advanceTake r s).notices = s.notices ∧ (advanceTake r s).memory = s.memory ∧
    (advanceTake r s).freeCount = s.freeCount ∧ (advanceTake r s).pending = s.pending := by
  simp [advanceTake]

@[simp] theorem clearRing_frame (k : NoticeRingId) (r : CommandRingId) (s : State) :
    (clearRing k r s).control = s.control ∧ (clearRing k r s).slots = s.slots ∧
    (clearRing k r s).timeline = s.timeline ∧ (clearRing k r s).resolver = s.resolver ∧
    (clearRing k r s).time = s.time ∧ (clearRing k r s).lines = s.lines ∧ (clearRing k r s).capture = s.capture ∧
    (clearRing k r s).memory = s.memory ∧ (clearRing k r s).freeCount = s.freeCount ∧
    (clearRing k r s).pending = s.pending := by
  unfold clearRing
  simp only []
  split <;> simp

@[simp] theorem resetCommandRing_frame (b : Bool) (r : CommandRingId) (s : State) :
    (resetCommandRing b r s).control = s.control ∧ (resetCommandRing b r s).timeline = s.timeline ∧
    (resetCommandRing b r s).resolver = s.resolver ∧ (resetCommandRing b r s).time = s.time ∧
    (resetCommandRing b r s).lines = s.lines ∧ (resetCommandRing b r s).memory = s.memory ∧
    (resetCommandRing b r s).freeCount = s.freeCount ∧ (resetCommandRing b r s).pending = s.pending := by
  unfold resetCommandRing
  split
  · split <;> simp
  · simp

@[simp] theorem discardSource_frame (d : Deferred) (s : State) :
    (discardSource s d).control = s.control ∧ (discardSource s d).intake = s.intake ∧ (discardSource s d).timeline = s.timeline ∧
    (discardSource s d).resolver = s.resolver ∧ (discardSource s d).time = s.time ∧ (discardSource s d).lines = s.lines ∧ (discardSource s d).notices = s.notices ∧
    (discardSource s d).memory = s.memory ∧ (discardSource s d).freeCount = s.freeCount ∧ (discardSource s d).pending = s.pending := by
  unfold discardSource
  split <;> simp

@[simp] theorem discardSources_frame (l : List Deferred) (s : State) :
    (l.foldl discardSource s).control = s.control ∧ (l.foldl discardSource s).intake = s.intake ∧ (l.foldl discardSource s).timeline = s.timeline ∧
    (l.foldl discardSource s).resolver = s.resolver ∧ (l.foldl discardSource s).time = s.time ∧ (l.foldl discardSource s).lines = s.lines ∧ (l.foldl discardSource s).notices = s.notices ∧
    (l.foldl discardSource s).memory = s.memory ∧ (l.foldl discardSource s).freeCount = s.freeCount ∧ (l.foldl discardSource s).pending = s.pending := by
  induction l generalizing s with
  | nil => simp
  | cons i l ih => simp [ih]

@[simp] theorem cascadeReset_frame (k : NoticeRingId) (r : CommandRingId) (s : State) :
    (cascadeReset k s r).control = s.control ∧ (cascadeReset k s r).timeline = s.timeline ∧ (cascadeReset k s r).resolver = s.resolver ∧
    (cascadeReset k s r).time = s.time ∧ (cascadeReset k s r).lines = s.lines ∧ (cascadeReset k s r).memory = s.memory ∧ (cascadeReset k s r).freeCount = s.freeCount ∧
    (cascadeReset k s r).pending = s.pending := by
  unfold cascadeReset
  split <;> simp

@[simp] theorem resetNoticeRing_frame (k : NoticeRingId) (s : State) :
    (resetNoticeRing k s).control = s.control ∧ (resetNoticeRing k s).timeline = s.timeline ∧
    (resetNoticeRing k s).resolver = s.resolver ∧ (resetNoticeRing k s).time = s.time ∧
    (resetNoticeRing k s).lines = s.lines ∧ (resetNoticeRing k s).memory = s.memory ∧
    (resetNoticeRing k s).freeCount = s.freeCount ∧ (resetNoticeRing k s).pending = s.pending := by
  unfold resetNoticeRing
  simp only []
  split <;> simp

@[simp] theorem rejectIndex_frame (n : Nat) (s : State) :
    (rejectIndex n s).intake = s.intake ∧ (rejectIndex n s).slots = s.slots ∧
    (rejectIndex n s).timeline = s.timeline ∧ (rejectIndex n s).resolver = s.resolver ∧
    (rejectIndex n s).time = s.time ∧ (rejectIndex n s).lines = s.lines ∧ (rejectIndex n s).capture = s.capture ∧
    (rejectIndex n s).memory = s.memory ∧ (rejectIndex n s).freeCount = s.freeCount ∧
    (rejectIndex n s).pending = s.pending := by
  simp [rejectIndex]

@[simp] theorem enterHalted_frame (s : State) :
    (enterHalted  s).control = s.control ∧ (enterHalted  s).intake = s.intake ∧ (enterHalted  s).slots = s.slots ∧
    (enterHalted  s).timeline = s.timeline ∧ (enterHalted  s).resolver = s.resolver ∧ (enterHalted  s).time = s.time ∧
    (enterHalted  s).memory = s.memory ∧ (enterHalted  s).freeCount = s.freeCount ∧
    (enterHalted  s).pending = s.pending := by
  simp [enterHalted]

@[simp] theorem faultNotices_frame (k : NoticeRingId) (s : State) :
    (faultNotices k s).slots = s.slots ∧ (faultNotices k s).timeline = s.timeline ∧
    (faultNotices k s).resolver = s.resolver ∧ (faultNotices k s).time = s.time ∧ (faultNotices k s).lines = s.lines ∧
    (faultNotices k s).capture = s.capture ∧ (faultNotices k s).memory = s.memory ∧
    (faultNotices k s).freeCount = s.freeCount ∧ (faultNotices k s).pending = s.pending := by
  unfold faultNotices
  simp only []
  split <;> simp

end Sys2Proof.Machine
end

