-- ==== Sys2Proof/Laws/Arbiter.lean ====
section
/-! SUPPORT. What one choice of the arbiter can do, said once (R143 to R145). -/

namespace Sys2Proof.Machine

open Sys2Proof

/-- A ring that the arbiter has touched was eligible. -/
def ArbiterTouched (x y : CommandRing) : Prop :=
  y = x ∨ (x.eligible = true ∧
    (y = { x with fetchReservation := false, fetch := some x.nextFetch } ∨
      y = { x with requestOutstanding := true, state := .stalled }))

theorem ArbiterTouched.ring {x y : CommandRing} (h : ArbiterTouched x y) : ArbiterRing x y := by
  obtain h | ⟨-, h | h⟩ := h
  · exact .inl h
  · exact .inr (.inl h)
  · exact .inr (.inr h)

theorem ArbiterRing.refl (x : CommandRing) : ArbiterRing x x := .inl rfl

theorem ArbiterNotice.refl (x : NoticeRing) : ArbiterNotice x x := ⟨0, [], by simp⟩

theorem stalled_not_eligible (x : CommandRing) :
    CommandRing.eligible { x with requestOutstanding := true, state := .stalled } = false := by
  simp [CommandRing.eligible]

theorem ArbiterNotice.push {x y : NoticeRing} {r : CommandRingId}
    (h : ArbiterNotice { x with requests := x.requests ++ [r] } y) : ArbiterNotice x y := by
  obtain ⟨n, l, hn, rfl⟩ := h
  exact ⟨n, r :: l, hn, by simp⟩

/-- What the choices of one happening do to the rings. -/
structure Arbitrated (s t : State) : Prop where
  rings : ∀ q : CommandRingId, ArbiterTouched s.intake.rings[q] t.intake.rings[q]
  notices : ∀ k : NoticeRingId, ArbiterNotice s.notices[k] t.notices[k]

/-- The choice: what `arbitrate` may do to each ring. -/
theorem arbitrate_cases (n : Nat) (s : State) : Arbitrated s (arbitrate n s) := by
  induction n generalizing s with
  | zero => exact ⟨fun q => .inl rfl, fun k => .refl _⟩
  | succ n ih =>
    unfold arbitrate
    split
    · exact ⟨fun q => .inl rfl, fun k => .refl _⟩
    · split
      · exact ⟨fun q => .inl rfl, fun k => .refl _⟩
      · rename_i r t h
        obtain ⟨ht, he⟩ := choice_cases h
        have hr : t.intake.rings = s.intake.rings := by obtain rfl | rfl := ht <;> rfl
        have hn : t.notices = s.notices := by obtain rfl | rfl := ht <;> rfl
        have begun : ∀ q : CommandRingId, ArbiterTouched s.intake.rings[q] (beginFetch r t).intake.rings[q] := by
          intro q
          rw [beginFetch, setRing_get, hr]
          split
          · rename_i hq; subst hq; exact .inr ⟨he, .inl rfl⟩
          · exact .inl rfl
        split
        · exact ⟨begun, fun k => by rw [(beginFetch_frame r t).2.2.2.2.2.2.2.1, hn]; exact .refl _⟩
        · split
          · exact ⟨fun q => .inl (by rw [hr]), fun k => by rw [hn]; exact .refl _⟩
          · rename_i k hk
            split
            · refine ⟨fun q => ?_, fun j => ?_⟩
              · rw [fetchWithGrant, beginFetch, setRing_get]
                split
                · rename_i hq; subst hq
                  exact .inr ⟨he, .inl (by simp [hr])⟩
                · exact .inl (by simp [hr])
              · rw [fetchWithGrant, (beginFetch_frame r _).2.2.2.2.2.2.2.1, setNotice_get, hn]
                split
                · rename_i hj; subst hj; exact ⟨1, [], by simp, by simp⟩
                · exact .refl _
            · obtain ⟨ir, ij⟩ := ih (stallOnRequest k r t)
              have hstall : ∀ q : CommandRingId, (stallOnRequest k r t).intake.rings[q] =
                  if q = r then { s.intake.rings[r] with requestOutstanding := true, state := .stalled }
                  else s.intake.rings[q] := by
                intro q
                rw [stallOnRequest, endTurn_rings, setRing_get]
                simp [hr]
              have hnote : ∀ j : NoticeRingId, (stallOnRequest k r t).notices[j] =
                  if j = k then { s.notices[k] with requests := s.notices[k].requests ++ [r] }
                  else s.notices[j] := by
                intro j
                rw [stallOnRequest, (endTurn_frame _).2.2.2.2.2.2.2.1, (setRing_frame _ _ _).2.2.2.2.2.2.2.1,
                  setNotice_get, hn]
              refine ⟨fun q => ?_, fun j => ?_⟩
              · have := ir q
                rw [hstall] at this
                split at this
                · rename_i hq; subst hq
                  obtain h' | ⟨h', -⟩ := this
                  · exact .inr ⟨he, .inr h'⟩
                  · simp [stalled_not_eligible] at h'
                · exact this
              · have := ij j
                rw [hnote] at this
                split at this
                · rename_i hj; subst hj; exact this.push
                · exact this

theorem noteTurn_rings (s : State) : (noteTurn s).intake.rings = s.intake.rings := by
  unfold noteTurn
  split <;> simp

/-- All that the arbiter's part of a happening can do. -/
theorem settle_cases (s : State) : Arbitrated s (settle s) := by
  have h := arbitrate_cases 5 (noteTurn s)
  refine ⟨fun q => ?_, fun k => ?_⟩
  · have := h.1 q
    simp only [noteTurn_rings] at this
    exact this
  · have := h.2 k
    simp only [noteTurn_frame] at this
    exact this

theorem settle_arbiterOnly (s : State) : ArbiterOnly s (settle s) where
  choice := rfl
  blocks := by ext1 <;> simp
  rings q := ((settle_cases s).1 q).ring
  notices := (settle_cases s).2

/-- The turn is over wherever its ring is not eligible (R143, log entry 12). -/
def TurnMarked (s : State) : Prop := s.intake.rings[s.intake.turn].eligible = true ∨ s.intake.turnOver = true

theorem noteTurn_marked (s : State) : TurnMarked (noteTurn s) := by
  unfold noteTurn
  split
  · rename_i h; exact .inl h
  · exact .inr rfl

theorem beginFetch_marked {r : CommandRingId} {s : State} (h : TurnMarked s) : TurnMarked (beginFetch r s) := by
  refine h.imp (fun h => ?_) fun h => h
  show (beginFetch r s).intake.rings[s.intake.turn].eligible = true
  rw [beginFetch, setRing_get]
  split
  · rename_i hq
    subst hq
    exact h
  · exact h

theorem choice_marked {s t : State} {r : CommandRingId} (h : choice s = some (r, t)) (hs : TurnMarked s) : TurnMarked t := by
  obtain ⟨ht, he⟩ := choice_cases h
  obtain rfl | rfl := ht
  · exact hs
  · exact .inl he

theorem arbitrate_marked (n : Nat) {s : State} (h : TurnMarked s) : TurnMarked (arbitrate n s) := by
  induction n generalizing s with
  | zero => exact h
  | succ n ih =>
    unfold arbitrate
    split
    · exact h
    · split
      · exact h
      · rename_i r t hc
        have ht := choice_marked hc h
        split
        · exact beginFetch_marked ht
        · split
          · exact ht
          · rename_i k hk
            split
            · exact beginFetch_marked ht
            · exact ih (.inr rfl)

/-- The arbiter's part of a happening leaves the turn over wherever its ring is not eligible. -/
theorem settle_marked (s : State) : TurnMarked (settle s) := arbitrate_marked 5 (noteTurn_marked s)

/-- The number of eligible rings. -/
def eligibleCount (s : State) : Nat := (List.finRange 4).countP fun q : CommandRingId => s.intake.rings[q].eligible

theorem stallOnRequest_rings (k : NoticeRingId) (r q : CommandRingId) (s : State) :
    (stallOnRequest k r s).intake.rings[q] =
      if q = r then { s.intake.rings[r] with requestOutstanding := true, state := .stalled } else s.intake.rings[q] := by
  rw [stallOnRequest, endTurn_rings, setRing_get]
  simp

/-- A refused ring is eligible no longer; no other ring changes. -/
theorem stallOnRequest_eligibleCount {k : NoticeRingId} {r : CommandRingId} {s : State}
    (h : s.intake.rings[r].eligible = true) : eligibleCount (stallOnRequest k r s) + 1 = eligibleCount s := by
  have key : ∀ q : CommandRingId, (stallOnRequest k r s).intake.rings[q].eligible =
      if q = r then false else s.intake.rings[q].eligible := by
    intro q
    rw [stallOnRequest_rings]
    split
    · exact stalled_not_eligible _
    · rfl
  unfold eligibleCount
  simp only [key]
  generalize he : (fun q : CommandRingId => s.intake.rings[q].eligible) = e
  have he' : ∀ q : CommandRingId, s.intake.rings[q].eligible = e q := fun q => by rw [← he]
  simp only [he'] at h ⊢
  clear he he' key
  revert r e
  decide

/-- With more fuel than eligible rings the choice is whole. -/
theorem arbitrate_succ {n : Nat} {s : State} (h : eligibleCount s < n) : arbitrate (n + 1) s = arbitrate n s := by
  induction n generalizing s with
  | zero => omega
  | succ n ih =>
    rw [arbitrate, arbitrate]
    split
    · rfl
    · split
      · rfl
      · rename_i r t hc
        obtain ⟨ht, he⟩ := choice_cases hc
        have hr : t.intake.rings = s.intake.rings := by obtain rfl | rfl := ht <;> rfl
        have hn : eligibleCount t = eligibleCount s := by simp only [eligibleCount, hr]
        split
        · rfl
        · split
          · rfl
          · rename_i k hk
            split
            · rfl
            · have := stallOnRequest_eligibleCount (k := k) (s := t) (by rw [hr]; exact he)
              exact ih (by omega)

theorem eligibleCount_le (s : State) : eligibleCount s ≤ 4 := List.countP_le_length.trans (by simp)

theorem noteTurn_stallOnRequest (k : NoticeRingId) (r : CommandRingId) (s : State) :
    noteTurn (stallOnRequest k r s) = stallOnRequest k r s := by
  unfold noteTurn
  split <;> rfl

/-- One choice of the arbiter, whole: a refused ring is STALLED on its request, and the choice goes on (R143 to R145). -/
theorem settle_eq (s : State) :
    settle s =
      if (noteTurn s).fetchingRing.isSome then noteTurn s
      else
        match choice (noteTurn s) with
        | none => noteTurn s
        | some (r, t) =>
          if t.intake.rings[r].fetchReservation then beginFetch r t
          else
            match t.intake.rings[r].bound? with
            | none => t
            | some k =>
              if t.notices[k].grantsAtOnce then fetchWithGrant k r t else settle (stallOnRequest k r t) := by
  rw [settle, arbitrate]
  split
  · rfl
  · cases hc : choice (noteTurn s) with
    | none => rfl
    | some p =>
      obtain ⟨r, t⟩ := p
      obtain ⟨ht, he⟩ := choice_cases hc
      have hr : t.intake.rings = (noteTurn s).intake.rings := by obtain rfl | rfl := ht <;> rfl
      simp only []
      split
      · rfl
      · cases hk : t.intake.rings[r].bound? with
        | none => rfl
        | some k =>
          simp only []
          split
          · rfl
          · have h := stallOnRequest_eligibleCount (k := k) (s := t) (by rw [hr]; exact he)
            have := eligibleCount_le t
            show _ = arbitrate 5 (noteTurn (stallOnRequest k r t))
            rw [noteTurn_stallOnRequest, arbitrate_succ (n := 4) (by omega)]

end Sys2Proof.Machine
end

