-- ==== Sys2Proof/Laws/Fetch.lean ====
section
/-! SUPPORT. What the end of a fetch does to the intake and the notice unit, said once for the commands that complete
at once (R146, R148, R150). -/

namespace Sys2Proof.Machine

open Sys2Proof

theorem handed_answered (n : Notice) (x : NoticeRing) :
    (if ({ x with reserved := x.reserved - 1 } : NoticeRing).state = .active then
      NoticeRing.takePlace n { x with reserved := x.reserved - 1 }
     else NoticeRing.loseRecords 1 { x with reserved := x.reserved - 1 }) = x.answered n := by
  unfold NoticeRing.answered
  split <;> rfl

/-- Handing a completion changes the one notice ring. -/
theorem useReservation_get (k j : NoticeRingId) (n : Notice) (s : State) :
    (useReservation k n s).notices[j] = if j = k then s.notices[k].answered n else s.notices[j] := by
  rw [← handed_answered]
  unfold useReservation
  simp only []
  split
  · rw [setNotice_get]
  · rw [setNotice_get]

theorem advanceTake_ring (r q : CommandRingId) (s : State) :
    (advanceTake r s).intake.rings[q] =
      if q = r then { s.intake.rings[r] with take := s.intake.rings[r].nextTake, fetch := none }
      else s.intake.rings[q] := by
  have h : ∀ t : State, (countTurn r t).intake.rings = t.intake.rings := by
    intro t
    unfold countTurn
    split <;> rfl
  rw [advanceTake]
  simp only [h]
  rw [setRing_get]

theorem stallIfFaulted_ring (r q : CommandRingId) (s : State) :
    (stallIfFaulted r s).intake.rings[q] =
      if q = r ∧ s.intake.rings[r].state = .active then
        { s.intake.rings[r] with state := servedState s.intake.rings[r] s }
      else s.intake.rings[q] := by
  unfold stallIfFaulted
  by_cases h : s.intake.rings[r].state = .active
  · rw [if_pos h, setRing_get]
    by_cases hq : q = r
    · rw [if_pos hq, if_pos ⟨hq, h⟩]
    · rw [if_neg hq, if_neg fun a => hq a.1]
  · rw [if_neg h, if_neg fun a => h a.2]

theorem bound_servedState {x : CommandRing} {s : State} {k : NoticeRingId} (h : x.bound? = some k) :
    servedState x s = if s.notices[k].state = .faulted then .stalled else .active := by
  simp [servedState, h]

theorem answered_state (n : Notice) (x : NoticeRing) : (x.answered n).state = x.state := by
  unfold NoticeRing.answered
  split <;> rfl

theorem handed_state (l : List Notice) (x : NoticeRing) : (x.handed l).state = x.state := by
  induction l generalizing x with
  | nil => rfl
  | cons n l ih =>
    show ((x.answered n).handed l).state = x.state
    rw [ih, answered_state]

/-- The intake after steps 1 and 2 of R146. -/
theorem advanceTake_intake (r : CommandRingId) (s : State) :
    (advanceTake r s).intake =
      { s.intake with
        rings := s.intake.rings.set r { s.intake.rings[r] with take := s.intake.rings[r].nextTake, fetch := none }
        count := if r = s.intake.turn then s.intake.count + 1 else s.intake.count } := by
  by_cases h : r = s.intake.turn
  · simp [advanceTake, countTurn, setRing, h]
  · simp [advanceTake, countTurn, setRing, h]

/-- Where an owner has left `w`, but for the command's own completions and the end of its fetch, the end of the taking
leaves `afterTake`. -/
theorem stallIfFaulted_afterTake {v w : State} {r : CommandRingId} {k : NoticeRingId} {l : List Notice}
    (hb : w.intake.rings[r].bound? = some k)
    (hv : v =
      { w with
        intake :=
          { w.intake with
            rings := w.intake.rings.set r { w.intake.rings[r] with take := w.intake.rings[r].nextTake, fetch := none }
            count := if r = w.intake.turn then w.intake.count + 1 else w.intake.count }
        notices := w.notices.set k (w.notices[k].handed l) }) :
    stallIfFaulted r v = afterTake r k l w := by
  subst hv
  have hb' : Option.map CommandConfig.bound w.intake.rings[r.val].config = some k := hb
  unfold stallIfFaulted afterTake CommandRing.taken
  by_cases h : w.intake.rings[r.val].state = .active <;> by_cases hk : w.notices[k.val].state = .faulted <;>
    simp [h, hk, hb', setRing, servedState, CommandRing.bound?, CommandRing.nextTake, handed_state]

theorem afterTake_ring (r q : CommandRingId) (k : NoticeRingId) (l : List Notice) (w : State) :
    (afterTake r k l w).intake.rings[q] =
      if q = r then w.intake.rings[r].taken (w.notices[k].state = .faulted) else w.intake.rings[q] := by
  show (w.intake.rings.set r _)[q] = _
  rw [Fin.getElem_fin, Vector.getElem_set]
  by_cases h : q = r
  · rw [if_pos h, if_pos (by rw [h])]
  · rw [if_neg h, if_neg fun a => h (Fin.ext a.symm)]
    rfl

theorem afterTake_notice (r : CommandRingId) (k j : NoticeRingId) (l : List Notice) (w : State) :
    (afterTake r k l w).notices[j] = if j = k then w.notices[k].handed l else w.notices[j] := by
  show (w.notices.set k _)[j] = _
  rw [Fin.getElem_fin, Vector.getElem_set]
  by_cases h : j = k
  · rw [if_pos h, if_pos (by rw [h])]
  · rw [if_neg h, if_neg fun a => h (Fin.ext a.symm)]
    rfl

/-- The exact form of `Answered` gives the others. -/
theorem Answered.of_choice {s u t : State} {r : CommandRingId} {k : NoticeRingId} {n : Notice}
    (h : t = settle (afterTake r k [n] { u with intake := s.intake, notices := s.notices })) : Answered s u t r k n := by
  subst h
  obtain ⟨hr, hs⟩ := settle_cases (afterTake r k [n] { u with intake := s.intake, notices := s.notices })
  simp only [afterTake_ring, afterTake_notice] at hr hs
  refine ⟨rfl, ?_, ?_, fun q hq => ?_, ?_, fun j hj => ?_⟩
  · ext1 <;> simp [afterTake]
  · simpa only [if_true] using (hr r).ring
  · simpa only [if_neg hq] using (hr q).ring
  · have := hs k
    rw [if_pos rfl] at this
    exact this
  · simpa only [if_neg hj] using hs j

/-- The exact form of `Owing` gives the others. -/
theorem Owing.of_choice {s u t : State} {r : CommandRingId} {k : NoticeRingId} {o : Owed}
    (h : t = settle (afterTake r k []
      { setRing r { s.intake.rings[r] with outstanding := s.intake.rings[r].outstanding ++ [o] } { u with intake := s.intake }
        with notices := s.notices })) : Owing s u t r k o := by
  subst h
  refine ⟨rfl, ?_, ?_, fun q hq => ?_, fun j => ?_⟩
  · ext1 <;> simp [afterTake]
  · have := ((settle_cases (afterTake r k []
      { setRing r { s.intake.rings[r] with outstanding := s.intake.rings[r].outstanding ++ [o] } { u with intake := s.intake }
        with notices := s.notices })).1 r).ring
    rw [afterTake_ring, if_pos rfl] at this
    simp only [setRing_get, if_true] at this
    exact this
  · have := ((settle_cases (afterTake r k []
      { setRing r { s.intake.rings[r] with outstanding := s.intake.rings[r].outstanding ++ [o] } { u with intake := s.intake }
        with notices := s.notices })).1 q).ring
    rw [afterTake_ring, if_neg hq] at this
    simp only [setRing_get, if_neg hq] at this
    exact this
  · have := (settle_cases (afterTake r k []
      { setRing r { s.intake.rings[r] with outstanding := s.intake.rings[r].outstanding ++ [o] } { u with intake := s.intake }
        with notices := s.notices })).2 j
    rw [afterTake_notice] at this
    by_cases hj : j = k
    · subst hj
      rw [if_pos rfl] at this
      exact this
    · rw [if_neg hj] at this
      exact this

/-- The end of a fetch that is not discarded. -/
theorem endFetch_live {s : State} {r : CommandRingId} {k : NoticeRingId} (hf : Fetching s r k)
    (f : CommandRingId → State → State) : endFetch f s = settle (stallIfFaulted r (f r s)) := by
  simp only [endFetch, hf.path]
  rw [if_neg (by rw [hf.live]; decide)]

theorem useReservation_notices (k : NoticeRingId) (n : Notice) (s : State) :
    useReservation k n s = { s with notices := s.notices.set k (s.notices[k].handed [n]) } := by
  show _ = { s with notices := s.notices.set k (s.notices[k].answered n) }
  rw [← handed_answered]
  unfold useReservation
  simp only []
  split <;> rfl

/-- The end of a fetch whose command completes at once: `u` is what its owner left, with the intake and the notice
unit as the take left them. -/
theorem endFetch_answered {s u : State} {r : CommandRingId} {k : NoticeRingId} {h : Header} {m : Option Command}
    {status : Status} {result : Result} (hf : Fetching s r k)
    (ht : takeFetched h m r s = handCompletion r h.ident s.intake.rings[r].nextTake status result u)
    (hi : u.intake = (advanceTake r s).intake) (hn : u.notices = s.notices) :
    ∃ t, endFetch (takeFetched h m) s = t ∧ Answered s u t r k (completionOf s r h status result) := by
  refine ⟨_, rfl, .of_choice ?_⟩
  have hb : u.intake.rings[r].bound? = some k := by
    rw [hi, advanceTake_ring, if_pos rfl]
    exact hf.bound
  have hh : handCompletion r h.ident s.intake.rings[r].nextTake status result u
      = useReservation k (completionOf s r h status result) u := by
    simp only [handCompletion]
    rw [hb]
    rfl
  rw [endFetch_live hf, ht, hh]
  congr 1
  refine stallIfFaulted_afterTake hf.bound ?_
  rw [useReservation_notices, hn]
  ext1 <;> simp only [hi, advanceTake_intake]

theorem Answered.congr {s u v t : State} {r : CommandRingId} {k : NoticeRingId} {n : Notice}
    (h : Answered s v t r k n) (e : v = { u with intake := v.intake, notices := v.notices }) : Answered s u t r k n := by
  refine .of_choice (h.choice.trans ?_)
  rw [e]

/-- A command that its owner completes at once, leaving `v`: beside the intake and the notice unit, the command
leaves `u`. -/
theorem answered_of_take {s u v : State} {r : CommandRingId} {k : NoticeRingId} {h : Header} {m : Command}
    {status : Status} {result : Result} (hf : Fetching s r k)
    (ht : takeCommand { ring := r, ident := h.ident, takeIndex := s.intake.rings[r].nextTake } h m (advanceTake r s)
      = (v, .complete status result))
    (hi : v.intake = (advanceTake r s).intake) (hn : v.notices = s.notices)
    (hv : v = { u with intake := v.intake, notices := v.notices }) :
    ∃ t, (Host.Outcome.next (commandFetched h m s) : Host.Outcome State Fault Refusal) = .next t ∧
      Answered s u t r k (completionOf s r h status result) := by
  have ht' : takeFetched h (some m) r s = handCompletion r h.ident s.intake.rings[r].nextTake status result v := by
    simp only [takeFetched]
    rw [ht]
    rfl
  obtain ⟨t, e, a⟩ := endFetch_answered hf ht' hi hn
  exact ⟨t, by rw [← e]; rfl, a.congr hv⟩

/-- A command that owes its completion, its owner leaving `v`: beside the intake and the notice unit, the command
leaves `u`. -/
theorem owing_of_take {s u v : State} {r : CommandRingId} {k : NoticeRingId} {h : Header} {m : Command}
    {kind : OwedKind} (hf : Fetching s r k)
    (ht : takeCommand { ring := r, ident := h.ident, takeIndex := s.intake.rings[r].nextTake } h m (advanceTake r s)
      = (v, .owe kind))
    (hi : v.intake = (advanceTake r s).intake) (hn : v.notices = s.notices)
    (hv : v = { u with intake := v.intake, notices := v.notices }) :
    ∃ t, (Host.Outcome.next (commandFetched h m s) : Host.Outcome State Fault Refusal) = .next t ∧
      Owing s u t r k { kind, ident := h.ident, takeIndex := s.intake.rings[r].nextTake } := by
  refine ⟨_, rfl, .of_choice ?_⟩
  have ht' : takeFetched h (some m) r s
      = addOwed r { kind, ident := h.ident, takeIndex := s.intake.rings[r].nextTake } v := by
    simp only [takeFetched]
    rw [ht]
    rfl
  rw [commandFetched, endFetch_live hf, ht']
  congr 1
  refine stallIfFaulted_afterTake ?_ ?_
  · show CommandRing.bound? ((s.intake.rings.set r _)[r]) = _
    rw [Fin.getElem_fin, Vector.getElem_set_self]
    exact hf.bound
  · rw [hv]
    ext1 <;> simp [addOwed, setRing, hi, hn, advanceTake_intake, NoticeRing.handed, CommandRing.nextTake]

end Sys2Proof.Machine
end

