-- ==== Sys2Proof/Laws/Complete.lean ====
section
/-! SUPPORT. What the ends of deferred completions can do to the intake and the notice unit, said once (R123, R151,
R153). -/

namespace Sys2Proof.Machine

open Sys2Proof

/-- A command ring whose deferred completions may have ended, and which the arbiter may have chosen: its place in
the command ring is as it was. -/
def CompletedRing (x y : CommandRing) : Prop :=
  y = { x with state := y.state, fetch := y.fetch, fetchReservation := y.fetchReservation,
               requestOutstanding := y.requestOutstanding, wait := y.wait, outstanding := y.outstanding }

theorem completedRing_iff (x y : CommandRing) :
    CompletedRing x y ↔ y.config = x.config ∧ y.take = x.take ∧ y.post = x.post := by
  constructor
  · intro h
    rw [h]
    exact ⟨rfl, rfl, rfl⟩
  · rintro ⟨h1, h2, h3⟩
    unfold CompletedRing
    ext1 <;> simp [h1, h2, h3]

theorem CompletedRing.refl (x : CommandRing) : CompletedRing x x := (completedRing_iff x x).mpr ⟨rfl, rfl, rfl⟩

theorem CompletedRing.trans {x y z : CommandRing} (a : CompletedRing x y) (b : CompletedRing y z) :
    CompletedRing x z := by
  rw [completedRing_iff] at *
  exact ⟨b.1.trans a.1, b.2.1.trans a.2.1, b.2.2.trans a.2.2⟩

theorem ArbiterRing.completed {x y : CommandRing} (h : ArbiterRing x y) : CompletedRing x y := by
  rw [completedRing_iff]
  obtain rfl | rfl | rfl := h <;> exact ⟨rfl, rfl, rfl⟩

theorem FedNotice.refl (x : NoticeRing) : FedNotice x x := ⟨rfl, rfl, rfl, rfl, rfl, rfl, rfl, [], by simp⟩

theorem FedNotice.trans {x y z : NoticeRing} (a : FedNotice x y) (b : FedNotice y z) : FedNotice x z := by
  refine ⟨b.config.trans a.config, b.state.trans a.state, b.release.trans a.release, b.written.trans a.written,
    b.deferred.trans a.deferred, b.stale.trans a.stale, b.ready.trans a.ready, ?_⟩
  obtain ⟨l, hl⟩ := a.queue
  obtain ⟨m, hm⟩ := b.queue
  exact ⟨l ++ m, by rw [hm, hl, List.append_assoc]⟩

theorem ArbiterNotice.fed {x y : NoticeRing} (h : ArbiterNotice x y) : FedNotice x y := by
  obtain ⟨n, l, -, rfl⟩ := h
  exact ⟨rfl, rfl, rfl, rfl, rfl, rfl, rfl, [], by simp⟩

theorem answered_fed (n : Notice) (x : NoticeRing) : FedNotice x (x.answered n) := by
  unfold NoticeRing.answered
  split
  · exact ⟨rfl, rfl, rfl, rfl, rfl, rfl, rfl, [_], rfl⟩
  · exact ⟨rfl, rfl, rfl, rfl, rfl, rfl, rfl, [], by simp [NoticeRing.loseRecords]⟩

/-- Between `s` and `t` completions may have ended and the arbiter may have chosen. -/
structure Completed (s t : State) : Prop where
  rings : ∀ q : CommandRingId, CompletedRing s.intake.rings[q] t.intake.rings[q]
  notices : ∀ k : NoticeRingId, FedNotice s.notices[k] t.notices[k]

theorem Completed.refl (s : State) : Completed s s := ⟨fun _ => .refl _, fun _ => .refl _⟩

theorem Completed.trans {s t u : State} (a : Completed s t) (b : Completed t u) : Completed s u :=
  ⟨fun q => (a.rings q).trans (b.rings q), fun k => (a.notices k).trans (b.notices k)⟩

theorem Completed.after {s t u : State} (b : Completed t u) (a : Completed s t) : Completed s u := a.trans b

/-- Operations that leave the intake and the notice unit alone. -/
theorem Completed.of_eq {s t : State} (hi : t.intake.rings = s.intake.rings) (hn : t.notices = s.notices) :
    Completed s t := by
  refine ⟨fun q => ?_, fun k => ?_⟩
  · rw [hi]; exact .refl _
  · rw [hn]; exact .refl _

theorem settle_completed (s : State) : Completed s (settle s) :=
  ⟨fun q => ((settle_cases s).rings q).ring.completed, fun k => ((settle_cases s).notices k).fed⟩

theorem useReservation_completed (k : NoticeRingId) (n : Notice) (s : State) : Completed s (useReservation k n s) := by
  refine ⟨fun q => ?_, fun j => ?_⟩
  · rw [(useReservation_frame k n s).2.1]; exact .refl _
  · rw [useReservation_get]
    split
    · rename_i h; subst h; exact answered_fed _ _
    · exact .refl _

theorem handCompletion_completed (r : CommandRingId) (d : BitVec 16) (n : Nat) (st : Status) (q : Result) (s : State) :
    Completed s (handCompletion r d n st q s) := by
  unfold handCompletion
  split
  · exact useReservation_completed _ _ _
  · exact .refl _

theorem setRing_completed {r : CommandRingId} {x : CommandRing} {s : State} (h : CompletedRing s.intake.rings[r] x) :
    Completed s (setRing r x s) := by
  refine ⟨fun q => ?_, fun k => ?_⟩
  · rw [setRing_get]
    split
    · rename_i hq; subst hq; exact h
    · exact .refl _
  · rw [(setRing_frame r x s).2.2.2.2.2.2.2.1]; exact .refl _

theorem completeOwed_completed (r : CommandRingId) (o : Owed) (st : Status) (q : Result) (s : State) :
    Completed s (completeOwed r o st q s) := by
  unfold completeOwed
  split
  · exact (handCompletion_completed _ _ _ _ _ _).after
      (setRing_completed ((completedRing_iff _ _).mpr ⟨rfl, rfl, rfl⟩))
  · exact .refl _

theorem endWait_completed (r : CommandRingId) (w : WaitInFlight) (st : Status) (s : State) :
    Completed s (endWait r w st s) :=
  (completeOwed_completed _ _ _ _ _).after (setRing_completed ((completedRing_iff _ _).mpr ⟨rfl, rfl, rfl⟩))

theorem endWaitOn_completed (i : SlotId) (s : State) (r : CommandRingId) : Completed s (endWaitOn i s r) := by
  unfold endWaitOn
  split
  · split
    · exact endWait_completed _ _ _ _
    · exact .refl _
  · exact .refl _

theorem reportDormant_completed (i : SlotId) (s : State) : Completed s (reportDormant i s) := by
  simp only [reportDormant, List.foldl]
  exact (((endWaitOn_completed i s 0).trans (endWaitOn_completed i _ 1)).trans (endWaitOn_completed i _ 2)).trans
    (endWaitOn_completed i _ 3)

theorem enterDormant_completed (i : SlotId) (s : State) : Completed s (enterDormant i s) :=
  (Completed.of_eq (by simp) (by simp)).trans (reportDormant_completed i _)

theorem endPass_completed (p : Pass) (st : Status) (s : State) : Completed s (endPass p st s) :=
  (completeOwed_completed _ _ _ _ _).after (.of_eq rfl rfl)

theorem countPass_completed (m : Bool) (f : Pass → Pass) (s : State) : Completed s (countPass m f s) := by
  unfold countPass
  split
  · split
    · unfold notePass
      split
      · exact endPass_completed _ _ _
      · exact .of_eq rfl rfl
    · exact .refl _
  · exact .refl _

theorem applyTrim_completed (c : Nat) (s : State) : Completed s (applyTrim c s) := by
  unfold applyTrim
  split
  · exact (completeOwed_completed _ _ _ _ _).after (.of_eq rfl rfl)
  · exact .refl _

theorem dropItem_completed (i : SlotId) (s : State) : Completed s (dropItem i s) := by
  unfold dropItem
  split
  · exact (countPass_completed _ _ _).after (.of_eq rfl rfl)
  · split
    · split
      · exact (countPass_completed _ _ _).after (.of_eq rfl rfl)
      · exact .refl _
    · exact .refl _

theorem leaveCollections_completed (i : SlotId) (e : Event) (s : State) : Completed s (leaveCollections i e s) := by
  unfold leaveCollections
  split
  · exact .refl _
  · split
    · exact .of_eq (by simp) (by simp)
    · exact .refl _
  · exact (dropItem_completed i s).trans (.of_eq rfl rfl)
  · refine .of_eq ?_ ?_ <;> simp only [] <;> split <;> split <;> simp [dropStarted]

theorem stopSlot_completed (i : SlotId) (e : Event) (s : State) : Completed s (stopSlot i e s) :=
  (leaveCollections_completed i e s).trans (enterDormant_completed i _)

/-- A completion taken with its entry on the outstanding list: what it does, whole (R123, R151). -/
theorem completeOwed_mem {r : CommandRingId} {o : Owed} {st : Status} {res : Result} {s : State} {k : NoticeRingId}
    (h : o ∈ s.intake.rings[r].outstanding) (hb : s.intake.rings[r].bound? = some k) :
    completeOwed r o st res s =
      setNotice k (s.notices[k].answered (.completion r st o.ident o.takeIndex res))
        (setRing r { s.intake.rings[r] with outstanding := s.intake.rings[r].outstanding.erase o } s) := by
  have hu : ∀ (n : Notice) (t : State), useReservation k n t = setNotice k (t.notices[k].answered n) t := by
    intro n t
    rw [← handed_answered]
    unfold useReservation
    simp only []
    split <;> rfl
  simp only [completeOwed, if_pos h, handCompletion]
  have : (setRing r { s.intake.rings[r] with outstanding := s.intake.rings[r].outstanding.erase o } s).intake.rings[r].bound?
      = some k := by
    rw [setRing_get, if_pos rfl]
    exact hb
  simp only [this, hu]
  rfl

/-! ### The WAITs that a dormancy ends -/

theorem completeOwed_wait (r q : CommandRingId) (o : Owed) (st : Status) (res : Result) (s : State) :
    (completeOwed r o st res s).intake.rings[q].wait = s.intake.rings[q].wait := by
  unfold completeOwed
  split
  · simp only [(handCompletion_frame _ _ _ _ _ _).2.1]
    rw [setRing_get]
    split
    · rename_i h; subst h; rfl
    · rfl
  · rfl

theorem endWaitOn_wait (i : SlotId) (s : State) (r q : CommandRingId) :
    (endWaitOn i s r).intake.rings[q].wait =
      if q = r then s.intake.rings[q].wait.filter fun w => w.slot ≠ i else s.intake.rings[q].wait := by
  unfold endWaitOn
  by_cases hq : q = r
  · subst hq
    rw [if_pos rfl]
    split
    · rename_i w hw
      by_cases hi : w.slot = i
      · rw [if_pos hi]
        unfold endWait
        rw [completeOwed_wait, setRing_get, if_pos rfl, hw]
        simp [Option.filter, hi]
      · rw [if_neg hi, hw]
        simp [Option.filter, hi]
    · rename_i hw
      rw [hw]
      rfl
  · rw [if_neg hq]
    split
    · split
      · unfold endWait
        rw [completeOwed_wait, setRing_get, if_neg hq]
      · rfl
    · rfl

/-- The dormancy of slot `i` ends every WAIT on it and no other (R153). -/
theorem reportDormant_waits (i : SlotId) (s : State) : WaitsOver i s (reportDormant i s) := by
  intro q
  simp only [reportDormant, List.foldl]
  rw [endWaitOn_wait, endWaitOn_wait, endWaitOn_wait, endWaitOn_wait]
  have : ∀ q : CommandRingId, q = 0 ∨ q = 1 ∨ q = 2 ∨ q = 3 := by decide
  obtain rfl | rfl | rfl | rfl := this q <;> simp

/-! ### The ends of deferred completions, exactly -/

/-- Between `s` and `t` only command rings and notice rings differ. -/
structure RingsOnly (s t : State) : Prop where
  blocks : t = { s with intake := t.intake, notices := t.notices }
  intake : t.intake = { s.intake with rings := t.intake.rings }

theorem RingsOnly.trans {s t u : State} (a : RingsOnly s t) (b : RingsOnly t u) : RingsOnly s u := by
  refine ⟨?_, ?_⟩
  · have h := b.blocks
    rw [a.blocks] at h
    exact h
  · have h := b.intake
    rw [a.intake] at h
    exact h

/-- Such states are equal when their rings are. -/
theorem RingsOnly.eq {s t u : State} (a : RingsOnly s t) (b : RingsOnly s u)
    (hr : ∀ q : CommandRingId, t.intake.rings[q] = u.intake.rings[q])
    (hn : ∀ k : NoticeRingId, t.notices[k] = u.notices[k]) : t = u := by
  have hr' : t.intake.rings = u.intake.rings := Vector.ext fun i hi => hr ⟨i, hi⟩
  have hn' : t.notices = u.notices := Vector.ext fun i hi => hn ⟨i, hi⟩
  have hi : t.intake = u.intake := by rw [a.intake, b.intake, hr']
  rw [a.blocks, b.blocks, hi, hn']

theorem completeOwed_only (r : CommandRingId) (o : Owed) (st : Status) (x : Result) (s : State) :
    RingsOnly s (completeOwed r o st x s) := by
  unfold completeOwed handCompletion
  split
  · split
    · rw [useReservation_notices]; exact ⟨rfl, rfl⟩
    · exact ⟨rfl, rfl⟩
  · exact ⟨rfl, rfl⟩

theorem completeOwed_ring (r q : CommandRingId) (o : Owed) (st : Status) (x : Result) (s : State) :
    (completeOwed r o st x s).intake.rings[q] =
      if q = r then { s.intake.rings[r] with outstanding := s.intake.rings[r].outstanding.erase o }
      else s.intake.rings[q] := by
  unfold completeOwed handCompletion
  split
  · split
    · rw [useReservation_notices, ← setRing_get]
    · rw [setRing_get]
  · rename_i ho
    rw [List.erase_of_not_mem ho]
    split
    · rename_i h; subst h; rfl
    · rfl

theorem completeOwed_notice (r : CommandRingId) (j : NoticeRingId) (o : Owed) (st : Status) (x : Result) (s : State) :
    (completeOwed r o st x s).notices[j] =
      if o ∈ s.intake.rings[r].outstanding ∧ s.intake.rings[r].bound? = some j then
        s.notices[j].answered (.completion r st o.ident o.takeIndex x)
      else s.notices[j] := by
  unfold completeOwed
  by_cases ho : o ∈ s.intake.rings[r].outstanding
  · rw [if_pos ho]
    have h : (setRing r { s.intake.rings[r] with outstanding := s.intake.rings[r].outstanding.erase o } s).intake.rings[r].bound?
        = s.intake.rings[r].bound? := by rw [setRing_get, if_pos rfl]; rfl
    unfold handCompletion
    rw [h]
    cases hb : s.intake.rings[r].bound? with
    | none => simp [setRing]
    | some k =>
      simp only [ho, true_and]
      rw [useReservation_get]
      by_cases hj : j = k
      · subst hj; rw [if_pos rfl, if_pos rfl]; rfl
      · rw [if_neg hj, if_neg fun a => hj (Option.some.inj a).symm]; rfl
  · rw [if_neg ho, if_neg fun a => ho a.1]

/-- The end of a deferred completion, whether or not its entry stands (R151). -/
theorem completeOwed_eq (r : CommandRingId) (o : Owed) (st : Status) (x : Result) (s : State) :
    completeOwed r o st x s = owedEnded r o (.completion r st o.ident o.takeIndex x) s := by
  refine (completeOwed_only r o st x s).eq ⟨rfl, rfl⟩ (fun q => ?_) fun j => ?_
  · rw [completeOwed_ring]
    exact (setRing_get r q _ s).symm
  · rw [completeOwed_notice]
    simp [owedEnded]

theorem endPass_eq (p : Pass) (st : Status) (s : State) : endPass p st s = passEnded p st s := completeOwed_eq _ _ _ _ _

/-- The end of a pass item (R98). -/
theorem countPass_eq (m : Bool) (f : Pass → Pass) (s : State) : countPass m f s = itemEnded m f s := by
  unfold countPass itemEnded notePass
  cases s.resolver.pass with
  | none => rfl
  | some p =>
    show (if m then (if _ then endPass (f p) .ok s else _) else s) = _
    rw [endPass_eq]

/-! ### The dormancy report, exactly -/

theorem handed_append (a b : List Notice) (x : NoticeRing) : x.handed (a ++ b) = (x.handed a).handed b :=
  List.foldl_append

/-- The completion that the dormancy report of slot `i` brings from ring `r` to notice ring `j`, if any (R153). -/
def waitCompletion (i : SlotId) (x : Result) (s : State) (j : NoticeRingId) (r : CommandRingId) : Option Notice :=
  s.intake.rings[r].wait.bind fun w =>
    if w.slot = i ∧ s.intake.rings[r].bound? = some j ∧
        { kind := .wait, ident := w.ident, takeIndex := w.takeIndex } ∈ s.intake.rings[r].outstanding then
      some (.completion r .ok w.ident w.takeIndex x)
    else none

theorem waitCompletions_eq (i : SlotId) (x : Result) (s : State) (j : NoticeRingId) :
    waitCompletions i x s j =
      (waitCompletion i x s j 0).toList ++ ((waitCompletion i x s j 1).toList ++
        ((waitCompletion i x s j 2).toList ++ (waitCompletion i x s j 3).toList)) := by
  have h : List.finRange 4 = [(0 : CommandRingId), 1, 2, 3] := by decide
  have hc : ∀ (f : CommandRingId → Option Notice) (a : CommandRingId) (l : List CommandRingId),
      (a :: l).filterMap f = (f a).toList ++ l.filterMap f := by
    intro f a l
    rw [List.filterMap_cons]
    cases f a <;> rfl
  show (List.finRange 4).filterMap (waitCompletion i x s j) = _
  rw [h, hc, hc, hc, hc, List.filterMap_nil, List.append_nil]

theorem endWait_ring (r q : CommandRingId) (w : WaitInFlight) (st : Status) (s : State) :
    (endWait r w st s).intake.rings[q] =
      if q = r then
        { s.intake.rings[r] with
          wait := none, state := servedState s.intake.rings[r] s
          outstanding := s.intake.rings[r].outstanding.erase { kind := .wait, ident := w.ident, takeIndex := w.takeIndex } }
      else s.intake.rings[q] := by
  unfold endWait
  rw [completeOwed_ring, setRing_get, if_pos rfl, setRing_get]
  split <;> rfl

theorem servedState_eq (r : CommandRingId) (s : State) :
    servedState s.intake.rings[r] s = if s.boundFaulted r then .stalled else .active := by
  unfold servedState State.boundFaulted
  cases s.intake.rings[r].bound? <;> simp

theorem endWaitOn_only (i : SlotId) (r : CommandRingId) (s : State) : RingsOnly s (endWaitOn i s r) := by
  unfold endWaitOn endWait
  simp only []
  split
  · split
    · exact RingsOnly.trans (t := setRing r _ s) ⟨rfl, rfl⟩ (completeOwed_only _ _ _ _ _)
    · exact ⟨rfl, rfl⟩
  · exact ⟨rfl, rfl⟩

theorem endWaitOn_ring (i : SlotId) (r q : CommandRingId) (s : State) :
    (endWaitOn i s r).intake.rings[q] =
      if q = r then s.intake.rings[r].reported i (s.boundFaulted r) else s.intake.rings[q] := by
  unfold endWaitOn CommandRing.reported
  cases hw : s.intake.rings[r].wait with
  | none =>
    simp only []
    split
    · rename_i h; subst h; rfl
    · rfl
  | some w =>
    simp only []
    by_cases hi : w.slot = i
    · rw [if_pos hi, if_pos hi, endWait_ring, servedState_eq]
    · rw [if_neg hi, if_neg hi]
      split
      · rename_i h; subst h; rfl
      · rfl

theorem endWaitOn_notice (i : SlotId) (r : CommandRingId) (j : NoticeRingId) (s : State) :
    (endWaitOn i s r).notices[j] =
      s.notices[j].handed (waitCompletion i (s.slots[i].result false) s j r).toList := by
  unfold endWaitOn waitCompletion
  cases hw : s.intake.rings[r].wait with
  | none => rfl
  | some w =>
    simp only [Option.bind_some]
    by_cases hi : w.slot = i
    · subst hi
      rw [if_pos rfl]
      simp only [endWait, true_and]
      rw [completeOwed_notice, setRing_get, if_pos rfl]
      show (if { kind := OwedKind.wait, ident := w.ident, takeIndex := w.takeIndex } ∈ s.intake.rings[r].outstanding ∧
          s.intake.rings[r].bound? = some j then
        s.notices[j].answered (.completion r .ok w.ident w.takeIndex (s.slots[w.slot].result false)) else s.notices[j]) = _
      by_cases hc : { kind := OwedKind.wait, ident := w.ident, takeIndex := w.takeIndex } ∈ s.intake.rings[r].outstanding ∧
          s.intake.rings[r].bound? = some j
      · rw [if_pos hc, if_pos hc.symm]; rfl
      · rw [if_neg hc, if_neg fun a => hc a.symm]; rfl
    · rw [if_neg hi]
      simp [hi, NoticeRing.handed]

/-- The dormancy report of slot `i`, exactly (R7, R151, R153). -/
theorem reportDormant_eq (i : SlotId) (s : State) : reportDormant i s = reported i (s.slots[i].result false) s := by
  have hslots : ∀ (t : State) (r : CommandRingId), (endWaitOn i t r).slots = t.slots := fun t r => by
    rw [(endWaitOn_only i r t).blocks]
  have hstate : ∀ (t : State) (r : CommandRingId) (j : NoticeRingId),
      (endWaitOn i t r).notices[j].state = t.notices[j].state := fun t r j => by
    rw [endWaitOn_notice, handed_state]
  have hother : ∀ (t : State) (r q : CommandRingId), q ≠ r → (endWaitOn i t r).intake.rings[q] = t.intake.rings[q] :=
    fun t r q h => by rw [endWaitOn_ring, if_neg h]
  have hfault : ∀ (t : State) (r q : CommandRingId), q ≠ r → (endWaitOn i t r).boundFaulted q = t.boundFaulted q :=
    fun t r q h => by simp only [State.boundFaulted, hother t r q h, hstate]
  have hwait : ∀ (t : State) (r q : CommandRingId) (x : Result) (j : NoticeRingId), q ≠ r →
      waitCompletion i x (endWaitOn i t r) j q = waitCompletion i x t j q :=
    fun t r q x j h => by simp only [waitCompletion, hother t r q h]
  simp only [reportDormant, List.foldl]
  refine ((((endWaitOn_only i 0 s).trans (endWaitOn_only i 1 _)).trans (endWaitOn_only i 2 _)).trans
    (endWaitOn_only i 3 _)).eq ⟨rfl, rfl⟩ (fun q => ?_) fun j => ?_
  · have hq : ∀ q : CommandRingId, q = 0 ∨ q = 1 ∨ q = 2 ∨ q = 3 := by decide
    have hr : (reported i (s.slots[i].result false) s).intake.rings[q] =
        s.intake.rings[q].reported i (s.boundFaulted q) := by simp [reported]
    rw [hr]
    obtain rfl | rfl | rfl | rfl := hq q <;>
      simp only [endWaitOn_ring, hfault _ _ _ (by decide : (1 : CommandRingId) ≠ 0),
        hfault _ _ _ (by decide : (2 : CommandRingId) ≠ 0), hfault _ _ _ (by decide : (2 : CommandRingId) ≠ 1),
        hfault _ _ _ (by decide : (3 : CommandRingId) ≠ 0), hfault _ _ _ (by decide : (3 : CommandRingId) ≠ 1),
        hfault _ _ _ (by decide : (3 : CommandRingId) ≠ 2)] <;> rfl
  · have hn : (reported i (s.slots[i].result false) s).notices[j] =
        s.notices[j].handed (waitCompletions i (s.slots[i].result false) s j) := by simp [reported]
    rw [hn, waitCompletions_eq, handed_append, handed_append, handed_append]
    simp only [endWaitOn_notice, hslots, hwait _ _ _ _ _ (by decide : (1 : CommandRingId) ≠ 0),
        hwait _ _ _ _ _ (by decide : (2 : CommandRingId) ≠ 0), hwait _ _ _ _ _ (by decide : (2 : CommandRingId) ≠ 1),
        hwait _ _ _ _ _ (by decide : (3 : CommandRingId) ≠ 0), hwait _ _ _ _ _ (by decide : (3 : CommandRingId) ≠ 1),
        hwait _ _ _ _ _ (by decide : (3 : CommandRingId) ≠ 2)]

end Sys2Proof.Machine
end

