-- ==== Sys2Proof/Laws/Ops.lean ====
section
/-! SUPPORT. The shared operations in the words of the statements: ticks, the timeline, memory, and the calendar's
arithmetic. -/

namespace Sys2Proof.Machine

open Sys2Proof

/-! ### Ticks -/

theorem satTick_toNat (t : Tick) (n : Nat) : (satTick t n).toNat = min (t.toNat + n) (2 ^ 64 - 1) := by
  simp only [satTick, Config.maxTick, BitVec.toNat_ofNat]
  omega

theorem satTick_eq {t x : Tick} {n : Nat} (h : x.toNat = min (t.toNat + n) (2 ^ 64 - 1)) : satTick t n = x :=
  BitVec.eq_of_toNat_eq (by rw [satTick_toNat, h])

theorem nextSequenceAfter_counted (q : BitVec 64) : nextSequenceAfter q = counted q := by
  apply BitVec.eq_of_toNat_eq
  rw [nextSequenceAfter, satTick_toNat, counted]
  split
  · rename_i h; subst h; decide
  · rename_i h
    have : q.toNat ≠ 2 ^ 64 - 1 := fun e => h (BitVec.eq_of_toNat_eq (by rw [e]; decide))
    have := q.isLt
    simp only [BitVec.toNat_add, BitVec.ofNat_eq_ofNat, BitVec.toNat_ofNat]
    omega

/-- What counting makes of a boundary tick: one that the timebase has reached joins those due, and the next lies a second
later; else nothing changes (R74). -/
theorem noteBoundary_cases (u : TimeUnit) :
    (u.timebase.toNat < u.nextBoundary ∧ u.noteBoundary = u) ∨
      (u.nextBoundary ≤ u.timebase.toNat ∧
        u.noteBoundary =
          { u with nextBoundary := u.nextBoundary + second, dueBoundaries := u.dueBoundaries ++ [u.nextBoundary] }) := by
  unfold TimeUnit.noteBoundary
  split
  · exact .inr ⟨by assumption, rfl⟩
  · exact .inl ⟨by omega, rfl⟩

@[simp] theorem noteBoundary_frame (u : TimeUnit) :
    u.noteBoundary.timebase = u.timebase ∧ u.noteBoundary.trim = u.trim ∧
      u.noteBoundary.accumulator = u.accumulator ∧ u.noteBoundary.pendingTrim = u.pendingTrim ∧
      u.noteBoundary.anchorTick = u.anchorTick ∧ u.noteBoundary.anchorSecond = u.anchorSecond := by
  obtain ⟨-, h⟩ | ⟨-, h⟩ := noteBoundary_cases u <;> rw [h] <;> exact ⟨rfl, rfl, rfl, rfl, rfl, rfl⟩

/-- What a step makes of the time: the timebase moves, and a boundary beyond it that the step crosses applies the trim
once (R74, R77, R78). -/
theorem stepTime_cases (d : BitVec 64) (s : State) :
    (s.time.timebase + d).toNat < s.time.nextBoundary ∧
        stepTime d s = { s with time := { s.time with timebase := s.time.timebase + d } } ∨
      s.time.nextBoundary ≤ (s.time.timebase + d).toNat ∧
        stepTime d s =
          applyTrim (s.time.secondAt (s.time.timebase + d).toNat)
            { s with time :=
              { s.time with
                timebase := s.time.timebase + d
                nextBoundary := s.time.boundaryAfter (s.time.timebase + d).toNat } } := by
  unfold stepTime
  simp only [TimeUnit.crosses, decide_eq_true_eq]
  split
  · exact .inr ⟨by assumption, rfl⟩
  · exact .inl ⟨by omega, rfl⟩

/-! ### Slot results and fetches -/

theorem result_of_event {x : Slot} {e : Event} (h : x.event = some e) (b : Bool) :
    x.result b =
      .slot
        { state := x.stateCode, generation := x.generation, remaining := e.remaining, expiry := x.expiry?
          noticePending := x.noticePending, expiryApplied := b, triggerLine := e.defn.triggerLine
          calendarKind := e.defn.isCalendar, firingsDone := e.firingsDone } := by
  simp [Slot.result, Slot.row, Slot.triggerLine?, h]

theorem nextFetch_of_config {x : CommandRing} {c : CommandConfig} (h : x.config = some c) :
    x.nextFetch = { place := x.take, address := c.base.toNat + 64 * x.take, discarded := false } := by
  simp [CommandRing.nextFetch, CommandRing.addressOf, h]

/-! ### The timeline -/

theorem insertEntry_placed (e : Entry) (l : List Entry) : insertEntry e l = placed e l := by
  induction l with
  | nil => rfl
  | cons x l ih =>
    unfold insertEntry
    split
    · rename_i h
      simp [placed, Nat.not_le.mpr h]
    · rename_i h
      rw [ih]
      simp [placed, Nat.not_lt.mp h]

theorem setRun_event {i : SlotId} {s : State} {e : Event} (h : s.slots[i].event = some e) (r : Run) :
    setRun i r s = setSlot i { s.slots[i] with event := some { e with run := r } } s := by
  simp only [setRun, h]
  rfl

/-- Arming a loaded slot (R25). -/
theorem arm_armedAt {i : SlotId} {s : State} {e : Event} (h : s.slots[i].event = some e) (x : Tick) :
    arm i x s = armedAt i e x s := by
  simp only [arm, setRun, h, insertEntry_placed, nextSequenceAfter_counted]
  rfl

/-! ### Memory -/

theorem Memory.write_address {a : Nat} {v : Byte} {m : Memory} {c : Host.Cell} (h : c ∈ Memory.write a v m) :
    c.1 = a ∨ c ∈ m := by
  induction m with
  | nil => simp only [Memory.write, List.mem_singleton] at h; exact .inl (by rw [h])
  | cons d m ih =>
    unfold Memory.write at h
    split at h
    · rcases List.mem_cons.mp h with h | h
      · exact .inl (by rw [h])
      · exact .inr h
    · split at h
      · rcases List.mem_cons.mp h with h | h
        · exact .inl (by rw [h])
        · exact .inr (List.mem_cons_of_mem _ h)
      · rcases List.mem_cons.mp h with h | h
        · exact .inr (by rw [h]; exact List.mem_cons_self)
        · rcases ih h with h | h
          · exact .inl h
          · exact .inr (List.mem_cons_of_mem _ h)

/-- A write keeps the canonical form. -/
theorem Memory.write_wf (a : Nat) (v : Byte) {m : Memory} (h : Memory.wf m) : Memory.wf (Memory.write a v m) := by
  induction m with
  | nil => exact List.pairwise_singleton _ _
  | cons c m ih =>
    obtain ⟨hc, hm⟩ := List.pairwise_cons.mp h
    unfold Memory.write
    split
    · rename_i ha
      refine List.pairwise_cons.mpr ⟨fun d hd => ?_, h⟩
      rcases List.mem_cons.mp hd with rfl | hd
      · exact ha
      · exact Nat.lt_trans ha (hc d hd)
    · split
      · rename_i ha
        exact List.pairwise_cons.mpr ⟨fun d hd => ha ▸ hc d hd, hm⟩
      · rename_i h1 h2
        refine List.pairwise_cons.mpr ⟨fun d hd => ?_, ih hm⟩
        rcases Memory.write_address hd with hd | hd
        · omega
        · exact hc d hd

theorem Memory.writeBytes_wf (a : Nat) (f : Nat → Byte) (n : Nat) {m : Memory} (h : Memory.wf m) :
    Memory.wf (Memory.writeBytes a f n m) := by
  induction n with
  | zero => exact h
  | succ n ih => exact Memory.write_wf _ _ ih

theorem Memory.writeRecord_wf (q : Queued) {m : Memory} (h : Memory.wf m) : Memory.wf (Memory.writeRecord q m) :=
  Memory.writeBytes_wf _ _ _ h

theorem Memory.spoilRecord_wf (q : Queued) (n : Nat) {m : Memory} (h : Memory.wf m) :
    Memory.wf (Memory.spoilRecord q n m) :=
  Memory.writeBytes_wf _ _ _ h

/-- A read after a write gives the byte written at its address, and what was there elsewhere. -/
theorem Memory.read_write (a b : Nat) (v : Byte) (m : Memory) :
    Memory.read (Memory.write a v m) b = if b = a then some v else Memory.read m b := by
  induction m with
  | nil =>
    by_cases h : b = a
    · simp [Memory.write, Memory.read, h]
    · simp [Memory.write, Memory.read, h, Ne.symm h]
  | cons c m ih =>
    unfold Memory.write
    by_cases h1 : a < c.1
    · rw [if_pos h1]
      by_cases h : b = a
      · simp [Memory.read, h]
      · simp [Memory.read, h, Ne.symm h]
    · rw [if_neg h1]
      by_cases h2 : a = c.1
      · rw [if_pos h2]
        by_cases h : b = a
        · simp [Memory.read, h]
        · simp [Memory.read, h, Ne.symm h, ← h2]
      · rw [if_neg h2]
        by_cases h3 : c.1 = b
        · have : b ≠ a := fun h => h2 (h ▸ h3.symm)
          simp [Memory.read, this, h3]
        · simp only [Memory.read, List.find?_cons] at ih ⊢
          simp only [h3, decide_false]
          exact ih

/-- A read after a run of bytes is written. -/
theorem Memory.read_writeBytes (a : Nat) (f : Nat → Byte) (n b : Nat) (m : Memory) :
    Memory.read (Memory.writeBytes a f n m) b = if a ≤ b ∧ b < a + n then some (f (b - a)) else Memory.read m b := by
  induction n with
  | zero => rw [if_neg (by omega)]; rfl
  | succ n ih =>
    unfold Memory.writeBytes
    rw [Memory.read_write, ih]
    by_cases h : b = a + n
    · subst h
      rw [if_pos rfl, if_pos (by omega)]
      congr 2
      omega
    · rw [if_neg h]
      by_cases hb : a ≤ b ∧ b < a + n
      · rw [if_pos hb, if_pos (by omega)]
      · rw [if_neg hb, if_neg (by omega)]

end Sys2Proof.Machine
end

