-- ==== Sys2Proof/Laws/Serve.lean ====
section
/-! SUPPORT. What serving the free places of a notice ring can do, said once (R124, R127 to R129, R145). -/

namespace Sys2Proof.Machine

open Sys2Proof

/-- A command ring whose request was granted (R145). -/
def CommandRing.granted (x : CommandRing) : CommandRing :=
  { x with requestOutstanding := false, fetchReservation := true, state := .active }

/-- A slot whose listed notice was posted or discarded. -/
def Slot.unlisted (x : Slot) : Slot := { x with noticePending := false }

/-- A capture line whose held record was posted or discarded. -/
def CaptureLine.unlisted (x : CaptureLine) : CaptureLine := { x with held := none, lost := 0 }

/-- Whether a source on a deferred list yields a record when it is posted. -/
def Deferred.posts (d : Deferred) (s : State) : Bool :=
  match d with
  | .slot _ _ => true
  | .line c => s.capture.lines[c].held.isSome
  | .system _ _ => true

/-- Between `s` and `t` the sources `posted` left the deferred list of ring `k` and were posted, and nothing else
happened. -/
structure PostedFrom (k : NoticeRingId) (posted : List Deferred) (s t : State) : Prop where
  blocks : t = { s with slots := t.slots, capture := t.capture, notices := t.notices }
  others : ∀ j : NoticeRingId, j ≠ k → t.notices[j] = s.notices[j]
  own : t.notices[k] =
    { s.notices[k] with
      deferred := t.notices[k].deferred, writeIndex := t.notices[k].writeIndex, phase := t.notices[k].phase
      occupied := t.notices[k].occupied, queue := t.notices[k].queue }
  deferred : s.notices[k].deferred = posted ++ t.notices[k].deferred
  queue : ∃ l : List Queued, t.notices[k].queue = s.notices[k].queue ++ l ∧
    t.notices[k].occupied = s.notices[k].occupied + l.length ∧ l.length ≤ posted.length
  room : s.notices[k].occupied + s.notices[k].reserved ≤ s.notices[k].size →
    t.notices[k].occupied + s.notices[k].reserved ≤ s.notices[k].size
  slots : ∀ i : SlotId, t.slots[i] =
    if i ∈ posted.filterMap Deferred.slot? then (s.slots[i]).unlisted else s.slots[i]
  lines : ∀ c : CaptureId, t.capture.lines[c] =
    if c ∈ posted.filterMap Deferred.line? ∧ s.capture.lines[c].held.isSome = true then (s.capture.lines[c]).unlisted
    else s.capture.lines[c]
  suppressed : t.capture.suppressed = s.capture.suppressed

theorem PostedFrom.refl (k : NoticeRingId) (s : State) : PostedFrom k [] s s :=
  ⟨rfl, fun _ _ => rfl, rfl, rfl, ⟨[], by simp, by simp, by simp⟩, id, fun _ => by simp, fun _ => by simp, rfl⟩

theorem PostedFrom.trans {k : NoticeRingId} {a b : List Deferred} {s t u : State} (h : PostedFrom k a s t)
    (g : PostedFrom k b t u) : PostedFrom k (a ++ b) s u := by
  have hr : t.notices[k].reserved = s.notices[k].reserved := by rw [h.own]
  have hz : t.notices[k].size = s.notices[k].size := by rw [h.own]; rfl
  refine ⟨?_, fun j hj => (g.others j hj).trans (h.others j hj), ?_, ?_, ?_, ?_, ?_, ?_,
    g.suppressed.trans h.suppressed⟩
  · rw [g.blocks, h.blocks]
  · rw [g.own, h.own]
  · rw [h.deferred, g.deferred, List.append_assoc]
  · obtain ⟨l, h1, h2, h3⟩ := h.queue
    obtain ⟨m, g1, g2, g3⟩ := g.queue
    exact ⟨l ++ m, by rw [g1, h1, List.append_assoc], by rw [g2, h2, List.length_append, Nat.add_assoc],
      by simp only [List.length_append]; omega⟩
  · intro hs
    have := g.room
    rw [hr, hz] at this
    exact this (h.room hs)
  · intro i
    rw [g.slots, h.slots, List.filterMap_append]
    by_cases ha : i ∈ a.filterMap Deferred.slot? <;> by_cases hb : i ∈ b.filterMap Deferred.slot? <;>
      simp [-List.mem_filterMap, ha, hb, Slot.unlisted]
  · intro c
    have hc := h.lines c
    rw [g.lines, List.filterMap_append]
    by_cases ha : c ∈ a.filterMap Deferred.line? <;> by_cases hb : c ∈ b.filterMap Deferred.line? <;>
      by_cases hh : s.capture.lines[c].held.isSome = true <;>
      simp [-List.mem_filterMap, -Fin.getElem_fin, ha, hb, hh] at hc ⊢ <;>
      simp [-List.mem_filterMap, -Fin.getElem_fin, hc, hh, CaptureLine.unlisted]

theorem takePlace_own (n : Notice) (x : NoticeRing) :
    x.takePlace n = { x with writeIndex := (x.takePlace n).writeIndex, phase := (x.takePlace n).phase,
                             occupied := x.occupied + 1, queue := (x.takePlace n).queue } := rfl

theorem takePlace_queue (n : Notice) (x : NoticeRing) :
    ∃ q : Queued, (x.takePlace n).queue = x.queue ++ [q] ∧ q.notice = n ∧ q.place = x.writeIndex ∧ q.phase = x.phase :=
  ⟨_, rfl, rfl, rfl, rfl⟩

/-- The head of the deferred list is posted (R124 step 1). -/
theorem postDeferred_head {k : NoticeRingId} {d : Deferred} {ds : List Deferred} {s : State}
    (hd : s.notices[k].deferred = d :: ds) (hr : s.notices[k].hasRoom = true) :
    PostedFrom k [d] s (postDeferred k d (setNotice k { s.notices[k] with deferred := ds } s)) := by
  have room : s.notices[k].occupied + s.notices[k].reserved < s.notices[k].size := by
    simpa [NoticeRing.hasRoom] using hr
  have posted : ∀ (n : Notice) (t : State),
      t.notices = (postNotice k n (setNotice k { s.notices[k] with deferred := ds } s)).notices →
      (∀ j : NoticeRingId, j ≠ k → t.notices[j] = s.notices[j]) ∧
      t.notices[k] = NoticeRing.takePlace n { s.notices[k] with deferred := ds } := by
    intro n t h
    refine ⟨fun j hj => ?_, ?_⟩
    · simp only [h, postNotice, setNotice_get, if_neg hj]
    · simp only [h, postNotice, setNotice_get, if_true]
  have place : ∀ (n : Notice) (t : State),
      t.notices = (postNotice k n (setNotice k { s.notices[k] with deferred := ds } s)).notices →
      t = { s with slots := t.slots, capture := t.capture, notices := t.notices } →
      (∀ i : SlotId, t.slots[i] = if i ∈ [d].filterMap Deferred.slot? then (s.slots[i]).unlisted else s.slots[i]) →
      (∀ c : CaptureId, t.capture.lines[c] =
        if c ∈ [d].filterMap Deferred.line? ∧ s.capture.lines[c].held.isSome = true then (s.capture.lines[c]).unlisted
        else s.capture.lines[c]) →
      t.capture.suppressed = s.capture.suppressed → PostedFrom k [d] s t := by
    intro n t h hb hs hl hp
    obtain ⟨ho, hk⟩ := posted n t h
    refine ⟨hb, ho, ?_, ?_, ?_, ?_, hs, hl, hp⟩
    · rw [hk]; rfl
    · rw [hk, hd]; rfl
    · rw [hk]; exact ⟨[_], rfl, rfl, by simp⟩
    · intro _
      have : t.notices[k].occupied = s.notices[k].occupied + 1 := by rw [hk]; rfl
      omega
  unfold postDeferred
  cases d with
  | slot i p =>
    refine place (firingNotice i p.posted _) _ rfl ?_ ?_ ?_ ?_
    · ext1 <;> simp
    · intro j
      simp only [setNoticePending]
      rw [setSlot_get]
      by_cases hj : j = i
      · subst hj; simp [Deferred.slot?, Slot.unlisted]
      · simp [Deferred.slot?, hj]
    · intro c; simp [Deferred.line?]
    · simp
  | line c =>
    simp only [setNotice_frame]
    split
    · rename_i h hh
      refine place (.edge c h.direction h.timestamp h.sequence s.capture.lines[c].lost) _ rfl ?_ ?_ ?_ ?_
      · ext1 <;> simp
      · intro j; simp [Deferred.slot?]
      · intro e
        rw [setCapture_get]
        by_cases he : e = c
        · subst he; simp [Deferred.line?, CaptureLine.unlisted, hh, -Fin.getElem_fin]
        · simp [Deferred.line?, he]
      · simp
    · rename_i hh
      refine ⟨?_, ?_, ?_, ?_, ?_, ?_, ?_, ?_, ?_⟩
      · ext1 <;> simp
      · intro j hj; rw [setNotice_get, if_neg hj]
      · rw [setNotice_get, if_pos rfl]
      · rw [setNotice_get, if_pos rfl, hd]; rfl
      · rw [setNotice_get, if_pos rfl]; exact ⟨[], by simp, by simp, by simp⟩
      · intro h; simp only [setNotice_get, if_true]; exact h
      · intro j; simp [Deferred.slot?]
      · intro e
        by_cases he : e = c
        · subst he; simp [Deferred.line?, hh, -Fin.getElem_fin]
        · simp [Deferred.line?, he]
      · simp
  | system n lost =>
    refine place (.system (atPosting n _) lost) _ rfl ?_ ?_ ?_ ?_
    · ext1 <;> simp
    · intro j; simp [Deferred.slot?]
    · intro c; simp [Deferred.line?]
    · simp

/-- The deferred sources that are posted while a ring is ACTIVE with room. -/
theorem serveDeferred_cases (k : NoticeRingId) (n : Nat) (s : State) :
    ∃ posted, PostedFrom k posted s (serveDeferred k n s) ∧
      (posted ≠ [] → s.notices[k].state = .active) ∧
      (s.notices[k].deferred.length ≤ n → s.notices[k].state = .active →
        (serveDeferred k n s).notices[k].hasRoom = true → (serveDeferred k n s).notices[k].deferred = []) := by
  induction n generalizing s with
  | zero =>
    refine ⟨[], .refl k s, fun h => absurd rfl h, fun h _ _ => ?_⟩
    exact List.eq_nil_of_length_eq_zero (Nat.le_zero.mp h)
  | succ n ih =>
    obtain ⟨l, h⟩ : ∃ l, s.notices[k].deferred = l := ⟨_, rfl⟩
    cases l with
    | nil =>
      have e : serveDeferred k (n + 1) s = s := by simp only [serveDeferred, h]
      rw [e]
      exact ⟨[], .refl k s, fun h => absurd rfl h, fun _ _ _ => h⟩
    | cons d ds =>
      have e : serveDeferred k (n + 1) s =
          if (decide (s.notices[k].state = .active) && s.notices[k].hasRoom) = true then
            serveDeferred k n (postDeferred k d (setNotice k { s.notices[k] with deferred := ds } s))
          else s := by
        simp only [serveDeferred, h]
      rw [e]
      by_cases hc : (decide (s.notices[k].state = .active) && s.notices[k].hasRoom) = true
      · rw [if_pos hc]
        rw [Bool.and_eq_true, decide_eq_true_eq] at hc
        have head := postDeferred_head h hc.2
        obtain ⟨posted, tail, act, all⟩ := ih (postDeferred k d (setNotice k { s.notices[k] with deferred := ds } s))
        refine ⟨[d] ++ posted, head.trans tail, fun _ => hc.1, fun hl ha hr => all ?_ ?_ hr⟩
        · have e := congrArg List.length head.deferred
          rw [List.length_append, List.length_singleton] at e
          omega
        · rw [head.own]; exact ha
      · rw [if_neg hc]
        refine ⟨[], .refl k s, fun h => absurd rfl h, fun _ ha hr => ?_⟩
        rw [ha, hr] at hc
        simp at hc

/-- Between `s` and `t` the requests `granted` left the request list of ring `k`, each with its reservation, and
nothing else happened. -/
structure GrantedFrom (k : NoticeRingId) (granted : List CommandRingId) (s t : State) : Prop where
  blocks : t = { s with intake := { s.intake with rings := t.intake.rings }, notices := t.notices }
  others : ∀ j : NoticeRingId, j ≠ k → t.notices[j] = s.notices[j]
  own : t.notices[k] =
    { s.notices[k] with reserved := s.notices[k].reserved + granted.length, requests := t.notices[k].requests }
  requests : s.notices[k].requests = granted ++ t.notices[k].requests
  room : s.notices[k].occupied + s.notices[k].reserved ≤ s.notices[k].size →
    s.notices[k].occupied + t.notices[k].reserved ≤ s.notices[k].size
  rings : ∀ q : CommandRingId, t.intake.rings[q] =
    if q ∈ granted then (s.intake.rings[q]).granted else s.intake.rings[q]

theorem GrantedFrom.refl (k : NoticeRingId) (s : State) : GrantedFrom k [] s s :=
  ⟨rfl, fun _ _ => rfl, rfl, rfl, id, fun _ => by simp⟩

theorem GrantedFrom.trans {k : NoticeRingId} {a b : List CommandRingId} {s t u : State} (h : GrantedFrom k a s t)
    (g : GrantedFrom k b t u) : GrantedFrom k (a ++ b) s u := by
  have ho : t.notices[k].occupied = s.notices[k].occupied := by rw [h.own]
  have hz : t.notices[k].size = s.notices[k].size := by rw [h.own]; rfl
  refine ⟨?_, fun j hj => (g.others j hj).trans (h.others j hj), ?_, ?_, ?_, ?_⟩
  · rw [g.blocks, h.blocks]
  · rw [g.own, h.own]
    simp [Nat.add_assoc]
  · rw [h.requests, g.requests, List.append_assoc]
  · intro hs
    have := g.room
    rw [ho, hz] at this
    exact this (h.room hs)
  · intro q
    rw [g.rings, h.rings]
    by_cases ha : q ∈ a <;> by_cases hb : q ∈ b <;> simp [ha, hb, CommandRing.granted]

/-- The head request is granted (R124 step 2). -/
theorem grantRequest_head {k : NoticeRingId} {r : CommandRingId} {rs : List CommandRingId} {s : State}
    (hd : s.notices[k].requests = r :: rs) (hr : s.notices[k].hasRoom = true) :
    GrantedFrom k [r] s (grantRequest k r rs s) := by
  have room : s.notices[k].occupied + s.notices[k].reserved < s.notices[k].size := by
    simpa [NoticeRing.hasRoom] using hr
  have hk : (grantRequest k r rs s).notices[k] =
      { s.notices[k] with reserved := s.notices[k].reserved + 1, requests := rs } := by
    simp only [grantRequest, setRing_frame, setNotice_get, if_true]
  refine ⟨?_, fun j hj => ?_, ?_, ?_, ?_, fun q => ?_⟩
  · ext1 <;> simp [grantRequest, setRing]
  · simp only [grantRequest, setRing_frame, setNotice_get, if_neg hj]
  · rw [hk]; rfl
  · rw [hk, hd]; rfl
  · intro _
    have : (grantRequest k r rs s).notices[k].reserved = s.notices[k].reserved + 1 := by rw [hk]
    omega
  · rw [grantRequest, setRing_get]
    by_cases hq : q = r
    · subst hq; simp [CommandRing.granted]
    · simp [hq]

/-- The requests that are granted while a ring is ACTIVE with room and an empty deferred list. -/
theorem serveRequests_cases (k : NoticeRingId) (n : Nat) (s : State) :
    ∃ granted, GrantedFrom k granted s (serveRequests k n s) ∧
      (granted ≠ [] → s.notices[k].state = .active ∧ s.notices[k].deferred = []) ∧
      (s.notices[k].requests.length ≤ n →
        (serveRequests k n s).notices[k].takesOffer = true → (serveRequests k n s).notices[k].requests = []) := by
  induction n generalizing s with
  | zero =>
    refine ⟨[], .refl k s, fun h => absurd rfl h, fun h _ => ?_⟩
    exact List.eq_nil_of_length_eq_zero (Nat.le_zero.mp h)
  | succ n ih =>
    obtain ⟨l, h⟩ : ∃ l, s.notices[k].requests = l := ⟨_, rfl⟩
    cases l with
    | nil =>
      have e : serveRequests k (n + 1) s = s := by simp only [serveRequests, h]
      rw [e]
      exact ⟨[], .refl k s, fun h => absurd rfl h, fun _ _ => h⟩
    | cons r rs =>
      have e : serveRequests k (n + 1) s =
          if s.notices[k].takesOffer = true then serveRequests k n (grantRequest k r rs s) else s := by
        simp only [serveRequests, h]
      rw [e]
      by_cases hc : s.notices[k].takesOffer = true
      · rw [if_pos hc]
        have hc' : s.notices[k].state = .active ∧ s.notices[k].hasRoom = true ∧ s.notices[k].deferred = [] := by
          simpa [NoticeRing.takesOffer, and_assoc] using hc
        have head := grantRequest_head h hc'.2.1
        obtain ⟨granted, tail, act, all⟩ := ih (grantRequest k r rs s)
        refine ⟨[r] ++ granted, head.trans tail, fun _ => ⟨hc'.1, hc'.2.2⟩, fun hl hr => all ?_ hr⟩
        have e := congrArg List.length head.requests
        rw [List.length_append, List.length_singleton] at e
        omega
      · rw [if_neg hc]
        exact ⟨[], .refl k s, fun h => absurd rfl h, fun _ hr => absurd hr hc⟩

/-- All that serving the free places of ring `k` does: sources leave the head of the deferred list and are posted;
then, with the list empty, requests leave the head of the request list with a reservation each. -/
theorem serve_cases (k : NoticeRingId) (s : State) :
    ∃ t posted granted, PostedFrom k posted s t ∧ GrantedFrom k granted t (serve k s) ∧
      (posted ≠ [] → s.notices[k].state = .active) ∧
      (granted ≠ [] → s.notices[k].state = .active ∧ t.notices[k].deferred = []) ∧
      ((serve k s).notices[k].takesOffer = true → (serve k s).notices[k].requests = []) := by
  obtain ⟨posted, hp, ha, -⟩ := serveDeferred_cases k s.notices[k].deferred.length s
  obtain ⟨granted, hg, hb, hc⟩ := serveRequests_cases k
    (serveDeferred k s.notices[k].deferred.length s).notices[k].requests.length
    (serveDeferred k s.notices[k].deferred.length s)
  refine ⟨_, posted, granted, hp, hg, ha, fun h => ?_, hc (Nat.le_refl _)⟩
  obtain ⟨h1, h2⟩ := hb h
  rw [hp.own] at h1
  exact ⟨h1, h2⟩

end Sys2Proof.Machine
end

