-- ==== Sys2Proof/Tests/Slice0.lean ====
section
/-! SUPPORT. Small tests, with expected values from the spec's examples, and for every statement with hypotheses a
witness: a concrete state and operands that meet all of them together. -/

namespace Sys2Proof.Tests

open Sys2Proof Sys2Proof.Machine

set_option Elab.async false

/-! ### Small states -/

def noticeConfig : NoticeConfig := { base := 0x1000, size := 16, threshold := 4, holdoff := 500000, enabled := true }

def commandConfig : CommandConfig := { base := 0x8000, size := 16, bound := 0, burst := 2, enabled := true }

def freshNotice : NoticeRing := { NoticeRing.reset with config := some noticeConfig, state := .active }

def freshRing : CommandRing := { CommandRing.reset with config := some commandConfig, state := .active }

/-- RUNNING, every ring configured and empty. -/
def running : State :=
  { State.reset with
    control := { Control.reset with core := .running }
    intake := { Intake.reset with rings := Vector.replicate 4 freshRing }
    notices := Vector.replicate 2 freshNotice }

/-- With a live fetch of CR0 in flight and its reservation on NR0. -/
def fetching (s : State) : State :=
  setNotice 0 { s.notices[(0 : NoticeRingId)] with reserved := 1 }
    (setRing 0
      { s.intake.rings[(0 : CommandRingId)] with
        post := 1, fetch := some { place := 0, address := 0x8000, discarded := false } } s)

/-- With slot 5 loaded, at generation 3. -/
def withEvent (e : Event) (s : State) : State := setSlot 5 { generation := 3, noticePending := false, event := some e } s

def at5 : Header := { ident := 0x1234, slot := 5, generation := 3 }

def definition (timing : Timing) : Definition :=
  { timing, repeatCount := 5, policy := .every, ring := 1, tag := 0xAB, actions := [.toggle 7] }

def event (timing : Timing) (run : Run) : Event :=
  { defn := definition timing, run, remaining := some 5, firingsDone := 0 }

/-- Every second of every minute. -/
def anySecond : Pattern := { second := none, minute := none, hour := none, day := none, month := none, weekday := none }

def live : State := fetching running

/-- Slot 5 with an event of this timing and run, under a live fetch. -/
def liveWith (timing : Timing) (run : Run) : State := withEvent (event timing run) live

def absolute : Timing := .tick .absolute 5000000 100

theorem fetching_of {s : State} {r : CommandRingId} {k : NoticeRingId}
    (h : s.fetchingRing = some r ∧ s.intake.rings[r].fetch.elim false Fetch.discarded = false ∧
      s.intake.rings[r].bound? = some k) : Fetching s r k :=
  ⟨h.1, h.2.1, h.2.2⟩

/-- The state that a command answers. -/
def after (c : Instr) (s : State) : State :=
  match exec c s with
  | .next t => t
  | .fault _ => s
  | .refused _ => s

/-! ### Well-formedness -/

theorem test_register_write_of_no_byte_is_ill_formed : (Instr.registerWrite 0 0 0).wellFormed = false := by decide

theorem test_register_write_of_five_bytes_is_ill_formed :
    WellFormed.atMostWord 5 = false ∧ (Instr.registerWrite 0 0 5).wellFormed = false := by decide

theorem test_register_write_across_registers_is_ill_formed : (Instr.registerWrite 2 0 4).wellFormed = false := by decide

theorem test_register_write_of_a_word_is_well_formed : (Instr.registerWrite 0x3C 0 4).wellFormed = true := by decide

theorem test_no_word_spells_a_command : decodeTableWord 8 5 = none := by decide

/-! ### Slot commands -/

def word (kind target level divider : Byte) (value : BitVec 32) : ActionWord := { kind, target, level, divider, value }

/-- RELATIVE with a delay of 1,000, period 0, repeat count 1, EVERY, NR1, one DRIVE of OUT3 (section 1.12). -/
def loadFields : LoadFields :=
  { kind := 0, startMode := 1, triggerMode := 0, triggerLine := 0, policy := 0, ring := 1, actionCount := 1, tag := 7,
    area := 1000, period := 0, repeatCount := 1,
    words := #v[word 1 3 1 0 0, word 0 0 0 0 0, word 0 0 0 0 0, word 0 0 0 0 0] }

def relativeDefinition : Definition :=
  { timing := .tick .relative 1000 0, repeatCount := 1, policy := .every, ring := 1, tag := 7, actions := [.drive 3 .high] }

def at12 (generation : BitVec 8) : Header := { ident := 1, slot := 12, generation }

def slot12 (s : State) : Slot := s.slots[(12 : SlotId)]

/-- Slot 12 of section 1.12 at generation 1, with these run fields, under a live fetch at tick `t`. -/
def using12 (t : Tick) (run : Run) (remaining : Option Nat) (firingsDone : Nat) : State :=
  let s := setSlot 12
    { generation := 1, noticePending := false
      event := some { defn := relativeDefinition, run, remaining, firingsDone } } live
  { s with time := { TimeUnit.reset with timebase := t } }

/-- Section 1.12, step 1. -/
theorem test_load_example :
    slot12 (after (.load (at12 0) loadFields) live) =
      { generation := 1, noticePending := false
        event := some { defn := relativeDefinition, run := .dormant, remaining := none, firingsDone := 0 } } := by
  decide +kernel

/-- Section 1.12, step 2. -/
theorem test_start_example :
    (slot12 (after (.start (at12 1)) (using12 5000000 .dormant none 0))).event.map (fun e => (e.run, e.remaining)) =
      some (.armed 5001000 0, some 1) := by decide +kernel

/-- Section 1.12 before step 3, with OUT3 enabled. -/
def before3 : State :=
  setLine 3 { safe := .low, mode := .held .low }
    { using12 5001000 (.armed 5001000 0) (some 1) 0 with
      timeline := { entries := [{ slot := 12, expiry := 5001000, sequence := 0, haltedOver := false }], nextSequence := 1
                    lateThreshold := 0 } }

/-- Section 1.12, step 3: DORMANT, LAST, remaining 1. -/
theorem test_firing_example :
    (slot12 (after .firing before3)).event.map (fun e => (e.run, e.firingsDone, e.remaining)) = some (.dormant, 1, some 1) ∧
      ((after .firing before3).notices[(1 : NoticeRingId)].queue.map fun q => q.notice) =
        [.firing 12 1 7
          { expiry := 5001000, fire := 5001000, count := 1, overruns := 0, mask := 0
            flags := { late := false, last := true, coalesced := false, actionFailed := false, haltedOver := false
                       missed := false, noMatch := false } }] := by decide +kernel

/-- Section 1.12, step 4: ALREADY_STOPPED, and the slot unchanged. -/
theorem test_stop_example :
    slot12 (after (.stop (at12 1)) (using12 0 .dormant (some 1) 1)) = slot12 (using12 0 .dormant (some 1) 1) := by
  decide +kernel

/-- Section 1.12, step 5. -/
theorem test_unload_example :
    slot12 (after (.unload (at12 1)) (using12 0 .dormant (some 1) 1)) =
      { generation := 1, noticePending := false, event := none } := by decide +kernel

def retimeNothing : RetimeFields := { start := none, period := none, expiry := none }

/-- A START, a STOP, a RETIME, an UNLOAD and a QUERY of slot 5 in their first two refusals, and each command's own. -/
theorem witness_Refused :
    Fetching (liveWith absolute .dormant) 0 0 ∧
      (liveWith absolute .dormant).slots[at5.slot].event = some (event absolute .dormant) ∧
      live.slots[at5.slot].event = none ∧ definitionOf { loadFields with area := 2 ^ 40 + 1 } = none ∧
      (liveWith absolute .dormant).slots[at5.slot].generation = at5.generation ∧
      (liveWith absolute .dormant).slots[at5.slot].generation ≠ 2 ∧
      ({ event absolute .dormant with run := .waiting } : Event).run ≠ .dormant ∧
      (event (.calendar anySecond) .dormant).defn.timing = .calendar anySecond ∧
      32 ≤ ({ liveWith (.calendar anySecond) .dormant with
                resolver := { Resolver.reset with started := 32 } } : State).resolver.started ∧
      (setNoticePending 5 true (liveWith absolute .dormant)).slots[at5.slot].noticePending = true :=
  ⟨fetching_of (by decide +kernel), by decide +kernel⟩

theorem witness_RefusedRetime :
    ¬retimeAllowed { retimeNothing with period := some 99 } .absolute 5 ∧
      ¬retimeAllowed { retimeNothing with start := some (2 ^ 40 + 1) } .relative 5 ∧
      ¬retimeAllowed { retimeNothing with period := some 0 } .absolute 2 :=
  ⟨fun h => absurd (h.2 99 rfl) (by unfold periodAllowed; decide),
    fun h => absurd (h.1 (2 ^ 40 + 1) rfl) (by unfold startAllowed; decide),
    fun h => absurd (h.2 0 rfl) (by unfold periodAllowed; decide)⟩

/-- Each of the checks of R8, R12, R15, R17 and R19, the first that fails deciding. -/
theorem test_refusals :
    let status (c : Instr) (s : State) := (after c s).notices[(0 : NoticeRingId)].queue.map fun q =>
      match q.notice with
      | .completion _ st _ _ _ => some st
      | .firing _ _ _ _ => none
      | .edge _ _ _ _ _ => none
      | .system _ _ => none
    let calendar := liveWith (.calendar anySecond) .dormant
    status (.load at5 { loadFields with kind := 3 }) (liveWith absolute .dormant) = [some .slotBusy] ∧
      status (.load at5 { loadFields with kind := 3 }) live = [some .badParam] ∧
      status (.query { at5 with generation := 2 }) live = [some .notLoaded] ∧
      status (.retime { at5 with generation := 2 } retimeNothing) calendar = [some .stale] ∧
      status (.start at5) { calendar with resolver := { Resolver.reset with started := 32 } } = [some .calendarFull] ∧
      status (.retime at5 { retimeNothing with period := some 99 }) calendar = [some .wrongKind] ∧
      status (.unload at5) (setNoticePending 5 true (liveWith absolute .waiting)) = [some .notDormant] ∧
      status (.unload at5) (setNoticePending 5 true calendar) = [some .noticePending] := by decide +kernel

/-- R10: the bounds of a delay, a period, its repeat count and an action count. -/
theorem test_definition_bounds :
    (definitionOf { loadFields with area := 2 ^ 40 }).isSome = true ∧ definitionOf { loadFields with period := 99 } = none ∧
      (definitionOf { loadFields with period := 100, repeatCount := 0 }).isSome = true ∧
      definitionOf { loadFields with repeatCount := 2 } = none ∧ definitionOf { loadFields with actionCount := 5 } = none ∧
      definitionOf { loadFields with policy := 3 } = none ∧ definitionOf { loadFields with startMode := 3 } = none := by
  decide +kernel

/-- R10, Table 10-4: a CALENDAR definition with second 59, day 31 and month 2; a weekday of 0 is out of range. -/
theorem test_pattern :
    let calendar := { loadFields with kind := 1, startMode := 3 }
    definitionOf { calendar with area := 0x0000_FF_02_1F_FF_FF_3B } =
        some { relativeDefinition with
               timing := .calendar { anySecond with second := some 59, day := some 31, month := some 2 } } ∧
      definitionOf { calendar with area := 0x0000_00_FF_FF_FF_FF_FF } = none := by decide +kernel

/-- R11, Table 10-6: the bounds of a line, a width, a density value and a divider code. -/
theorem test_action_word_bounds :
    actionOf (word 2 16 0 0 0) = none ∧ actionOf (word 1 0 2 0 0) = none ∧ actionOf (word 3 15 0 0 0) = none ∧
      actionOf (word 3 15 1 9 0x1000000) = some (.pulse 15 .high 16777216) ∧ actionOf (word 3 15 1 0 0x1000001) = none ∧
      actionOf (word 4 0 0 7 65536) = some (.density 0 { value := 65536, code := 7 }) ∧
      actionOf (word 4 0 0 7 65537) = none ∧ actionOf (word 4 0 0 8 0) = none ∧
      actionOf (word 6 255 9 9 9) = some (.stop 255) ∧ actionOf (word 8 0 0 0 0) = none := by decide +kernel

theorem witness_Fetching : Fetching live 0 0 := fetching_of (by decide +kernel)

theorem witness_FetchingWith : Fetching (liveWith absolute .dormant) 0 0 := fetching_of (by decide +kernel)

theorem witness_Load :
    Fetching live 0 0 ∧ live.slots[at5.slot].event = none ∧ definitionOf loadFields = some relativeDefinition :=
  ⟨fetching_of (by decide +kernel), by decide +kernel⟩

def startable (timing : Timing) : Prop :=
  (liveWith timing .dormant).slots[at5.slot].event = some (event timing .dormant) ∧
    (liveWith timing .dormant).slots[at5.slot].generation = at5.generation

theorem witness_StartAbsolute : Fetching (liveWith absolute .dormant) 0 0 ∧ startable absolute :=
  ⟨fetching_of (by decide +kernel), by unfold startable; decide +kernel⟩

theorem witness_StartRelative :
    Fetching (liveWith (.tick .relative 1000 100) .dormant) 0 0 ∧ startable (.tick .relative 1000 100) :=
  ⟨fetching_of (by decide +kernel), by unfold startable; decide +kernel⟩

theorem witness_StartTrigger :
    Fetching (liveWith (.tick (.trigger 2 .retrigger) 0 100) .dormant) 0 0 ∧ startable (.tick (.trigger 2 .retrigger) 0 100) :=
  ⟨fetching_of (by decide +kernel), by unfold startable; decide +kernel⟩

/-- 31 CALENDAR slots are started already. -/
def liveCalendar : State :=
  { liveWith (.calendar anySecond) .dormant with resolver := { Resolver.reset with started := 31 } }

theorem witness_StartCalendar :
    Fetching liveCalendar 0 0 ∧ liveCalendar.slots[at5.slot].event = some (event (.calendar anySecond) .dormant) ∧
      liveCalendar.slots[at5.slot].generation = at5.generation ∧ liveCalendar.resolver.started < 32 :=
  ⟨fetching_of (by decide +kernel), by decide +kernel⟩

def retimeAll : RetimeFields := { start := some 6000000, period := some 100, expiry := some 7000000 }

theorem retimeAll_allowed : retimeAllowed retimeAll .absolute 5 :=
  ⟨fun _ _ => .inl rfl, by rintro p ⟨⟩; exact .inr (by decide)⟩

theorem witness_RetimeKept :
    Fetching (liveWith absolute .dormant) 0 0 ∧
      (liveWith absolute .dormant).slots[at5.slot].event = some (event absolute .dormant) ∧
      (liveWith absolute .dormant).slots[at5.slot].generation = at5.generation ∧
      (event absolute .dormant).defn.timing = .tick .absolute 5000000 100 ∧
      retimeAllowed retimeAll .absolute (event absolute .dormant).defn.repeatCount ∧
      (event absolute .dormant).run.isArmed = false :=
  ⟨fetching_of (by decide +kernel), by decide +kernel, by decide +kernel, rfl, retimeAll_allowed, rfl⟩

def liveArmed : State :=
  { liveWith absolute (.armed 5000000 0) with
    timeline := { entries := [{ slot := 5, expiry := 5000000, sequence := 0, haltedOver := false }], nextSequence := 1
                  lateThreshold := 0 } }

theorem witness_RetimeMoved :
    Fetching liveArmed 0 0 ∧ liveArmed.slots[at5.slot].event = some (event absolute (.armed 5000000 0)) ∧
      liveArmed.slots[at5.slot].generation = at5.generation ∧ retimeAll.expiry = some 7000000 ∧
      (event absolute (.armed 5000000 0)).run.isArmed = true ∧
      retimeAllowed retimeAll .absolute (event absolute (.armed 5000000 0)).defn.repeatCount :=
  ⟨fetching_of (by decide +kernel), by decide +kernel, by decide +kernel, rfl, rfl, retimeAll_allowed⟩

/-- R18: the new expiry takes the slot out of the timeline and inserts it again. -/
theorem test_retime :
    (after (.retime at5 retimeAll) liveArmed).timeline.entries =
      [{ slot := 5, expiry := 7000000, sequence := 1, haltedOver := false }] := by decide +kernel

theorem witness_UnloadAndQuery :
    Fetching (liveWith absolute .dormant) 0 0 ∧ startable absolute ∧
      (liveWith absolute .dormant).slots[at5.slot].noticePending = false :=
  ⟨fetching_of (by decide +kernel), by unfold startable; decide +kernel, by decide +kernel⟩

/-- R176, Table 10-12: STOP and QUERY report the trigger line of the definition on a DORMANT slot. -/
theorem test_trigger_line :
    let result (c : Instr) (run : Run) :=
      (after c (liveWith (.tick (.trigger 2 .once) 0 100) run)).notices[(0 : NoticeRingId)].queue.map fun q => q.notice
    let dormant : SlotResult :=
      { state := 1, generation := 3, remaining := some 5, expiry := none, noticePending := false, expiryApplied := false
        triggerLine := some 2, calendarKind := false, firingsDone := 0 }
    result (.stop at5) .waiting = [.completion 0 .ok 0x1234 1 (.slot dormant)] ∧
      result (.query at5) .dormant = [.completion 0 .ok 0x1234 1 (.slot dormant)] := by
  decide +kernel

def itemOf (i : SlotId) (member : Bool) : Item := { slot := i, base := 0, beginTick := 0, member }

def passOf (placed stopped : Nat) : Pass :=
  { ring := 1, ident := 50, takeIndex := 1, anchorTick := 0, anchorSecond := 0, placed, matched := 0, noMatch := 0, stopped }

/-- Slot 5 RESOLVING with its item on the queue, the last of a pass. -/
def liveQueued (member : Bool) : State :=
  { liveWith (.calendar anySecond) .resolving with
    resolver := { queue := [itemOf 5 member], work := none, started := 1, pass := some (passOf 2 1) } }

/-- Slot 5 RESOLVING with its item under resolution. -/
def liveWorked (member : Bool) : State :=
  { liveWith (.calendar anySecond) .resolving with
    resolver := { queue := [], work := some { item := itemOf 5 member, abandoned := false }, started := 1
                  pass := some (passOf 2 0) } }

theorem witness_StopArmed :
    Fetching liveArmed 0 0 ∧ liveArmed.slots[at5.slot].event = some (event absolute (.armed 5000000 0)) ∧
      liveArmed.slots[at5.slot].generation = at5.generation ∧ (event absolute (.armed 5000000 0)).run ≠ .dormant :=
  ⟨fetching_of (by decide +kernel), by decide +kernel⟩

theorem witness_StopQueued :
    Fetching (liveQueued true) 0 0 ∧
      (liveQueued true).slots[at5.slot].event = some (event (.calendar anySecond) .resolving) ∧
      (liveQueued true).slots[at5.slot].generation = at5.generation ∧
      ((liveQueued true).resolver.queue.find? fun y => y.slot = at5.slot) = some (itemOf 5 true) ∧
      (liveQueued true).resolver.pass = some (passOf 2 1) :=
  ⟨fetching_of (by decide +kernel), by decide +kernel⟩

theorem witness_StopWorked :
    Fetching (liveWorked false) 0 0 ∧
      (liveWorked false).slots[at5.slot].event = some (event (.calendar anySecond) .resolving) ∧
      (liveWorked false).slots[at5.slot].generation = at5.generation ∧
      (∀ y ∈ (liveWorked false).resolver.queue, y.slot ≠ at5.slot) ∧
      (liveWorked false).resolver.work = some { item := itemOf 5 false, abandoned := false } ∧
      (liveWorked true).resolver.work = some { item := itemOf 5 true, abandoned := false } ∧
      (liveWorked true).resolver.pass = some (passOf 2 0) :=
  ⟨fetching_of (by decide +kernel), by decide +kernel⟩

/-! ### The intake -/

theorem witness_WaitAtOnce :
    Fetching live 0 0 ∧ live.slots[at5.slot].event = none ∧
      (liveWith absolute .dormant).slots[at5.slot].event = some (event absolute .dormant) ∧
      (liveWith absolute .dormant).slots[at5.slot].generation ≠ (at12 4).generation ∧
      2 ^ 40 < (0x10000000001#64).toNat :=
  ⟨fetching_of (by decide +kernel), by decide +kernel⟩

theorem witness_WaitBlocks :
    Fetching liveArmed 0 0 ∧ liveArmed.slots[at5.slot].event = some (event absolute (.armed 5000000 0)) ∧
      liveArmed.slots[at5.slot].generation = at5.generation ∧ (0x10000000000#64).toNat ≤ 2 ^ 40 ∧
      (event absolute (.armed 5000000 0)).run ≠ .dormant :=
  ⟨fetching_of (by decide +kernel), by decide +kernel⟩

/-- R152 step 5. -/
theorem test_wait_blocks :
    (after (.wait at5 1000000) liveArmed).intake.rings[(0 : CommandRingId)].state = .blocked ∧
      (after (.wait at5 1000000) liveArmed).intake.rings[(0 : CommandRingId)].wait.map WaitInFlight.deadline =
        some (some 1000000) := by decide +kernel

def waitOf : WaitInFlight := { slot := 5, generation := 3, deadline := some 1000000, ident := 9, takeIndex := 1 }

def owedWait : Owed := { kind := .wait, ident := 9, takeIndex := 1 }

/-- CR0 BLOCKED on slot 5, at the deadline. -/
def blocked : State :=
  setNotice 0 { freshNotice with reserved := 1 }
    (setRing 0 { freshRing with state := .blocked, wait := some waitOf, outstanding := [owedWait], take := 1, post := 2 }
      { withEvent (event absolute (.armed 5000000 0)) running with
        time := { running.time with timebase := 1000000 } })

theorem witness_Deadline :
    blocked.intake.rings[(0 : CommandRingId)].bound? = some 0 ∧
      blocked.intake.rings[(0 : CommandRingId)].wait = some waitOf ∧ waitOf.deadline = some 1000000 ∧
      (1000000#64).toNat ≤ blocked.time.timebase.toNat ∧ owedWait ∈ blocked.intake.rings[(0 : CommandRingId)].outstanding := by
  decide +kernel

theorem test_deadline :
    (after (.deadlineExpiry 0) blocked).intake.rings[(0 : CommandRingId)].state = .active ∧
      ((after (.deadlineExpiry 0) blocked).notices[(0 : NoticeRingId)].queue.map fun q => q.notice) =
        [.completion 0 .timedOut 9 1
          (.slot { state := 4, generation := 3, remaining := some 5, expiry := some 5000000, noticePending := false
                   expiryApplied := false, triggerLine := none, calendarKind := false, firingsDone := 0 })] := by
  decide +kernel

/-- R153: a STOP of slot 5 ends CR1's WAIT first, then completes. -/
theorem test_stop_ends_a_wait :
    let s := setRing 1
      { freshRing with state := .blocked, wait := some waitOf, outstanding := [owedWait], take := 1, post := 1 } liveArmed
    let t := after (.stop at5) s
    (t.notices[(0 : NoticeRingId)].queue.map fun q => q.notice) =
        waitCompletions 5 (stoppedResult 5 (event absolute (.armed 5000000 0)) s) s 0 ++
          [.completion 0 .ok 0x1234 1 (stoppedResult 5 (event absolute (.armed 5000000 0)) s)] ∧
      (waitCompletions 5 (stoppedResult 5 (event absolute (.armed 5000000 0)) s) s 0).length = 1 ∧
      t.intake.rings[(1 : CommandRingId)] = { freshRing with take := 1, post := 1 } := by decide +kernel

/-- With CR0's fetch to be discarded. -/
def discarding : State :=
  setRing 0
    { freshRing with post := 1, fetch := some { place := 0, address := 0x8000, discarded := true } } running

theorem witness_Discarded :
    discarding.fetchingRing = some 0 ∧
      discarding.intake.rings[(0 : CommandRingId)].fetch =
        some { place := 0, address := 0x8000, discarded := true } ∧
      discarding.intake.rings[(0 : CommandRingId)].state = .active ∧
      discarding.intake.rings[(0 : CommandRingId)].bound? = some 0 ∧
      (setNotice 0 { freshNotice with state := .faulted } discarding).notices[(0 : NoticeRingId)].state = .faulted := by
  decide +kernel

/-- R148, log entry 32: with its notice ring FAULTED the ring is STALLED where the discarded fetch ends. -/
theorem test_discarded_fetch :
    (after (.fetchEnd .busError 0)
        (setNotice 0 { freshNotice with state := .faulted } discarding)).intake.rings[(0 : CommandRingId)] =
      { freshRing with post := 1, state := .stalled } := by decide +kernel

theorem witness_GoodRead :
    commandOf (0x08 : CommandRecord) 0 = some .nop ∧ (0x10 : CommandRecord).extractLsb' 0 8 = (16 : BitVec 8) ∧
      Fetching live 0 0 :=
  ⟨by decide +kernel, by decide +kernel, fetching_of (by decide +kernel)⟩

/-- Tables 10-2 and 10-3: a START of slot 5, generation 3, identifier 1234h, written out byte by byte. -/
theorem test_start_record :
    headerOf (0x030512340002 : CommandRecord) = at5 ∧ commandOf (0x030512340002 : CommandRecord) 0 = some .start := by
  decide +kernel

/-- The record whose bytes these are, byte 00h first. -/
def recordOf (bytes : List Nat) : CommandRecord := BitVec.ofNat 512 (bytes.foldr (fun b n => b + 256 * n) 0)

/-- Tables 10-2 to 10-6: a LOAD of slot 5 written out byte by byte: TRIGGER with RETRIGGER on CAP2, LAST, NR1, two actions. -/
theorem test_load_record :
    let x := recordOf
      [0x01, 0, 0x34, 0x12, 5, 3, 0x58, 0x15, 0xAB, 0, 0, 0, 0, 0, 0, 0, 0xE8, 0x03, 0, 0, 0, 0, 0, 0, 100, 0, 0, 0, 0, 0,
        5, 0, 3, 5, 1, 0, 0xD0, 0x07, 0, 0, 4, 6, 0, 7, 0, 0, 1, 0]
    headerOf x = at5 ∧
      ((commandOf x 0).bind fun m =>
        match m with
        | .load d => definitionOf d
        | _ => none) =
        some
          { timing := .tick (.trigger 2 .retrigger) 1000 100, repeatCount := 5, policy := .last, ring := 1, tag := 0xAB
            actions := [.pulse 5 .high 2000, .density 6 { value := 65536, code := 7 }] } := by decide +kernel

/-- Table 10-4: a RETIME with flag bits 0 and 2, and a CAPTURE_SETUP of CAP2 with its pin high. -/
theorem test_retime_and_capture_records :
    commandOf (recordOf
        [0x04, 0x05, 0, 0, 5, 3, 0, 0, 0x40, 0x42, 0x0F, 0, 0, 0, 0, 0, 100, 0, 0, 0, 0, 0, 0, 0, 1, 0, 0, 0, 0, 0, 0, 0x80])
      0 = some (.retime { start := some 1000000, period := none, expiry := some 0x8000000000000001 }) ∧
    commandOf (recordOf [0x0F, 0, 0, 0, 0, 0, 0, 0, 2, 3, 4, 1, 0, 0xFF, 0xE8, 0x03]) 0x04 =
      some (.captureSetup { line := 2, mode := 3, qualify := 4, notify := 1, ring := 0, interval := 1000 } .high) := by
  decide +kernel

theorem witness_RecordLayouts :
    commandOf (recordOf [0x0E, 0, 0, 0, 0, 0, 0, 0, 1, 5, 1, 0]) 0 = some (.lineForce (word 1 5 1 0 0)) ∧
      live.intake.rings[(0 : CommandRingId)].config = some commandConfig ∧
      live.intake.rings[(0 : CommandRingId)].take < commandConfig.size ∧
      live.intake.rings[(0 : CommandRingId)].post < commandConfig.size := by decide +kernel

theorem witness_FetchError :
    Fetching live 0 0 ∧ live.control.core = .running ∧ (0 : CommandRingId) ∉ live.notices[(0 : NoticeRingId)].requests ∧
      live.notices[(0 : NoticeRingId)].deferred = [] ∧ live.notices[(0 : NoticeRingId)].requests = [] ∧
      live.notices[(0 : NoticeRingId)].state = .active ∧
      live.notices[(0 : NoticeRingId)].occupied + live.notices[(0 : NoticeRingId)].reserved
        < live.notices[(0 : NoticeRingId)].size ∧
      ∀ q : CommandRingId, q ≠ 0 → live.intake.rings[q].eligible = false :=
  ⟨fetching_of (by decide +kernel), by decide +kernel⟩

theorem test_fetch_error :
    (after (.fetchEnd .busError 0) live).intake.rings[(0 : CommandRingId)].state = .faulted ∧
      (after (.fetchEnd .busError 0) live).control.fault = true := by decide +kernel

theorem witness_PostIndex :
    running.control.resetAsserted = false ∧ running.intake.rings[(1 : CommandRingId)].config = some commandConfig ∧
      (15#32).toNat < commandConfig.size ∧ State.reset.control.resetAsserted = false ∧
      State.reset.intake.rings[(1 : CommandRingId)].config = none := by decide +kernel

/-- Section 7.10 at step 5: places 14 and 15 of NR1 written and not released. -/
def twoWritten : State :=
  setNotice 1
    { freshNotice with writeIndex := 0, releaseIndex := 14, phase := false, occupied := 2, written := [1000100, 1200100] }
    { running with time := { running.time with timebase := 1500100 } }

theorem witness_BadIndex :
    running.control.resetAsserted = false ∧ running.intake.rings[(3 : CommandRingId)].config = some commandConfig ∧
      commandConfig.size ≤ (16#32).toNat ∧ (0x28#8).toNat = 0x1C + 4 * (3 : CommandRingId).val ∧
      twoWritten.notices[(1 : NoticeRingId)].config = some noticeConfig ∧ noticeConfig.size = 16 ∧
      twoWritten.notices[(1 : NoticeRingId)].occupied < (1 + 16 - 14) % 16 ∧
      (0x30#8).toNat = 0x2C + 4 * (1 : NoticeRingId).val ∧ State.reset.notices[(1 : NoticeRingId)].config = none ∧
      (1#32) ≠ 0 := by decide +kernel

/-- Section 7.10, steps 5 to 7. -/
theorem test_release_example :
    (after (.holdoffExpiry 1) twoWritten).notices[(1 : NoticeRingId)].ready = true ∧
      (after (.releaseIndexWrite 1 0) (after (.holdoffExpiry 1) twoWritten)).notices[(1 : NoticeRingId)] =
        { freshNotice with phase := false } ∧
      (after (.releaseIndexWrite 1 3)
        (after (.releaseIndexWrite 1 0) (after (.holdoffExpiry 1) twoWritten))).control.badIndex = true := by decide +kernel

/-- CR1 with one command pending, and the turn with CR0, whose burst is spent. -/
def turnSpent : State :=
  let s := setRing 1 { freshRing with post := 1 } (setRing 0 { freshRing with post := 3, take := 2 } running)
  { s with intake := { s.intake with turn := 0, count := 2 } }

/-- The same with one command of the burst left. -/
def turnKept : State := { turnSpent with intake := { turnSpent.intake with count := 1 } }

theorem witness_Turns :
    turnSpent.fetchingRing = none ∧ (settle turnSpent).fetchingRing = some 1 ∧
      turnKept.fetchingRing = none ∧ (settle turnKept).fetchingRing = some 0 ∧ turnKept.intake.turn = 0 ∧
      turnKept.intake.rings[(0 : CommandRingId)].config = some commandConfig ∧
      turnKept.intake.rings[(0 : CommandRingId)].eligible = true ∧ turnKept.intake.turnOver = false ∧
      turnKept.intake.count < commandConfig.burst ∧ turnKept.notices[commandConfig.bound].state = .active ∧
      turnKept.notices[commandConfig.bound].occupied + turnKept.notices[commandConfig.bound].reserved
        < turnKept.notices[commandConfig.bound].size ∧
      turnKept.notices[commandConfig.bound].deferred = [] ∧ turnKept.notices[commandConfig.bound].requests = [] ∧
      ∀ q : CommandRingId, running.intake.rings[q].eligible = false := by decide +kernel

/-- The turn passes to CR1, whose notice ring NR1 is full, with CR2 waiting behind it and room on NR0. -/
def turnRefused : State :=
  setNotice 1 { freshNotice with reserved := 16 }
    (setRing 2 { freshRing with post := 1 }
      (setRing 1 { freshRing with config := some { commandConfig with bound := 1 }, post := 1 } turnSpent))

/-- The same, but CR1 holds a reservation granted earlier. -/
def turnReserved : State :=
  setRing 1 { turnRefused.intake.rings[(1 : CommandRingId)] with fetchReservation := true } turnRefused

/-- Every case of the choice: the path busy, the turn kept, and the turn passed to a ring with a reservation, to one
granted at once and to one refused. -/
theorem witness_Choice :
    live.fetchingRing ≠ none ∧ turnSpent.intake.rings[(1 : CommandRingId)].config = some commandConfig ∧
      turnSpent.intake.rings[(1 : CommandRingId)].eligible = true ∧ ¬turnSpent.intake.count < commandConfig.burst ∧
      turnSpent.intake.rings[(1 : CommandRingId)].fetchReservation = false ∧ turnRefused.fetchingRing = none ∧
      turnRefused.intake.turn = 0 ∧ turnRefused.intake.rings[(1 : CommandRingId)].eligible = true ∧
      turnRefused.intake.rings[(2 : CommandRingId)].eligible = true ∧ turnRefused.intake.count = 2 ∧
      turnRefused.notices[(1 : NoticeRingId)].size = 16 ∧ turnReserved.fetchingRing = none ∧
      turnReserved.intake.rings[(1 : CommandRingId)].eligible = true := by decide +kernel

/-- R122, R143, R145: the ring refused is STALLED on its notice ring's request list, and the ring after it is fetched, with
the turn and count 0. -/
theorem test_refused_ring_is_passed_over :
    let t := settle turnRefused
    t.fetchingRing = some 2 ∧ t.intake.turn = 2 ∧ t.intake.count = 0 ∧ t.notices[(0 : NoticeRingId)].reserved = 1 ∧
      t.intake.rings[(1 : CommandRingId)].state = .stalled ∧
      t.intake.rings[(1 : CommandRingId)].requestOutstanding = true ∧
      t.notices[(1 : NoticeRingId)].requests = [1] ∧ t.notices[(1 : NoticeRingId)].reserved = 16 := by decide +kernel

/-- R144: a ring that holds a fetch reservation is fetched with it, though its notice ring is full. -/
theorem test_reservation_is_used :
    let t := settle turnReserved
    t.fetchingRing = some 1 ∧ t.intake.count = 0 ∧ t.intake.rings[(1 : CommandRingId)].fetchReservation = false ∧
      t.notices[(1 : NoticeRingId)].reserved = 16 := by decide +kernel

/-- R143: the good read of the turn ring counts, and leaves its turn over with no command left; that of another ring does
not count. -/
theorem test_good_read_counts :
    let s (r : CommandRingId) : State := { live with intake := { live.intake with turn := r, count := 1, turnOver := false } }
    (after (.nop at5) (s 0)).intake.count = 2 ∧ (after (.nop at5) (s 0)).intake.turnOver = true ∧
      (after (.nop at5) (s 1)).intake.count = 1 := by decide +kernel

/-- R146: the address is the base address + 64 × take index. -/
theorem test_fetch_address :
    (settle turnKept).intake.rings[(0 : CommandRingId)].fetch =
      some { place := 2, address := 0x8080, discarded := false } := by decide +kernel

/-! ### The time unit -/

/-- 2024-02-29 12:34:56 set at tick 5,000,000,000, and the timebase later (section 4.7). -/
def calendarAt (t : Tick) : TimeUnit :=
  { TimeUnit.reset with timebase := t, anchorTick := 5000000000, anchorSecond := 762525296 }

/-- Section 4.7, the table of READ_TIME. -/
theorem test_read_time_example :
    (calendarAt 5350000000).reading =
        { tick := 5350000000, year := 2024, month := 2, day := 29, hour := 12, minute := 34, second := 59, weekday := 4
          into := 50000000, trim := 0, pending := none } ∧
      (calendarAt 5700000000).reading =
        { tick := 5700000000, year := 2024, month := 2, day := 29, hour := 12, minute := 35, second := 3, weekday := 4
          into := 0, trim := 0, pending := none } := by decide +kernel

/-- Section 4.7: the reverse reading, and the wrap. -/
theorem test_calendar_example :
    calendarSecondOf { year := 2024, month := 2, day := 29, hour := 12, minute := 34, second := 56 } = some 762525296 ∧
      readSecond 12622780799 =
        { year := 2399, month := 12, day := 31, hour := 23, minute := 59, second := 59, weekday := 5 } := by decide +kernel

def pendingTrim (v : Int) : PendingTrim := { value := v, ring := 0, ident := 31, takeIndex := 1 }

def owedTrim : Owed := { kind := .trimRate, ident := 31, takeIndex := 1 }

/-- With a trim of CR0 pending and a live fetch, at a timebase of `t`, with these boundaries due. -/
def trimPending (t : Tick) (boundary : Nat) (due : List Nat) : State :=
  let s := setNotice 0 { freshNotice with reserved := 2 }
    (setRing 0
      { freshRing with
        take := 1, post := 2, outstanding := [owedTrim]
        fetch := some { place := 1, address := 0x8040, discarded := false } }
      running)
  { s with time :=
      { s.time with
        timebase := t, pendingTrim := some (pendingTrim (-500)), nextBoundary := boundary, dueBoundaries := due } }

/-- Counting has reached the boundary at 400,000,000, which is not taken yet. -/
def boundaryDue : State := trimPending 400000000 500000000 [400000000]

theorem witness_TrimRate :
    Fetching live 0 0 ∧ (0x00008000#32).toInt > 20000 ∧ (0xFFFFB1DF#32).toInt < -20000 ∧
      (trimPending 310000000 400000000 []).time.pendingTrim.isSome = true ∧ (0xFFFFFE0C#32).toInt = -500 ∧
      live.time.pendingTrim = none ∧ Fetching (trimPending 310000000 400000000 []) 0 0 :=
  ⟨fetching_of (by decide +kernel), by decide +kernel, by decide +kernel, by decide +kernel, by decide +kernel,
    by decide +kernel, fetching_of (by decide +kernel)⟩

theorem witness_SecondBoundary :
    boundaryDue.time.dueBoundaries = 400000000 :: [] ∧ boundaryDue.time.pendingTrim = some (pendingTrim (-500)) ∧
      owedTrim ∈ boundaryDue.intake.rings[(0 : CommandRingId)].outstanding ∧
      boundaryDue.intake.rings[(0 : CommandRingId)].bound? = some 0 ∧
      { owedTrim with takeIndex := 2 } ∉ boundaryDue.intake.rings[(0 : CommandRingId)].outstanding := by
  decide +kernel

/-- R74, R76: the boundary that is due applies the trim. R74, R77: a step that crosses no boundary leaves the one that
counting had reached, and the trim, as they were. -/
theorem test_due_boundary :
    (let t := after .secondBoundary boundaryDue
     t.time.trim = -500 ∧ t.time.dueBoundaries = [] ∧
       (t.notices[(0 : NoticeRingId)].queue.map fun q => q.notice) =
         [.completion 0 .ok 31 1 (.trim (-500) none 400000000 4)]) ∧
      (after (.stepTimebase at5 99999999) boundaryDue).time = { boundaryDue.time with timebase := 499999999 } := by
  decide +kernel

/-- Section 4.7, step 5: the completions of identifier 33 (here 31) and of the step, in that order. -/
theorem test_step_example :
    ((after (.stepTimebase { at5 with ident := 34 } 150000000) (trimPending 320000000 400000000 [])).notices[(0 : NoticeRingId)].queue.map
        fun q => q.notice) =
      [.completion 0 .ok 31 1 (.trim (-500) none 470000000 4),
        .completion 0 .ok 34 2 (.step 320000000 470000000 4 true)] := by decide +kernel

/-- With the trim's entry gone from its ring's outstanding list, the reservation given back (R151). -/
def trimOrphaned : State :=
  let s := trimPending 320000000 400000000 []
  setNotice 0 { freshNotice with reserved := 1 }
    (setRing 0 { s.intake.rings[(0 : CommandRingId)] with outstanding := [] } s)

/-- R151: the step's own completion stands alone. -/
theorem test_step_without_the_entry :
    let t := after (.stepTimebase { at5 with ident := 34 } 150000000) trimOrphaned
    t.time.trim = -500 ∧
      (t.notices[(0 : NoticeRingId)].queue.map fun q => q.notice) =
        [.completion 0 .ok 34 2 (.step 320000000 470000000 4 true)] := by decide +kernel

theorem witness_StepRefused :
    Fetching live 0 0 ∧ (0#64).toNat = 0 ∧ 2 ^ 40 < (0x10000000001#64).toNat ∧
      2 ^ 64 ≤ (BitVec.allOnes 64).toNat + (1#64).toNat :=
  ⟨fetching_of (by decide +kernel), by decide +kernel⟩

theorem witness_StepAccepted :
    Fetching (trimPending 320000000 400000000 []) 0 0 ∧ 1 ≤ (150000000#64).toNat ∧ (0x10000000000#64).toNat ≤ 2 ^ 40 ∧
      320000000 + (0x10000000000#64).toNat < 2 ^ 64 ∧
      (trimPending 320000000 400000000 []).time.nextBoundary ≤ 320000000 + (80000000#64).toNat ∧
      320000000 + (79999999#64).toNat < (trimPending 320000000 400000000 []).time.nextBoundary :=
  ⟨fetching_of (by decide +kernel), by decide +kernel⟩

theorem witness_ReferencePeriod :
    (State.reset).control.resetAsserted = false ∧ State.reset.time.trim = 0 ∧ 99979999 + (20000 : Int).natAbs < 100000000 ∧
      100000000 ≤ 99980000 + (-20000 : Int).natAbs ∧
      (State.reset.time.referencePeriod).timebase.toNat < State.reset.time.nextBoundary ∧
      State.reset.time.nextBoundary ≤ ({ TimeUnit.reset with timebase := 99999999 }.referencePeriod).timebase.toNat := by
  decide +kernel

/-- R73: the period at which the accumulator of a negative trim carries counts no tick. R74: the boundary that a period
reaches is due. -/
theorem test_reference_period :
    (TimeUnit.reset.referencePeriod).timebase = 1 ∧
      ({ TimeUnit.reset with trim := -20000, accumulator := 99980000 }.referencePeriod) =
        { TimeUnit.reset with trim := -20000, accumulator := 0 } ∧
      ({ TimeUnit.reset with timebase := 99999999 }.referencePeriod) =
        { TimeUnit.reset with timebase := 100000000, nextBoundary := 200000000, dueBoundaries := [100000000] } := by
  decide +kernel

theorem witness_SetCalendar :
    Fetching live 0 0 ∧
      calendarSecondOf { year := 2023, month := 2, day := 29, hour := 0, minute := 0, second := 0 } = none ∧
      calendarSecondOf { year := 2399, month := 12, day := 31, hour := 23, minute := 59, second := 59 } = some 12622780799 ∧
      live.resolver.pass = none :=
  ⟨fetching_of (by decide +kernel), by decide +kernel⟩

/-- One CALENDAR slot is started, with no pass. -/
def liveStarted : State :=
  { liveWith (.calendar anySecond) .resolving with
    resolver := { queue := [itemOf 5 false], work := none, started := 1, pass := none } }

def owedCalendar : Owed := { kind := .setCalendar, ident := 50, takeIndex := 1 }

/-- The pass of CR1's SET_CALENDAR is in flight over the slots of `s`. -/
def inPass (s : State) : State :=
  let t := setRing 1 { freshRing with outstanding := [owedCalendar] } s
  { t with resolver := { t.resolver with pass := some (passOf 2 0) } }

theorem witness_SetCalendarSupersedes :
    Fetching (inPass liveStarted) 0 0 ∧ (inPass liveStarted).resolver.pass = some (passOf 2 0) ∧
      startedSlots (inPass liveStarted) = [5] ∧ Fetching (inPass live) 0 0 ∧
      (inPass live).resolver.pass = some (passOf 2 0) ∧ startedSlots (inPass live) = [] :=
  ⟨fetching_of (by decide +kernel), by decide +kernel, by decide +kernel, fetching_of (by decide +kernel),
    by decide +kernel⟩

/-- R99: the first completes SUPERSEDED, and then the second, which has no slot to place. -/
theorem test_supersedes :
    let t := after
      (.setCalendar at5 { year := 2000, month := 1, day := 1, hour := 0, minute := 1, second := 0 }) (inPass live)
    (t.notices[(0 : NoticeRingId)].queue.map fun q => q.notice) =
        [.completion 1 .superseded 50 1 (.calendar 0 0 2 0 0 0), .completion 0 .ok 0x1234 1 (.calendar 0 60 0 0 0 0)] ∧
      t.resolver.pass = none ∧ t.intake.rings[(1 : CommandRingId)].outstanding = [] := by decide +kernel

theorem witness_SetCalendarWithSlots :
    Fetching liveStarted 0 0 ∧ liveStarted.resolver.pass = none ∧ startedSlots liveStarted = [5] ∧ startedSlots live = [] :=
  ⟨fetching_of (by decide +kernel), by decide +kernel⟩

/-! ### The calendar resolver -/

/-- R93: from 2100-01-01, 29 February comes in 2104, beyond the horizon; from 2104-01-01 it comes 59 days on. -/
theorem test_resolve :
    { anySecond with day := some 29, month := some 2, hour := some 12, minute := some 0, second := some 0 }.resolve
        3155760000 = none ∧
      anySecond.resolve 12622780799 = some 1 := by decide +kernel

theorem witness_TakeAndAbandoned :
    liveStarted.resolver.work = none ∧ liveStarted.resolver.queue = [itemOf 5 false] ∧
      ({ itemOf 5 false with base := 0 } : Item) = itemOf 5 false ∧
      (after .take liveStarted).resolver.work = some { item := itemOf 5 false, abandoned := false } := by decide +kernel

/-- The work on slot 5 is the last item of the pass of CR1's SET_CALENDAR. -/
def lastWork (stopped : Nat) : State :=
  let s := setRing 1 { freshRing with outstanding := [owedCalendar] } (liveWorked true)
  { s with resolver := { s.resolver with pass := some (passOf 2 stopped) } }

theorem witness_MatchArms :
    (lastWork 1).resolver.work = some { item := itemOf 5 true, abandoned := false } ∧
      (lastWork 1).slots[(5 : SlotId)].event = some (event (.calendar anySecond) .resolving) ∧
      anySecond.resolve 0 = some 1 ∧ (itemOf 5 true).beginTick.toNat + 1 * second < 2 ^ 64 ∧
      (lastWork 0).resolver.pass = some (passOf 2 0) ∧ (passOf 2 0).stopped + 1 < (passOf 2 0).placed ∧
      (passOf 2 1).placed = (passOf 2 1).stopped + 1 ∧
      owedCalendar ∈ (lastWork 1).intake.rings[(1 : CommandRingId)].outstanding ∧
      (lastWork 1).intake.rings[(1 : CommandRingId)].bound? = some 0 := by decide +kernel

/-- The same after CR1 has been reset, so that the entry of its SET_CALENDAR is gone. -/
def lastWorkOrphaned : State := setRing 1 freshRing (lastWork 1)

theorem witness_MatchArmsOrphaned :
    lastWorkOrphaned.resolver.work = some { item := itemOf 5 true, abandoned := false } ∧
      lastWorkOrphaned.slots[(5 : SlotId)].event = some (event (.calendar anySecond) .resolving) ∧
      lastWorkOrphaned.resolver.pass = some (passOf 2 1) ∧
      owedCalendar ∉ lastWorkOrphaned.intake.rings[(1 : CommandRingId)].outstanding := by decide +kernel

/-- R100: the pass ends, and nothing is handed. -/
theorem test_orphaned_pass_ends :
    (after .workEnd lastWorkOrphaned).resolver.pass = none ∧
      (after .workEnd lastWorkOrphaned).notices = lastWorkOrphaned.notices := by decide +kernel

/-- 31 April. -/
def never : Pattern := { anySecond with day := some 31, month := some 4 }

def noMatch : State :=
  { withEvent (event (.calendar never) .resolving) running with
    resolver := { queue := [], work := some { item := itemOf 5 false, abandoned := false }, started := 1, pass := none } }

/-- The same as an item of the pass of CR1's SET_CALENDAR. -/
def noMatchOf (stopped : Nat) : State :=
  let s := withEvent (event (.calendar never) .resolving) (lastWork stopped)
  setNotice 0 { freshNotice with reserved := 1 } s

theorem witness_NoMatch :
    noMatch.resolver.work = some { item := itemOf 5 false, abandoned := false } ∧
      noMatch.slots[(5 : SlotId)].event = some (event (.calendar never) .resolving) ∧ never.resolve 0 = none ∧
      noMatch.resolver.pass = none ∧
      (noMatchOf 1).resolver.work = some { item := itemOf 5 true, abandoned := false } ∧
      (noMatchOf 1).slots[(5 : SlotId)].event = some (event (.calendar never) .resolving) ∧
      (noMatchOf 1).resolver.pass = some (passOf 2 1) ∧
      ∀ q : CommandRingId, (noMatchOf 1).intake.rings[q].wait = none := by decide +kernel

theorem test_no_match :
    ((after .workEnd noMatch).slots[(5 : SlotId)].event.map Event.run) = some .dormant ∧
      (after .workEnd noMatch).notices[(1 : NoticeRingId)].occupied = 1 := by decide +kernel

/-- R95, R98: the item that finds no match ends the pass. -/
theorem test_no_match_ends_the_pass :
    (after .workEnd (noMatchOf 1)).resolver.pass = none ∧
      ((after .workEnd (noMatchOf 1)).notices[(0 : NoticeRingId)].queue.map fun q => q.notice) =
        [.completion 1 .ok 50 1 (.calendar 0 0 2 0 1 1)] ∧
      (after .workEnd (noMatchOf 0)).resolver.pass = some { passOf 2 0 with noMatch := 1 } := by decide +kernel

/-- R95, R153: a WAIT of CR2 on the slot ends first; the pass of CR1 ends with the item. NR1 takes the NO_MATCH notice. -/
theorem test_no_match_ends_a_wait :
    let s := setRing 2
      { freshRing with state := .blocked, wait := some waitOf, outstanding := [owedWait], take := 1, post := 1 } (noMatchOf 1)
    let t := after .workEnd s
    (t.notices[(0 : NoticeRingId)].queue.map fun q => q.notice) =
        [.completion 2 .ok 9 1 (stoppedResult 5 (event (.calendar never) .resolving) s),
          .completion 1 .ok 50 1 (.calendar 0 0 2 0 1 1)] ∧
      t.notices[(1 : NoticeRingId)].occupied = 1 ∧ t.slots[(5 : SlotId)].noticePending = false ∧
      t.intake.rings[(2 : CommandRingId)] = { freshRing with take := 1, post := 1 } := by decide +kernel

/-! ### Output lines -/

/-- With OUT5 in a mode. -/
def withLine (m : LineMode) : State := setLine 5 { safe := .low, mode := m } live

theorem witness_Drive :
    Fetching (withLine (.held .low)) 0 0 ∧ actionOf (word 1 5 1 0 0) = some (.drive 5 .high) ∧
      (withLine (.held .low)).halted = false ∧ (withLine (.held .low)).lines[(5 : LineId)].mode ≠ .disabled :=
  ⟨fetching_of (by decide +kernel), by decide +kernel⟩

theorem witness_Toggle :
    Fetching (withLine (.pulsing .low .high 9)) 0 0 ∧ actionOf (word 2 5 0 0 0) = some (.toggle 5) ∧
      (withLine (.pulsing .low .high 9)).halted = false ∧
      (withLine (.pulsing .low .high 9)).lines[(5 : LineId)].mode = .pulsing .low .high 9 :=
  ⟨fetching_of (by decide +kernel), by decide +kernel⟩

theorem witness_Pulse :
    Fetching (withLine (.held .high)) 0 0 ∧ actionOf (word 3 5 0 0 0x1000000) = some (.pulse 5 .low 16777216) ∧
      (withLine (.held .high)).halted = false ∧ (withLine (.held .high)).lines[(5 : LineId)].mode = .held .high :=
  ⟨fetching_of (by decide +kernel), by decide +kernel⟩

def quarter : Density := { value := 16384, code := 0 }

theorem witness_Density :
    Fetching (withLine (.held .low)) 0 0 ∧ actionOf (word 4 5 0 0 16384) = some (.density 5 quarter) ∧
      (withLine (.held .low)).halted = false ∧
      (withLine (.density .low quarter 30000 none 0)).lines[(5 : LineId)].mode = .density .low quarter 30000 none 0 :=
  ⟨fetching_of (by decide +kernel), by decide +kernel⟩

/-- Section 3.11: DRIVE high, then PULSE low of 2,000 ticks, then TOGGLE, at ticks 10,000,000 and 10,001,000. -/
theorem test_line_example :
    let a := (applyAction 0 (.drive 5 .high)
      { withLine (.held .low) with time := { TimeUnit.reset with timebase := 10000000 } }).1
    let b := (applyAction 0 (.pulse 5 .low 2000) a).1
    b.lines[(5 : LineId)].mode = .pulsing .high .low 10002000 ∧
      (applyAction 0 (.toggle 5) b).1.lines[(5 : LineId)].mode = .held .low := by decide +kernel

/-- Section 3.11, the table of density patterns: density 16,384. -/
theorem test_density_example :
    ((List.range 8).map fun k => densityLevel quarter (BitVec.ofNat 16 k)) =
      [.high, .low, .low, .low, .high, .low, .low, .low] := by decide +kernel

def lineSetup (line enable safe initial : Byte) : LineSetupFields := { line, enable, safe, initial }

/-- RUNNING with SOFTWARE latched, lines at their safe levels. -/
def halted (s : State) : State :=
  { s with control := { s.control with software := true }, capture := { s.capture with suppressed := true } }

theorem witness_LineSetup :
    Fetching live 0 0 ∧ 16 ≤ (lineSetup 16 0 0 0).line.toNat ∧ 2 ≤ (lineSetup 0 2 0 0).enable.toNat ∧
      (lineSetup 15 1 1 0).line.toNat = (15 : LineId).val ∧ ((lineSetup 15 1 1 0).safe = if Level.high = .high then 1 else 0) ∧
      ((lineSetup 15 1 1 0).initial = if Level.low = .high then 1 else 0) ∧ live.lines[(15 : LineId)].mode = .disabled ∧
      live.halted = false ∧ (halted live).halted = true ∧
      (withLine (.held .low)).lines[(5 : LineId)].mode ≠ .disabled :=
  ⟨fetching_of (by decide +kernel), by decide +kernel⟩

theorem test_line_setup :
    (after (.lineSetup at5 (lineSetup 15 1 1 0)) live).lines[(15 : LineId)] = { safe := .high, mode := .held .low } ∧
      (after (.lineSetup at5 (lineSetup 15 1 1 0)) (halted live)).lines[(15 : LineId)] =
        { safe := .high, mode := .held .high } := by decide +kernel

theorem witness_LineForceRefusals :
    Fetching live 0 0 ∧ actionOf (word 7 0 0 0 0) = some .mark ∧ actionOf (word 3 0 0 0 0) = none ∧
      actionOf (word 1 5 1 0 0) = some (.drive 5 .high) ∧ live.lines[(5 : LineId)].mode = .disabled ∧
      (halted live).halted = true ∧ (Action.drive 5 .high).line? = some 5 :=
  ⟨fetching_of (by decide +kernel), by decide +kernel⟩

theorem witness_PulseEnd :
    (withLine (.pulsing .high .low 0)).lines[(5 : LineId)].mode = .pulsing .high .low 0 ∧
      (0#64).toNat ≤ (withLine (.pulsing .high .low 0)).time.timebase.toNat := by decide +kernel

theorem test_pulse_end :
    (after (.pulseEnd 5) (withLine (.pulsing .high .low 0))).lines[(5 : LineId)].mode = .held .high := by decide +kernel

theorem witness_DensityClock :
    (withLine (.density .low quarter 65534 none 1)).lines[(5 : LineId)].mode = .density .low quarter 65534 none 1 ∧
      2 ^ quarter.code.val ≤ 1 ∧ (65534#16).toNat < 65535 ∧ (65535#16).toNat = 65535 ∧
      (withLine (.density .low quarter 65535 (some quarter) 1)).lines[(5 : LineId)].mode =
        .density .low quarter 65535 (some quarter) 1 := by decide +kernel

/-- Section 3.11, step 4: the frame start applies the pending pair. -/
theorem test_frame_start :
    (after (.frameStart 5)
        (withLine (.density .low quarter 65535 (some { value := 32768, code := 2 }) 1))).lines[(5 : LineId)].mode =
      .density .low { value := 32768, code := 2 } 0 none 0 ∧
    (after (.densityClock 5) (withLine (.density .low quarter 30000 none 1))).lines[(5 : LineId)].mode =
      .density .low quarter 30001 none 0 := by decide +kernel

theorem witness_DensityFrame :
    ({ safe := .low, mode := .density .low quarter 4 none 0 } : Line).mode = .density .low quarter 4 none 0 ∧
      ({ value := 65536, code := 7 } : Density).value ≤ 65536 := by decide +kernel

/-! ### The capture unit -/

def captureFields (line mode qualify : Byte) (interval : BitVec 16) : CaptureSetupFields :=
  { line, mode, qualify, notify := 1, ring := 1, interval }

theorem witness_CaptureSetup :
    Fetching live 0 0 ∧ 8 ≤ (captureFields 8 3 4 1000).line.toNat ∧ (captureFields 2 3 3 1000).qualify.toNat ∉ [1, 2, 4, 8] ∧
      (captureFields 2 3 8 65535).line.toNat = (2 : CaptureId).val ∧ [EdgeMode.off, .rising, .falling, .both][(captureFields 2 3 8 65535).mode.toNat]? = some .both ∧
      (captureFields 2 3 8 65535).qualify.toNat ∈ [1, 2, 4, 8] ∧ (captureFields 2 3 8 65535).interval ≠ 0 ∧
      ((captureFields 2 3 8 65535).notify = if true then 1 else 0) ∧
      (captureFields 2 3 8 65535).ring.toNat = (1 : NoticeRingId).val :=
  ⟨fetching_of (by decide +kernel), by decide +kernel⟩

/-- Section 6.8, tick 1,000,000. -/
theorem test_capture_setup_example :
    (after (.captureSetup at5 (captureFields 2 3 4 1000) .low)
        { live with time := { TimeUnit.reset with timebase := 1000000 } }).capture.lines[(2 : CaptureId)].sampling =
      some { next := 1001000, stable := .low, count := 0, first := none, spent := false } := by decide +kernel

/-- CAP2 of section 6.8, with slot 60 WAITING on it, before the sample at tick `t`. -/
def sampling (t : Tick) (count : Nat) (first : Option Tick) (waiting : List SlotId) : State :=
  let s := setSlot 60
    { generation := 0, noticePending := false, event := some (event (.tick (.trigger 2 .once) 0 100) .waiting) } running
  setCapture 2
    { edgeMode := .both, qualify := 4, interval := 1000, notify := true, ring := 1
      sampling := some { next := t, stable := .low, count, first, spent := false }
      edgeSequence := 41, held := none, lost := 0, waiting }
    { s with time := { s.time with timebase := t } }

/-- Section 6.8, ticks 1,001,000 and 1,002,000. -/
theorem test_sample_example :
    (after (.sample 2 .high) (sampling 1001000 0 none [])).capture.lines[(2 : CaptureId)].sampling =
        some { next := 1002000, stable := .low, count := 1, first := some 1001000, spent := false } ∧
      (after (.sample 2 .low) (sampling 1002000 1 (some 1001000) [])).capture.lines[(2 : CaptureId)].sampling =
        some { next := 1003000, stable := .low, count := 0, first := none, spent := false } := by decide +kernel

/-- Section 6.8, tick 1,006,000: sequence 42, timestamp 1,003,000, and slot 60 armed there. -/
theorem test_edge_example :
    let t := after (.sample 2 .high) (sampling 1006000 3 (some 1003000) [60])
    (t.notices[(1 : NoticeRingId)].queue.map fun q => q.notice) = [.edge 2 .high 1003000 42 0] ∧
      t.capture.lines[(2 : CaptureId)].waiting = [] ∧
      t.timeline.entries = [{ slot := 60, expiry := 1003000, sequence := 0, haltedOver := false }] := by decide +kernel

theorem witness_Sample :
    (sampling 1001000 2 (some 5) []).capture.lines[(2 : CaptureId)].sampling =
        some { next := 1001000, stable := .low, count := 2, first := some 5, spent := false } ∧
      (1001000#64).toNat ≤ (sampling 1001000 2 (some 5) []).time.timebase.toNat ∧ Level.high ≠ .low ∧ 2 + 1 < 4 ∧
      4 ≤ 3 + 1 ∧ (sampling 1001000 3 (some 5) []).capture.lines[(2 : CaptureId)].edgeMode = .both ∧
      (setCapture 2 { CaptureLine.reset with edgeMode := .falling } running).capture.lines[(2 : CaptureId)].edgeMode =
        .falling := by decide +kernel

theorem witness_EdgeArms :
    (sampling 0 0 none [60]).slots[(60 : SlotId)].event = some (event (.tick (.trigger 2 .once) 0 100) .waiting) ∧
      (event (.tick (.trigger 2 .once) 0 100) .waiting).run = .waiting ∧
      (event (.tick (.trigger 2 .retrigger) 0 100) (.armed 7 0)).run.isArmed = true ∧
      (liveWith (.tick (.trigger 2 .retrigger) 0 100) (.armed 7 0)).slots[(5 : SlotId)].event =
        some (event (.tick (.trigger 2 .retrigger) 0 100) (.armed 7 0)) := by decide +kernel

/-! ### The timeline -/

/-- Slot 40 of section 2.9: ARMED at 3,000,000 with period 1,000,000 and remaining 4, as the controller stands at
tick 4,300,000. -/
def slot40 : Event :=
  { defn := definition (.tick .absolute 2000000 1000000), run := .armed 3000000 0, remaining := some 4, firingsDone := 1 }

def entry40 : Entry := { slot := 40, expiry := 3000000, sequence := 0, haltedOver := false }

def overdue : State :=
  let s := setLine 7 { safe := .low, mode := .held .low }
    (setSlot 40 { generation := 1, noticePending := false, event := some slot40 } running)
  { s with timeline := { entries := [entry40], nextSequence := 1, lateThreshold := 0 }
           time := { s.time with timebase := 4300000 } }

theorem witness_Firing :
    overdue.control.core = .running ∧ overdue.halted = false ∧ overdue.timeline.entries = [entry40] ∧
      entry40.expiry.toNat ≤ overdue.time.timebase.toNat ∧ overdue.slots[entry40.slot].event = some slot40 := by
  decide +kernel

/-- Section 2.9, CATCHUP: the firing at 4,300,000. -/
theorem test_catchup_example :
    let t := after .firing (after (.resume .catchup) (halted overdue))
    t.slots[(40 : SlotId)].event.map (fun e => (e.run, e.remaining)) = some (.armed 5000000 1, some 2) ∧
      t.lines[(7 : LineId)].mode = .held .high ∧
      (t.notices[(1 : NoticeRingId)].queue.map fun q => q.notice) =
        [.firing 40 1 0xAB
          { expiry := 3000000, fire := 4300000, count := 1, overruns := 1, mask := 0
            flags := { late := true, last := false, coalesced := false, actionFailed := false, haltedOver := true
                       missed := false, noMatch := false } }] := by decide +kernel

/-- Section 2.9, DISCARD. -/
theorem test_discard_example :
    let t := after (.resume .discard) (halted overdue)
    t.slots[(40 : SlotId)].event.map (fun e => (e.run, e.remaining, e.firingsDone)) =
        some (.armed 5000000 1, some 2, 1) ∧
      t.lines[(7 : LineId)].mode = .held .low ∧
      (t.notices[(1 : NoticeRingId)].queue.map fun q => q.notice) =
        [.firing 40 1 0xAB
          { expiry := 3000000, fire := 4300000, count := 1, overruns := 2, mask := 0
            flags := { late := false, last := false, coalesced := false, actionFailed := false, haltedOver := false
                       missed := true, noMatch := false } }] := by decide +kernel

/-- R36: DRIVE of a DISABLED line, MARK, and START of a FREE slot: positions 0 and 2; the TOGGLE after them is applied. -/
theorem test_action_failed_mask :
    let r := applyActions 0 [.drive 1 .high, .mark, .start 9, .toggle 5] (withLine (.held .low))
    r.2 = 5 ∧ r.1.lines[(5 : LineId)].mode = .held .high ∧ r.1.lines[(1 : LineId)] = Line.reset := by decide +kernel

theorem witness_Actions :
    [Action.drive 1 .high, .mark, .start 9, .toggle 5][3]? = some (.toggle 5) ∧ 3 < 4 ∧ [Action.mark].length ≤ 1 := by
  decide

theorem witness_SkipRule :
    (3000000 ≤ 4300000 ∧ 4300000 < 2 ^ 64 ∧ 0 < 1000000 ∧ 3000000 + 1 * 1000000 ≤ 4300000 ∧
      4300000 < 3000000 + (1 + 1) * 1000000 ∧ 1 < 4 - 1 ∧ 2 - 1 ≤ 1) ∧
      (2 ^ 64 - 100 + 0 * 100 ≤ 2 ^ 64 - 1 ∧ 2 ^ 64 - 1 < 2 ^ 64 - 100 + (0 + 1) * 100 ∧
        2 ^ 64 ≤ 2 ^ 64 - 100 + (0 + 1) * 100) := by decide

theorem witness_Conclusion :
    (overdue.slots[(40 : SlotId)].event = some slot40 ∧
      continuation slot40.defn.timing slot40.remaining 3000000 4300000 = { last := false, skip := 1, next := some 5000000 }) ∧
    continuation (.calendar anySecond) (some 2) 0 0 = { last := false, skip := 0, next := none } ∧
    (definition (.tick (.trigger 2 .retrigger) 0 100)).retriggerLine = some 2 ∧ (definition absolute).retriggerLine = none := by
  decide +kernel

theorem witness_SlotActions :
    live.slots[(5 : SlotId)].event = none ∧
      (liveWith absolute .dormant).slots[(5 : SlotId)].event = some (event absolute .dormant) ∧
      (liveWith (.calendar anySecond) .dormant).resolver.started < 32 ∧
      liveArmed.slots[(5 : SlotId)].event = some (event absolute (.armed 5000000 0)) ∧
      (event (.calendar anySecond) .dormant).defn.isCalendar = true := by decide +kernel

/-! ### Halt and resume -/

theorem witness_EntryToHalted :
    running.control.core = .running ∧ running.control.software = false ∧ running.control.pin = false ∧
      running.control.resetAsserted = false ∧ running.control.haltIn = false := by decide +kernel

/-- Section 9.7, steps 1 to 5. -/
theorem test_halt_example :
    let a := after .halt { running with control := { running.control with enable := 8 } }
    let b := after .haltInAssert a
    let c := after (.resume .catchup) b
    let d := after (.resume .catchup) (after .haltInRelease c)
    (a.halted = true ∧ a.intr = true ∧
      (a.notices[(0 : NoticeRingId)].queue.map fun q => q.notice) = [.system { body := .halted true false, tick := 0 } 0]) ∧
      (b.control.pin = true ∧ b.notices[(0 : NoticeRingId)].occupied = 1) ∧
      (c.control.resumeRefused = true ∧ c.halted = true) ∧ d.halted = false ∧ d.intr = false ∧
      d.notices[(0 : NoticeRingId)].occupied = 2 := by decide +kernel

theorem witness_HaltCausesLatch :
    State.reset.control.resetAsserted = false ∧ State.reset.control.core ≠ .running ∧ State.reset.control.haltIn = false ∧
      (halted running).control.software = true ∧ (after .haltInAssert State.reset).control.haltIn = true ∧
      ({ State.reset with control := { Control.reset with resetAsserted := true } }).control.resetAsserted = true := by
  decide +kernel

theorem witness_Resume :
    (halted overdue).control.resetAsserted = false ∧ (halted overdue).control.haltIn = false ∧
      (halted overdue).halted = true ∧ running.halted = false ∧
      (after .haltInAssert running).control.haltIn = true := by decide +kernel

theorem witness_Discard :
    (halted overdue).control.resetAsserted = false ∧ (halted overdue).control.haltIn = false ∧
      (halted overdue).halted = true ∧ entry40 ∈ (halted overdue).timeline.entries ∧
      (halted overdue).slots[entry40.slot].event = some slot40 := by decide +kernel

/-! ### Notices -/

def report : FiringReport :=
  { expiry := 10, fire := 20, count := 65535, overruns := 65535, mask := 5
    flags := { late := true, last := false, coalesced := false, actionFailed := true, haltedOver := false, missed := false
               noMatch := false } }

/-- NR1 full, with slot 5 on its deferred list. -/
def deferring : State :=
  setNotice 1 { freshNotice with occupied := 16, deferred := [.slot 5 report] } (liveWith absolute .dormant)

theorem witness_FiringOffer :
    (liveWith absolute .dormant).slots[(5 : SlotId)].event = some (event absolute .dormant) ∧
      (liveWith absolute .dormant).notices[(1 : NoticeRingId)].state = .active ∧
      (liveWith absolute .dormant).notices[(1 : NoticeRingId)].occupied
          + (liveWith absolute .dormant).notices[(1 : NoticeRingId)].reserved
        < (liveWith absolute .dormant).notices[(1 : NoticeRingId)].size ∧
      (liveWith absolute .dormant).notices[(1 : NoticeRingId)].deferred = [] ∧
      deferring.notices[(1 : NoticeRingId)].size ≤ deferring.notices[(1 : NoticeRingId)].occupied ∧
      deferring.notices[(1 : NoticeRingId)].deferred = [] ++ .slot 5 report :: [] ∧
      (6 : SlotId) ∉ deferring.notices[(1 : NoticeRingId)].deferred.filterMap Deferred.slot? ∧
      freshNotice.config = some noticeConfig ∧ { freshNotice with writeIndex := 15 }.writeIndex < noticeConfig.size := by
  decide +kernel

def resumed : SystemNotice := { body := .resumed .discard, tick := 5 }

/-- NR0 full. -/
def full : State := setNotice 0 { freshNotice with occupied := 16 } running

theorem witness_SystemOffer :
    (∀ d ∈ [Deferred.slot 5 report], d.isSystem = false) ∧ State.reset.control.core ≠ .running ∧
      running.control.core = .running ∧ freshNotice.state = .active ∧
      freshNotice.occupied + freshNotice.reserved < freshNotice.size ∧ freshNotice.deferred = [] ∧
      full.notices[(0 : NoticeRingId)].size ≤ full.notices[(0 : NoticeRingId)].occupied := by decide +kernel

/-- R129: the first is kept whole, and the later ones are counted, to 255. -/
theorem test_system_offer :
    let t := offerSystem (.badIndex 0x20) (offerSystem (.resumed .discard) full)
    t.notices[(0 : NoticeRingId)].deferred = [.system { resumed with tick := 0 } 1] ∧
      deferSystem resumed ([.slot 5 report] ++ .system resumed 255 :: []) =
        [.slot 5 report, .system resumed 255] := by decide +kernel

/-- R127: counts saturate, and the flags and the mask join. -/
theorem test_merge :
    report.merge { report with fire := 30, mask := 2 } = { report with fire := 30, mask := 7 } := by decide +kernel

theorem witness_Layout : report.count ≤ 65535 ∧ report.overruns ≤ 65535 := by decide

theorem witness_CompletionLayout :
    ∃ (level : Level → Nat) (maybe : Option Level → Nat) (trim : Option Int → Nat),
      (∀ v, level v = if v = .high then 1 else 0) ∧ (∀ v, maybe (some v) = level v) ∧ maybe none = 255 ∧
        (∀ v, trim (some v) = (v % 65536).toNat) ∧ trim none = 0x8000 :=
  ⟨fun v => if v = .high then 1 else 0, fun x => x.elim 255 fun v => if v = .high then 1 else 0,
    fun x => x.elim 0x8000 fun v => (v % 65536).toNat, fun _ => rfl, fun _ => rfl, rfl, fun _ => rfl, rfl⟩

theorem witness_ResultLayouts :
    (readSecond 12622780799).year ≤ 65535 ∧ 12622780799 < 2 ^ 40 ∧ 99999999 < 2 ^ 32 ∧
      CaptureLine.reset.qualify ≤ 255 ∧ CaptureLine.reset.lost ≤ 255 := by decide +kernel

/-- Tables 10-7, 10-8 and 10-12: a completion of CR2, phase 1, STALE, of a slot with remaining and trigger line, and
a refused TRIM_RATE with no trim pending. -/
theorem test_completion_layout :
    (let x := noticeRecord true
      (.completion 2 .stale 0x1234 3
        (.slot
          { state := 4, generation := 9, remaining := some 5, expiry := none, noticePending := true, expiryApplied := false
            triggerLine := some 6, calendarKind := false, firingsDone := 70000 }))
     [(0, 1), (1, 1), (2, 1), (4, 2), (6, 2), (8, 1), (9, 1), (10, 1), (11, 1), (12, 2), (16, 4)].map
         (fun p => recordField x p.1 p.2) =
       [0x81, 3, 2, 0x1234, 3, 4, 9, 0x15, 6, 5, 70000]) ∧
      (let x := noticeRecord false (.completion 0 .badParam 0 1 (.trim (-1) none 0 0))
       [(1, 1), (8, 2), (10, 2)].map (fun p => recordField x p.1 p.2) = [15, 0xFFFF, 0x8000]) := by decide +kernel

/-- Tables 10-7, 10-8 and 10-11: an edge, and a QUEUE_FAULT naming NR1 with 300 lost records. -/
theorem test_edge_and_system_layout :
    (let x := noticeRecord false (.edge 7 .high 1003000 42 5)
     [(0, 4), (4, 2), (8, 8)].map (fun p => recordField x p.1 p.2) = [0x05010703, 42, 1003000]) ∧
      (let x := noticeRecord true (.system { body := .noticeFault 1 300, tick := 9 } 2)
       [(0, 4), (4, 2), (8, 8)].map (fun p => recordField x p.1 p.2) = [0x05020184, 300, 9]) := by decide +kernel

def queued : Queued := { place := 15, address := 0x11E0, phase := true, notice := .firing 5 3 7 report, released := false }

def writing (k : NoticeRingId) : State :=
  setNotice k { freshNotice with writeIndex := 0, phase := false, occupied := 1, queue := [queued] } running

theorem witness_WriteEnd :
    (writing 1).control.core = .running ∧ (writing 1).notices[(1 : NoticeRingId)].stale = none ∧
      (writing 1).notices[(1 : NoticeRingId)].queue = [queued] ∧ (writing 0).notices[(0 : NoticeRingId)].queue = [queued] ∧
      (writing 1).notices[(1 : NoticeRingId)].config = some noticeConfig := by decide +kernel

/-- Tables 10-7 and 10-8: the first bytes of a firing notice, phase 1, mask 5, slot 5, generation 3, LATE and
ACTION_FAILED, and the first byte of its tag. -/
theorem test_write_end :
    let m := (after (.writeEnd 1 .good) (writing 1)).memory
    ([0x11E0, 0x11E1, 0x11E2, 0x11E3, 0x11E8, 0x1200].map fun a => Memory.read m a) =
      [some 0xAA, some 0x05, some 0x03, some 0x09, some 0x07, none] := by decide +kernel

theorem test_write_error :
    (after (.writeEnd 1 .busError) (writing 1)).notices[(1 : NoticeRingId)].state = .faulted ∧
      ((after (.writeEnd 1 .busError) (writing 1)).notices[(0 : NoticeRingId)].queue.map fun q => q.notice) =
        [.system { body := .noticeFault 1 1, tick := 0 } 0] := by decide +kernel

/-- NR1 reset with its write in flight. -/
def staleWrite : State := after (.noticeRingReset 1) (writing 1)

/-- R139, log entry 18: a reset while a write from before an earlier reset is in flight keeps that write. -/
theorem test_reset_keeps_the_stale_write :
    (after .coreReset
      (setNotice 1 { staleWrite.notices[(1 : NoticeRingId)] with queue := [{ queued with place := 3 }] } staleWrite)).notices[
        (1 : NoticeRingId)] = { NoticeRing.reset with stale := some queued } := by decide +kernel

theorem witness_StaleWrite : staleWrite.notices[(1 : NoticeRingId)].stale = some queued := by decide +kernel

/-- R138: the record lands, and the ring is only free to write again. -/
theorem test_stale_write_end :
    (after (.writeEnd 1 .good) staleWrite).notices[(1 : NoticeRingId)] = freshNotice ∧
      Memory.read (after (.writeEnd 1 .good) staleWrite).memory 0x11E0 = some 0xAA ∧
      (after (.writeEnd 1 .busError) staleWrite).notices[(1 : NoticeRingId)] = freshNotice := by decide +kernel

theorem witness_Release :
    twoWritten.control.resetAsserted = false ∧ twoWritten.notices[(1 : NoticeRingId)].config = some noticeConfig ∧
      (0#32).toNat < noticeConfig.size ∧ (0 + 16 - 14) % 16 ≤ twoWritten.notices[(1 : NoticeRingId)].occupied ∧
      State.reset.notices[(1 : NoticeRingId)].config = none := by decide +kernel

/-- NR1 with one place free, and these sources and requests waiting. -/
def waitingFor (l : List Deferred) (q : List CommandRingId) : State :=
  let s := setSlot 5 { generation := 3, noticePending := true, event := some (event absolute .dormant) } running
  let t := setCapture 2
    { CaptureLine.reset with held := some { direction := .high, timestamp := 7, sequence := 8, ring := 1 }, lost := 3 } s
  setNotice 1 { freshNotice with occupied := 15, deferred := l, requests := q } t

theorem witness_Serve :
    (waitingFor [.slot 5 report] []).notices[(1 : NoticeRingId)].state = .active ∧
      (waitingFor [.slot 5 report] []).notices[(1 : NoticeRingId)].occupied
          + (waitingFor [.slot 5 report] []).notices[(1 : NoticeRingId)].reserved
        < (waitingFor [.slot 5 report] []).notices[(1 : NoticeRingId)].size ∧
      (waitingFor [.slot 5 report] []).slots[(5 : SlotId)].event = some (event absolute .dormant) ∧
      (waitingFor [.line 2] []).capture.lines[(2 : CaptureId)].held =
        some { direction := .high, timestamp := 7, sequence := 8, ring := 1 } ∧
      (waitingFor [.system resumed 4] []).notices[(1 : NoticeRingId)].deferred = [.system resumed 4] ∧
      (waitingFor [] [3]).notices[(1 : NoticeRingId)].requests = [3] ∧
      full.notices[(0 : NoticeRingId)].size ≤ full.notices[(0 : NoticeRingId)].occupied := by decide +kernel

/-- R127, R128: the oldest deferred source takes the freed place, a slot COALESCED. R145: a request is granted. -/
theorem test_serve :
    (let t := serve 1 (waitingFor [.slot 5 report, .line 2] [3])
     (t.notices[(1 : NoticeRingId)].queue.map fun q => q.notice) =
         [.firing 5 3 0xAB { report with flags := { report.flags with coalesced := true } }] ∧
       t.slots[(5 : SlotId)].noticePending = false ∧ t.notices[(1 : NoticeRingId)].deferred = [.line 2]) ∧
      (let t := serve 1 (waitingFor [.line 2] [])
       (t.notices[(1 : NoticeRingId)].queue.map fun q => q.notice) = [.edge 2 .high 7 8 3] ∧
         t.capture.lines[(2 : CaptureId)].held = none ∧ t.capture.lines[(2 : CaptureId)].lost = 0) ∧
      (serve 1 (waitingFor [] [3])).intake.rings[(3 : CommandRingId)].fetchReservation = true := by decide +kernel

/-- R130: of two records still queued, a release of one place marks the first released. -/
theorem test_release_of_a_queued_record :
    let s := setNotice 1 { freshNotice with writeIndex := 1, releaseIndex := 15, occupied := 2, queue := [queued, queued] }
      running
    (after (.releaseIndexWrite 1 0) s).notices[(1 : NoticeRingId)].queue = [{ queued with released := true }, queued] := by
  decide +kernel

theorem witness_Holdoff :
    twoWritten.notices[(1 : NoticeRingId)].config = some noticeConfig ∧
      twoWritten.notices[(1 : NoticeRingId)].written = [1000100, 1200100] ∧
      min ((1000100#64).toNat + noticeConfig.holdoff) (2 ^ 64 - 1) ≤ twoWritten.time.timebase.toNat := by decide +kernel

/-! ### Resets, the setup load and the registers -/

theorem witness_CoreReset : liveArmed.control.resetAsserted = false := by decide +kernel

theorem test_core_reset :
    (after .coreReset liveArmed).slots[(5 : SlotId)] = Slot.reset ∧ (after .coreReset liveArmed).timeline.entries = [] ∧
      (after .coreReset liveArmed).intake.rings[(0 : CommandRingId)].fetch = some { place := 0, address := 0x8000, discarded := true } := by
  decide +kernel

def underReset : State := after .resetNAssert (after .haltInAssert running)

theorem witness_UnderReset : underReset.control.resetAsserted = true := by decide +kernel

theorem test_reset_n :
    underReset.statusWord = 0x10 ∧ (after .resetNRelease underReset).control.pin = true ∧
      (after .powerOn liveArmed).time = TimeUnit.reset := by decide +kernel

theorem witness_ControlUnit : State.reset.control.resetAsserted = false ∧ State.reset.control.core = .off ∧
    running.control.core ≠ .off := by decide +kernel

theorem test_control_start :
    (after .controlStart State.reset).control.core = .loading ∧ (after .controlStart running).control.startIgnored = true ∧
      (after .clearFlags (after .controlStart running)).control.startIgnored = false := by decide +kernel

theorem test_interrupt_writes :
    (after (.intStatusWrite 4) (after (.fetchEnd .busError 0) live)).control.fault = false ∧
      (after (.intEnableWrite 0xFFFFFFF5) running).control.enable = 5 := by decide +kernel

/-- Four command rings and two notice rings of 16 places at 40h and 20h, each enabled (Tables 10-13 and 10-14). -/
def setupBlock : SetupBlock :=
  0x7#1024 <<< 896 |||
    (List.range 4).foldl (fun b r => b ||| 0x0000000101000010_0000000000000040#1024 <<< (128 * r)) 0 |||
    (List.range 2).foldl (fun b k => b ||| 0x0000000000000001_0000000000010010_0000000000000020#1024 <<< (512 + 192 * k)) 0

def setupConfig : SetupConfig :=
  { commands := Vector.replicate 4 { base := 0x40, size := 16, bound := 0, burst := 1, enabled := true }
    notices := Vector.replicate 2 { base := 0x20, size := 16, threshold := 1, holdoff := 0, enabled := true }
    lateThreshold := 7 }

def loading : State := after .controlStart State.reset

def latched : State := after .haltInAssert loading

theorem witness_SetupRead :
    loading.control.setupReads[0]? = some { address := 0, abandoned := false } ∧ setupConfigOf setupBlock = some setupConfig ∧
      setupConfigOf 0 = none ∧ loading.control.software = false ∧ loading.control.pin = false ∧
      (after .coreReset loading).control.setupReads[0]? = some { address := 0, abandoned := true } ∧
      latched.control.setupReads[0]? = some { address := 0, abandoned := false } ∧
      (latched.control.software || latched.control.pin) = true ∧
      (setupConfig.notices[(0 : NoticeRingId)]).enabled = true := by decide +kernel

/-- R163, R177: a size of 100h is valid and one of 0Ch is not; a base address off 64, a burst of 9, a threshold beyond the
size and a holdoff beyond 2^24 are not. -/
theorem test_setup_blocks :
    let put (b : SetupBlock) (o bytes v : Nat) : SetupBlock :=
      (b &&& ~~~((BitVec.ofNat 1024 (2 ^ (8 * bytes) - 1)) <<< (8 * o))) ||| (BitVec.ofNat 1024 v) <<< (8 * o)
    let valid (o bytes v : Nat) := (setupConfigOf (put setupBlock o bytes v)).isSome
    valid 0x38 2 0x100 = true ∧ valid 0x38 2 0x0C = false ∧ valid 0x30 8 0x20 = false ∧ valid 0x3B 1 8 = true ∧
      valid 0x3B 1 9 = false ∧ valid 0x3A 1 2 = false ∧ valid 0x3C 1 2 = false ∧ valid 0x58 8 0x60 = true ∧
      valid 0x62 2 16 = true ∧ valid 0x62 2 17 = false ∧ valid 0x62 2 0 = false ∧ valid 0x64 4 0x1000000 = true ∧
      valid 0x64 4 0x1000001 = false ∧ valid 0x68 1 2 = false ∧ valid 0x7F 1 0xFF = true := by decide +kernel

theorem test_setup_read :
    (after (.setupReadEnd 0 (.good setupBlock)) loading).control.core = .running ∧
      (after (.setupReadEnd 0 (.good 0)) loading).control.core = .failed ∧
      (after (.setupReadEnd 0 (.good setupBlock)) latched).halted = true ∧
      (after (.setupReadEnd 0 (.good setupBlock)) latched).timeline.lateThreshold = 7 ∧
      (after (.setupReadEnd 0 (.good setupBlock)) latched).notices[(0 : NoticeRingId)].occupied = 1 := by decide +kernel

theorem witness_RegisterWrites :
    State.reset.control.resetAsserted = false ∧ (0x28#6).toNat = 0x1C + 4 * (3 : CommandRingId).val ∧
      (0x30#6).toNat = 0x2C + 4 * (1 : NoticeRingId).val ∧ (9#32).extractLsb' 0 5 = (9 : BitVec 5) ∧
      ((0x20#32).extractLsb' 0 6).toNat = 2 ^ (4 + (1 : NoticeRingId).val) ∧
      exec .controlStart State.reset = .next (after .controlStart State.reset) ∧
      exec .coreReset (after .controlStart State.reset) = .next (after .coreReset (after .controlStart State.reset)) ∧
      exec .halt State.reset = .next (after .halt State.reset) ∧
      exec (.resume .catchup) (after .halt State.reset) = .next (after (.resume .catchup) (after .halt State.reset)) :=
  ⟨by decide +kernel, by decide +kernel, by decide +kernel, by decide +kernel, by decide +kernel, rfl, rfl, rfl, rfl⟩

theorem witness_QueueReset :
    running.control.core = .running ∧ State.reset.control.core ≠ .running ∧
      (0x3F#32).extractLsb' 0 6 ≠ (0 : BitVec 6) := by decide +kernel

/-- R170: NR1 and CR0 in one write; R160: a START and a CLEAR_FLAGS in one write. -/
theorem test_combined_writes :
    (let t := after (.registerWrite 0x10 0x21 4) (setNotice 1 { freshNotice with occupied := 3 } live)
     t.notices[(1 : NoticeRingId)] = freshNotice ∧ t.notices[(0 : NoticeRingId)] = freshNotice) ∧
      (after (.registerWrite 0x00 0x11 4) running).control.startIgnored = false ∧
      (after (.registerWrite 0x00 0x01 4) running).control.startIgnored = true := by decide +kernel

theorem test_register_write :
    (after (.registerWrite 0x18 0x12345678 4) State.reset).control.setupAddress = 0x1234567800000000 ∧
      after (.registerWrite 0x34 1 4) State.reset = State.reset ∧
      after (.registerWrite 0x0C 1 2) State.reset = State.reset := by decide +kernel

theorem witness_RegisterReads :
    (8 : Fin 16).val = 7 + (1 : CommandRingId).val ∧ running.intake.rings[(1 : CommandRingId)].post < 4096 ∧
      (12 : Fin 16).val = 11 + (1 : NoticeRingId).val ∧ twoWritten.notices[(1 : NoticeRingId)].releaseIndex < 4096 ∧
      1 + 2 ≤ 4 ∧ (0x35#6).toNat = 4 * (13 : Fin 16).val + 1 := by
  decide +kernel

/-- Table 10-16 and R178. -/
theorem test_register_reads :
    running.readRegister 1 = 0x00500000#32 ||| 0x249#32 <<< 8 ||| 2#32 ∧ running.readRegister 13 = 0x24160100#32 ∧
      running.readBytes 0x35 2 = 0x1601 := by
  decide +kernel

theorem witness_CommandRingReset :
    live.control.resetAsserted = false ∧ State.reset.control.core ≠ .running ∧ live.control.core = .running ∧
      live.intake.rings[(0 : CommandRingId)].config = some commandConfig ∧
      live.notices[commandConfig.bound].deferred = [] ∧ (∀ q ∈ live.notices[commandConfig.bound].requests, q = 0) := by
  decide +kernel

theorem test_command_ring_reset :
    (after (.commandRingReset 0) live).notices[(0 : NoticeRingId)].reserved = 0 ∧
      (after (.commandRingReset 0) live).intake.rings[(0 : CommandRingId)].fetch = some { place := 0, address := 0x8000, discarded := true } := by
  decide +kernel

theorem witness_NoticeRingReset :
    deferring.control.resetAsserted = false ∧ State.reset.control.core ≠ .running ∧ deferring.control.core = .running ∧
      deferring.notices[(1 : NoticeRingId)].config = some noticeConfig := by decide +kernel

/-- NR0 FAULTED with two records lost. -/
def nr0Faulted : State := setNotice 0 { freshNotice with state := .faulted, occupied := 5, lostRecords := 2 } running

theorem witness_ResetOfFaultedNr0 :
    nr0Faulted.control.resetAsserted = false ∧ nr0Faulted.control.core = .running ∧
      nr0Faulted.notices[(0 : NoticeRingId)].config = some noticeConfig ∧ noticeConfig.enabled = true ∧
      1 ≤ noticeConfig.size ∧ nr0Faulted.notices[(0 : NoticeRingId)].state = .faulted := by decide +kernel

/-- R137: the QUEUE_FAULT takes place 0. R130, log entry 39: a release of 1 is then valid. -/
theorem test_reset_of_faulted_nr0 :
    let t := after (.noticeRingReset 0) nr0Faulted
    (t.notices[(0 : NoticeRingId)].queue.map fun q => (q.place, q.phase, q.notice)) =
        [(0, true, .system { body := .noticeFault 0 2, tick := 0 } 0)] ∧
      (after (.releaseIndexWrite 0 1) t).control.badIndex = false := by decide +kernel

theorem test_notice_ring_reset :
    (after (.noticeRingReset 1) deferring).notices[(1 : NoticeRingId)] = freshNotice ∧
      (after (.noticeRingReset 0) live).notices[(0 : NoticeRingId)].reserved = 0 := by decide +kernel

/-! ### The whole machine -/

theorem witness_NothingHappens :
    (halted overdue).halted = true ∧
      (withLine (.pulsing .low .high 1)).time.timebase.toNat < (1#64).toNat ∧ 0 < 2 ^ quarter.code.val ∧
      (withLine (.held .low)).lines[(5 : LineId)].mode = .held .low ∧
      (withLine (.density .low quarter 65534 none 1)).lines[(5 : LineId)].mode = .density .low quarter 65534 none 1 ∧
      (65534#16).toNat ≠ 65535 ∧ carried (.nop at5) = some (at5, .nop) ∧
      live.time.dueBoundaries = [] ∧ twoWritten.notices[(1 : NoticeRingId)].ready = false ∧
      twoWritten.notices[(1 : NoticeRingId)].written.length < noticeConfig.threshold ∧
      (1500099#64).toNat < min ((1000100#64).toNat + noticeConfig.holdoff) (2 ^ 64 - 1) ∧
      live.capture.lines[(0 : CaptureId)].edgeMode = .off ∧ live.capture.lines[(0 : CaptureId)].sampling = none ∧
      { blocked with time := TimeUnit.reset }.time.timebase.toNat < (1000000#64).toNat ∧
      live.intake.rings[(1 : CommandRingId)].wait = none ∧ running.fetchingRing = none ∧
      running.notices[(0 : NoticeRingId)].stale = none ∧ running.notices[(0 : NoticeRingId)].queue = [] ∧
      running.control.setupReads[0]? = none ∧ running.resolver.work = none ∧ running.resolver.queue = [] := by
  decide +kernel

/-- R136: a holdoff one tick before its time changes nothing. -/
theorem test_holdoff_before_its_time :
    let s := { twoWritten with time := { twoWritten.time with timebase := 1500099 } }
    after (.holdoffExpiry 1) s = s := by decide +kernel

/-- R55, R60, log entries 2, 9 and 14: a frame start away from position 65,535 and a pulse end on a line that is not PULSING change nothing,
nor does a START record with no fetch in flight. -/
theorem test_frame_start_off_its_position :
    after (.frameStart 5) (withLine (.density .low quarter 65534 none 1)) = withLine (.density .low quarter 65534 none 1) ∧
      after (.pulseEnd 5) (withLine (.held .low)) = withLine (.held .low) ∧
      after (.start at5) { running with slots := (liveWith absolute .dormant).slots } =
        { running with slots := (liveWith absolute .dormant).slots } := by decide +kernel

theorem test_queue :
    step State.reset = .next State.reset ∧
      step { State.reset with pending := [.controlStart, .halt] } = exec .controlStart { State.reset with pending := [.halt] } :=
  ⟨rfl, rfl⟩

end Sys2Proof.Tests
end

section
/-! The moves that a command is made of, each with its guard, and that every command is a chain of them. -/

namespace Sys2Proof.Machine

open Sys2Proof

/-! ### Moves -/

/-- Control values that differ in no field that an invariant reads. -/
structure Control.Alike (a b : Control) : Prop where
  core : b.core = a.core
  cause : b.causeLatched = a.causeLatched
  reset : b.resetAsserted = a.resetAsserted
  reads : b.setupReads = a.setupReads

/-- One elementary move of command `c`, with the guard under which the command makes it. -/
inductive Move (c : Instr) : State → State → Prop
  | settle (s : State) : Move c s (settle s)
  | dropFetch (r : CommandRingId) (s : State) : Move c s (dropFetch r s)
  | stallIfFaulted (r : CommandRingId) (s : State) : Move c s (stallIfFaulted r s)
  | fetched {h : Header} {m : Command} {r : CommandRingId} {s : State} (carries : carried c = some (h, m))
      (path : s.fetchingRing = some r) (live : s.intake.rings[r].fetch.elim false Fetch.discarded = false) :
      Move c s (takeFetched h (some m) r s)
  | unknown {h : Header} {r : CommandRingId} {s : State}
      (path : s.fetchingRing = some r) (live : s.intake.rings[r].fetch.elim false Fetch.discarded = false) :
      Move c s (takeFetched h none r s)
  | faulted {r : CommandRingId} {s : State}
      (path : s.fetchingRing = some r) (live : s.intake.rings[r].fetch.elim false Fetch.discarded = false) :
      Move c s (faultFetch r s)
  | control {s : State} {x : Control} (alike : s.control.Alike x) : Move c s { s with control := x }
  | start {s : State} (off : s.control.core = .off) (released : s.control.resetAsserted = false) :
      Move c s (controlStart s)
  | halt (s : State) : Move c s (controlHalt s)
  | haltIn (s : State) : Move c s (latch (fun x => { x with haltIn := true, pin := true }) s)
  | clearCauses (s : State) : Move c s (clearCauses s)
  | leaveHalted {m : ResumeMode} {s : State} (halted : s.halted = true) : Move c s (leaveHalted m s)
  | reset {s : State} (resets : resetsCore c) : Move c s (controlReset s)
  | fullReset {s : State} (b : Bool) (resets : resetsCore c) :
      Move c s (fullReset { s with control := { s.control with resetAsserted := b } })
  | release {s : State} (asserted : s.control.resetAsserted = true) :
      Move c s { s with control := { s.control with resetAsserted := false, pin := s.control.haltIn } }
  | post (r : CommandRingId) (n : Nat) (s : State) : Move c s (setRing r { s.intake.rings[r] with post := n } s)
  | rejectIndex (o : Nat) (s : State) : Move c s (rejectIndex o s)
  | releaseIndex {k : NoticeRingId} {n : Nat} {s : State} (configured : s.notices[k].config.isSome = true) :
      Move c s (evalReady k (serve k (setNotice k (s.notices[k].release n) s)))
  | resetRing {r : CommandRingId} {s : State} (running : s.control.core = .running) :
      Move c s (resetCommandRing false r s)
  | resetNotice {k : NoticeRingId} {s : State} (running : s.control.core = .running) : Move c s (resetNoticeRing k s)
  | pulseEnd {l : LineId} {v p : Level} {e : Tick} {s : State} (mode : s.lines[l].mode = .pulsing v p e) :
      Move c s (setLine l { s.lines[l] with mode := .held v } s)
  | clock {l : LineId} {v : Level} {d : Density} {k : BitVec 16} {n : Option Density} {a : Nat} {s : State}
      (mode : s.lines[l].mode = .density v d k n a) :
      Move c s (setLine l { s.lines[l] with mode := LineMode.clock v d k n a } s)
  | period (s : State) : Move c s { s with time := s.time.referencePeriod, lines := s.lines.map Line.referencePeriod }
  | fire {x : Entry} {v : Event} {s : State} (due : dueHead s = some x) (event : s.slots[x.slot].event = some v) :
      Move c s (fire x v (dropHead s))
  | dropHead {x : Entry} {s : State} (due : dueHead s = some x) (event : s.slots[x.slot].event = none) :
      Move c s (dropHead s)
  | boundary (l : List Nat) (n : Nat) (s : State) :
      Move c s (applyTrim n { s with time := { s.time with dueBoundaries := l } })
  | sample {l : CaptureId} {p : Sampling} {v : Level} {s : State} (sampling : s.capture.lines[l].sampling = some p) :
      Move c s (takeSample l p v s)
  | evalReady (k : NoticeRingId) (s : State) : Move c s (evalReady k s)
  | endWait {r : CommandRingId} {w : WaitInFlight} {s : State} (wait : s.intake.rings[r].wait = some w) :
      Move c s (endWait r w .timedOut s)
  | endStale {k : NoticeRingId} {q : Queued} {e : WriteEnd} {s : State} :
      Move c s (endWriteInMemory q e (setNotice k { s.notices[k] with stale := none } s))
  | endHead {k : NoticeRingId} {q : Queued} {l : List Queued} {e : WriteEnd} {s : State}
      (queue : s.notices[k].queue = q :: l) : Move c s (endHeadWrite k q e (endWriteInMemory q e s))
  | dropRead {i : Nat} {x : SetupRead} {s : State} (read : s.control.setupReads[i]? = some x)
      (abandoned : x.abandoned = true) :
      Move c s { s with control := { s.control with setupReads := s.control.setupReads.eraseIdx i } }
  | loadSetup {i : Nat} {x : SetupRead} {b : SetupConfig} {s : State} (read : s.control.setupReads[i]? = some x)
      (live : x.abandoned = false) :
      Move c s
        (loadSetup b { s with control := { s.control with setupReads := s.control.setupReads.eraseIdx i } })
  | failSetup {i : Nat} {x : SetupRead} {s : State} (read : s.control.setupReads[i]? = some x)
      (live : x.abandoned = false) :
      Move c s (failSetup { s with control := { s.control with setupReads := s.control.setupReads.eraseIdx i } })
  | take {x : Item} {xs : List Item} {s : State} (work : s.resolver.work = none) (queue : s.resolver.queue = x :: xs) :
      Move c s
        { s with resolver := { s.resolver with queue := xs, work := some { item := x, abandoned := false } } }
  | dropWork {w : Work} {s : State} (work : s.resolver.work = some w) (abandoned : w.abandoned = true) :
      Move c s { s with resolver := { s.resolver with work := none } }
  | endWork {w : Work} {s : State} (work : s.resolver.work = some w) (live : w.abandoned = false) :
      Move c s (endWork w.item { s with resolver := { s.resolver with work := none } })

/-- A chain of moves of command `c`. -/
abbrev Moves (c : Instr) : State → State → Prop := Relation.ReflTransGen (Move c)

theorem Moves.one {c : Instr} {s t : State} (h : Move c s t) : Moves c s t := .single h

theorem Moves.none {c : Instr} (s : State) : Moves c s s := .refl

/-! ### Every command is a chain of moves -/

section

variable {c : Instr}

theorem endFetch_moves {f : CommandRingId → State → State} {s : State}
    (hf : ∀ r, s.fetchingRing = some r → s.intake.rings[r].fetch.elim false Fetch.discarded = false → Move c s (f r s)) :
    Moves c s (endFetch f s) := by
  unfold endFetch
  split
  · rename_i r hr
    refine .tail (.tail (.single ?_) (.stallIfFaulted r _)) (.settle _)
    split
    · exact .dropFetch r s
    · rename_i hd
      exact hf r hr (by simpa using hd)
  · exact .refl

theorem commandFetched_moves {h : Header} {m : Command} (hc : carried c = some (h, m)) (s : State) :
    Moves c s (commandFetched h m s) :=
  endFetch_moves fun _ hr hl => .fetched hc hr hl

theorem fetchEnd_moves {e : FetchEnd} {pins : BitVec 8} {s t : State} (h : exec (.fetchEnd e pins) s = .next t) :
    Moves (.fetchEnd e pins) s t := by
  cases e with
  | good record =>
    cases h
    refine endFetch_moves fun r hr hl => ?_
    cases hm : commandOf record pins with
    | none => exact .unknown hr hl
    | some m => exact .fetched (by simp [carried, hm]) hr hl
  | busError =>
    cases h
    exact endFetch_moves fun r hr hl => .faulted hr hl

theorem controlStart_moves {s : State} (hr : s.control.resetAsserted = false) : Moves c s (controlStart s) := by
  by_cases h : s.control.core = .off
  · exact .one (.start h hr)
  · rw [controlStart, if_neg h]
    exact .one (.control ⟨rfl, rfl, rfl, rfl⟩)

theorem controlResume_moves (m : ResumeMode) (s : State) : Moves c s (controlResume m s) := by
  unfold controlResume
  split
  · exact .one (.control ⟨rfl, rfl, rfl, rfl⟩)
  · split
    · rename_i h
      exact .one (.leaveHalted h)
    · exact .one (.clearCauses s)

theorem controlClear_moves (s : State) : Moves c s (controlClear s) := .one (.control ⟨rfl, rfl, rfl, rfl⟩)

theorem writeIntStatus_moves (v : BitVec 32) (s : State) : Moves c s (writeIntStatus v s) := by
  unfold writeIntStatus
  split
  · exact .one (.control ⟨rfl, rfl, rfl, rfl⟩)
  · exact .refl

theorem writePost_moves (r : CommandRingId) (v : BitVec 32) (s : State) : Moves c s (writePost r v s) := by
  unfold writePost
  split
  · exact .tail (.single (.post r _ s)) (.settle _)
  · exact .one (.rejectIndex _ s)

theorem writeRelease_moves (k : NoticeRingId) (v : BitVec 32) (s : State) : Moves c s (writeRelease k v s) := by
  unfold writeRelease
  split
  · split
    · rename_i h
      exact .tail (.single (.releaseIndex h)) (.settle _)
    · exact .refl
  · exact .one (.rejectIndex _ s)

/-- A chain of moves, with a further one where a bit is set. -/
theorem Moves.whenBit {s t : State} {v : BitVec 32} {i : Nat} {f : State → State} (h : Moves c s t)
    (hf : v.getLsbD i = true → Moves c t (f t)) : Moves c s (whenBit v i f t) := by
  unfold Machine.whenBit
  split
  · rename_i hb
    exact h.trans (hf hb)
  · exact h

theorem writeControl_moves {v : BitVec 32} {s : State} (hr : s.control.resetAsserted = false)
    (hc : c = .registerWrite 0 v 4) : Moves c s (writeControl v s) := by
  unfold writeControl
  simp only []
  have reset : v.getLsbD 3 = true → resetsCore c := fun hb => .inr (.inr (.inr ⟨v, hc, hb⟩))
  generalize (v.getLsbD 2 && _) = b
  have chain : Moves c s (whenBit v 4 controlClear (whenBit v 3 controlReset
      (whenBit v 2 (controlResume (resumeModeOf v)) (whenBit v 1 controlHalt (whenBit v 0 controlStart s))))) := by
    refine .whenBit (.whenBit (.whenBit (.whenBit (.whenBit .refl fun _ => ?_) fun _ => ?_) fun _ => ?_) fun hb => ?_)
      fun _ => ?_
    · exact controlStart_moves hr
    · exact .one (.halt _)
    · exact controlResume_moves _ _
    · exact .one (.reset (reset hb))
    · exact controlClear_moves _
  split
  · exact chain.tail (.settle _)
  · exact chain

/-- A chain of ring resets within RUNNING. -/
theorem Moves.resetRings {s t : State} {v : BitVec 32} {i : Nat} {f : State → State}
    (h : Moves c s t ∧ t.control.core = .running) (hf : ∀ u : State, (f u).control = u.control)
    (hm : ∀ u : State, u.control.core = .running → Move c u (f u)) :
    Moves c s (Machine.whenBit v i f t) ∧ (Machine.whenBit v i f t).control.core = .running := by
  obtain ⟨moves, running⟩ := h
  unfold Machine.whenBit
  split
  · exact ⟨moves.tail (hm t running), by rw [hf]; exact running⟩
  · exact ⟨moves, running⟩

theorem writeQueueReset_moves (v : BitVec 32) (s : State) : Moves c s (writeQueueReset v s) := by
  unfold writeQueueReset whileRunning
  split
  · exact .refl
  · split
    · rename_i running
      refine Relation.ReflTransGen.tail ?_ (.settle _)
      have ring : ∀ (r : CommandRingId) (u : State), (resetCommandRing false r u).control = u.control := fun r u => by simp
      have notice : ∀ (k : NoticeRingId) (u : State), (resetNoticeRing k u).control = u.control := fun k u => by simp
      have b4 := Moves.resetRings (c := c) (v := v) (i := 4) ⟨.refl, running⟩ (notice 0) fun _ => .resetNotice
      have b5 := Moves.resetRings (v := v) (i := 5) b4 (notice 1) fun _ => .resetNotice
      have b0 := Moves.resetRings (v := v) (i := 0) b5 (ring 0) fun _ => .resetRing
      have b1 := Moves.resetRings (v := v) (i := 1) b0 (ring 1) fun _ => .resetRing
      have b2 := Moves.resetRings (v := v) (i := 2) b1 (ring 2) fun _ => .resetRing
      exact (Moves.resetRings (v := v) (i := 3) b2 (ring 3) fun _ => .resetRing).1
    · exact .refl

theorem writeRegister_moves {o : BitVec 6} {v : BitVec 32} {s : State} (hr : s.control.resetAsserted = false) :
    Moves (.registerWrite o v 4) s (writeRegister o.toNat v s) := by
  unfold writeRegister
  split
  · rename_i ho
    have : o = 0 := BitVec.eq_of_toNat_eq ho
    subst this
    exact writeControl_moves hr rfl
  · exact writeIntStatus_moves v s
  · exact .one (.control ⟨rfl, rfl, rfl, rfl⟩)
  · exact writeQueueReset_moves v s
  · exact .one (.control ⟨rfl, rfl, rfl, rfl⟩)
  · exact .one (.control ⟨rfl, rfl, rfl, rfl⟩)
  · exact writePost_moves 0 v s
  · exact writePost_moves 1 v s
  · exact writePost_moves 2 v s
  · exact writePost_moves 3 v s
  · exact writeRelease_moves 0 v s
  · exact writeRelease_moves 1 v s
  · exact .refl

theorem hostWrite_moves {f : State → State} {s : State} (hf : s.control.resetAsserted = false → Moves c s (f s)) :
    Moves c s (hostWrite f s) := by
  unfold hostWrite
  split
  · exact .refl
  · rename_i h
    exact hf (by simpa using h)

theorem whileRunning_moves {f : State → State} {s : State} (hf : s.control.core = .running → Move c s (f s)) :
    Moves c s (whileRunning (fun u => settle (f u)) s) := by
  unfold whileRunning
  split
  · rename_i h
    exact .tail (.single (hf h)) (.settle _)
  · exact .refl

theorem resumeAlone_moves (m : ResumeMode) (s : State) : Moves c s (resumeAlone m s) := by
  unfold resumeAlone
  split
  · exact (controlResume_moves m s).tail (.settle _)
  · exact controlResume_moves m s

theorem haltInAssert_moves {s t : State} (h : exec .haltInAssert s = .next t) : Moves c s t := by
  cases h
  split
  · exact .refl
  · split
    · exact .one (.control ⟨rfl, rfl, rfl, rfl⟩)
    · exact .one (.haltIn s)

theorem firing_moves {s t : State} (h : exec .firing s = .next t) : Moves c s t := by
  cases h
  split
  · rename_i x due
    split
    · rename_i v event
      exact .tail (.single (.fire due event)) (.settle _)
    · rename_i event
      exact .one (.dropHead due event)
  · exact .refl

theorem pulseEnd_moves {l : LineId} {s t : State} (h : exec (.pulseEnd l) s = .next t) : Moves c s t := by
  cases h
  split
  · rename_i mode
    split
    · exact .one (.pulseEnd mode)
    · exact .refl
  all_goals exact .refl

theorem densityClock_moves {l : LineId} {s t : State} (h : exec (.densityClock l) s = .next t) : Moves c s t := by
  cases h
  split
  · rename_i mode
    split
    · exact .one (.clock mode)
    · exact .refl
  all_goals exact .refl

theorem frameStart_moves {l : LineId} {s t : State} (h : exec (.frameStart l) s = .next t) : Moves c s t := by
  cases h
  split
  · rename_i mode
    split
    · exact .one (.clock mode)
    · exact .refl
  all_goals exact .refl

theorem secondBoundary_moves {s t : State} (h : exec .secondBoundary s = .next t) : Moves c s t := by
  cases h
  split
  · exact .one (.boundary _ _ s)
  · exact .refl

theorem sample_moves {l : CaptureId} {v : Level} {s t : State} (h : exec (.sample l v) s = .next t) : Moves c s t := by
  cases h
  split
  · rename_i p hp
    split
    · exact .one (.sample hp)
    · exact .refl
  · exact .refl

theorem deadlineExpiry_moves {r : CommandRingId} {s t : State} (h : exec (.deadlineExpiry r) s = .next t) :
    Moves c s t := by
  cases h
  split
  · rename_i w hw
    split
    · split
      · exact .tail (.single (.endWait hw)) (.settle _)
      · exact .refl
    · exact .refl
  · exact .refl

theorem writeEnd_moves {k : NoticeRingId} {e : WriteEnd} {s t : State} (h : exec (.writeEnd k e) s = .next t) :
    Moves c s t := by
  cases h
  split
  · exact .one .endStale
  · rename_i hq
    exact .one (.endHead hq)
  · exact .refl

theorem setupReadEnd_moves {i : Nat} {e : SetupEnd} {s t : State} (h : exec (.setupReadEnd i e) s = .next t) :
    Moves c s t := by
  cases h
  split
  · rename_i x hx
    simp only []
    split
    · rename_i ha
      exact .one (.dropRead hx ha)
    · rename_i ha
      have live : x.abandoned = false := by simpa using ha
      split
      · exact .one (.loadSetup hx live)
      · exact .one (.failSetup hx live)
  · exact .refl

theorem take_moves {s t : State} (h : exec .take s = .next t) : Moves c s t := by
  cases h
  split
  · rename_i hw hq
    exact .one (.take hw hq)
  all_goals exact .refl

theorem workEnd_moves {s t : State} (h : exec .workEnd s = .next t) : Moves c s t := by
  cases h
  split
  · rename_i w hw
    split
    · rename_i ha
      exact .one (.dropWork hw ha)
    · rename_i ha
      exact .one (.endWork hw (by simpa using ha))
  · exact .refl

end

/-- Every command is a chain of its moves. -/
theorem exec_moves {c : Instr} {s t : State} (h : exec c s = .next t) : Moves c s t := by
  cases c with
  | load hd d => cases h; exact commandFetched_moves rfl s
  | start hd => cases h; exact commandFetched_moves rfl s
  | stop hd => cases h; exact commandFetched_moves rfl s
  | retime hd f => cases h; exact commandFetched_moves rfl s
  | unload hd => cases h; exact commandFetched_moves rfl s
  | query hd => cases h; exact commandFetched_moves rfl s
  | wait hd d => cases h; exact commandFetched_moves rfl s
  | nop hd => cases h; exact commandFetched_moves rfl s
  | readTime hd => cases h; exact commandFetched_moves rfl s
  | trimRate hd v => cases h; exact commandFetched_moves rfl s
  | stepTimebase hd d => cases h; exact commandFetched_moves rfl s
  | setCalendar hd f => cases h; exact commandFetched_moves rfl s
  | lineSetup hd f => cases h; exact commandFetched_moves rfl s
  | lineForce hd w => cases h; exact commandFetched_moves rfl s
  | captureSetup hd f v => cases h; exact commandFetched_moves rfl s
  | controlStart => cases h; exact hostWrite_moves controlStart_moves
  | halt => cases h; exact hostWrite_moves fun _ => .one (.halt s)
  | resume m => cases h; exact hostWrite_moves fun _ => resumeAlone_moves m s
  | coreReset => cases h; exact hostWrite_moves fun _ => .one (.reset (.inl rfl))
  | clearFlags => cases h; exact hostWrite_moves fun _ => controlClear_moves s
  | noticeRingReset k => cases h; exact hostWrite_moves fun _ => whileRunning_moves .resetNotice
  | commandRingReset r => cases h; exact hostWrite_moves fun _ => whileRunning_moves .resetRing
  | postIndexWrite r v => cases h; exact hostWrite_moves fun _ => writePost_moves r v s
  | releaseIndexWrite k v => cases h; exact hostWrite_moves fun _ => writeRelease_moves k v s
  | intStatusWrite v => cases h; exact hostWrite_moves fun _ => writeIntStatus_moves v s
  | intEnableWrite v => cases h; exact hostWrite_moves fun _ => .one (.control ⟨rfl, rfl, rfl, rfl⟩)
  | registerWrite o v n =>
    cases h
    split
    · rename_i hn
      subst hn
      exact hostWrite_moves writeRegister_moves
    · exact .refl
  | powerOn => cases h; exact .one (.fullReset s.control.resetAsserted (.inr (.inl rfl)))
  | resetNAssert => cases h; exact .one (.fullReset true (.inr (.inr (.inl rfl))))
  | resetNRelease =>
    cases h
    split
    · rename_i ha
      exact .one (.release ha)
    · exact .refl
  | haltInAssert => exact haltInAssert_moves h
  | haltInRelease => cases h; exact .one (.control ⟨rfl, rfl, rfl, rfl⟩)
  | firing => exact firing_moves h
  | pulseEnd l => exact pulseEnd_moves h
  | frameStart l => exact frameStart_moves h
  | secondBoundary => exact secondBoundary_moves h
  | sample l v => exact sample_moves h
  | holdoffExpiry k =>
    cases h
    split
    · exact .refl
    · exact .one (.evalReady k s)
  | deadlineExpiry r => exact deadlineExpiry_moves h
  | fetchEnd e pins => exact fetchEnd_moves h
  | writeEnd k e => exact writeEnd_moves h
  | setupReadEnd i e => exact setupReadEnd_moves h
  | take => exact take_moves h
  | workEnd => exact workEnd_moves h
  | referenceClockPeriod =>
    cases h
    split
    · exact .refl
    · exact .one (.period s)
  | densityClock l => exact densityClock_moves h

/-- What every move keeps, every step keeps. -/
theorem step_keeps {P : State → Prop} (hq : ∀ (s : State) (l : List Instr), P s → P { s with pending := l })
    (hm : ∀ {c : Instr} {s t : State}, Move c s t → P s → P t) {s t : State} (hs : P s) (h : step s = .next t) : P t := by
  have chain : ∀ {c : Instr} {u v : State}, Moves c u v → P u → P v := by
    intro c u v m hu
    induction m with
    | refl => exact hu
    | tail _ last ih => exact hm last ih
  unfold step at h
  split at h
  · cases h; exact hs
  · exact chain (exec_moves h) (hq s _ hs)

end Sys2Proof.Machine
end

section
/-! What each collection holds of one slot, and the invariant of R5 said slot by slot. -/

namespace Sys2Proof.Machine

open Sys2Proof

/-! ### What the collections hold of a slot -/

/-- Slot `i` in the collections: its event, the expiries with which it stands in the timeline, how often it stands in
the queue or the work, and how often on each waiting list. -/
@[ext] structure Holding where
  event : Option Event
  armings : Multiset (Tick × BitVec 64)
  items : Nat
  waiting : CaptureId → Nat

/-- The expiries with which slot `i` stands in a timeline. -/
def armingsOf (l : List Entry) (i : SlotId) : Multiset (Tick × BitVec 64) :=
  ((l.filter fun e => e.slot = i).map fun e => (e.expiry, e.sequence) : List _)

/-- One where the work, not abandoned, is of slot `i`. -/
def workOf (o : Option Work) (i : SlotId) : Nat := o.elim 0 fun w => if w.abandoned = false ∧ w.item.slot = i then 1 else 0

/-- The items of slot `i` in the queue and the work. -/
def Resolver.itemsOf (x : Resolver) (i : SlotId) : Nat := (x.queue.map Item.slot).count i + workOf x.work i

def State.holding (s : State) (i : SlotId) : Holding :=
  { event := s.slots[i].event, armings := armingsOf s.timeline.entries i, items := s.resolver.itemsOf i
    waiting := fun c => s.capture.lines[c].waiting.count i }

theorem holding_event (s : State) (i : SlotId) : (s.holding i).event = s.slots[i].event := rfl

/-- The timeline's part in a run. -/
def Run.armings : Run → Multiset (Tick × BitVec 64)
  | .armed x q => {(x, q)}
  | .dormant => 0
  | .waiting => 0
  | .resolving => 0

/-- The slot of the event belongs on the waiting list of line `c` (R112). -/
def Event.waitsOn (e : Event) (c : CaptureId) : Bool :=
  (e.run = .waiting && e.defn.triggerLine = some c) || (e.run.isArmed && e.defn.retriggerLine = some c)

/-- What the collections are to hold of a slot by its event (R5). -/
def Holding.of (o : Option Event) : Holding :=
  { event := o, armings := o.elim 0 fun e => e.run.armings
    items := if o.any fun e => e.run = .resolving then 1 else 0
    waiting := fun c => if o.any fun e => e.waitsOn c then 1 else 0 }

/-- The run suits the kind of the definition. -/
structure Event.Fits (e : Event) : Prop where
  calendar : e.run = .resolving → e.defn.isCalendar = true
  trigger : e.run = .waiting → e.defn.triggerLine.isSome = true

/-- The collections hold of a slot what its event says. -/
structure Holding.Sound (h : Holding) : Prop where
  eq : h = .of h.event
  fits : ∀ e, h.event = some e → e.Fits

/-- One for a CALENDAR slot that is RESOLVING or ARMED (R89). -/
def startedOf (o : Option Event) : Nat :=
  if o.any fun e => e.defn.isCalendar && (e.run = .resolving || e.run.isArmed) then 1 else 0

/-- The number of CALENDAR slots that are RESOLVING or ARMED. -/
def calendarsStarted (s : State) : Nat := (List.finRange 256).countP fun i : SlotId => (s.slots[i]).started

/-- R5 slot by slot, with the started count of R89. -/
structure Collected (s : State) : Prop where
  slots : ∀ i : SlotId, (s.holding i).Sound
  count : s.resolver.started = calendarsStarted s
  most : s.resolver.started ≤ Config.maxStarted

/-! ### The invariant slot by slot -/

theorem mem_armingsOf {l : List Entry} {i : SlotId} {x : Tick} {q : BitVec 64} :
    (x, q) ∈ armingsOf l i ↔ ∃ e ∈ l, e.slot = i ∧ e.expiry = x ∧ e.sequence = q := by
  simp [armingsOf, and_assoc]

theorem card_armingsOf (l : List Entry) (i : SlotId) : (armingsOf l i).card = (l.map Entry.slot).count i := by
  simp [armingsOf, List.count_eq_length_filter, List.filter_map, Function.comp_def, beq_eq_decide]

theorem count_eq_indicator {α : Type} [DecidableEq α] {l : List α} {a : α} {p : Prop} [Decidable p] :
    l.count a = (if p then 1 else 0) ↔ l.count a ≤ 1 ∧ (a ∈ l ↔ p) := by
  rw [← List.count_pos_iff]
  split
  · rename_i h; simp only [h, iff_true]; omega
  · rename_i h; simp only [h, iff_false]; omega

theorem armings_eq_iff {l : List Entry} {i : SlotId} {o : Option Run} :
    armingsOf l i = o.elim 0 Run.armings ↔
      (∀ x q, o = some (.armed x q) ↔ ∃ e ∈ l, e.slot = i ∧ e.expiry = x ∧ e.sequence = q) ∧
        (l.map Entry.slot).count i ≤ 1 := by
  rw [← card_armingsOf]
  simp only [← mem_armingsOf]
  generalize armingsOf l i = m
  constructor
  · rintro rfl
    rcases o with - | (_ | _ | _ | ⟨x, q⟩) <;> simp [Run.armings, eq_comm]
  · rintro ⟨hm, hc⟩
    rcases o with - | (_ | _ | _ | ⟨x, q⟩)
    case some.armed =>
      have hx := (hm x q).mp rfl
      obtain ⟨a, rfl⟩ := Multiset.card_eq_one.mp (le_antisymm hc (Multiset.card_pos_iff_exists_mem.mpr ⟨_, hx⟩))
      simp [Run.armings, Multiset.mem_singleton.mp hx]
    all_goals
      refine Multiset.eq_zero_of_forall_notMem fun ⟨x, q⟩ h => ?_
      simpa using (hm x q).mpr h

theorem workOf_pos_iff (x : Resolver) (i : SlotId) : 0 < workOf x.work i ↔ x.resolves i := by
  unfold Resolver.resolves workOf
  cases x.work with
  | none => simp
  | some w =>
    dsimp only [Option.elim]
    split
    · simpa
    · rename_i h; simpa using h

theorem workOf_le (o : Option Work) (i : SlotId) : workOf o i ≤ 1 := by
  unfold workOf
  cases o with
  | none => exact Nat.zero_le 1
  | some w => dsimp only [Option.elim]; split <;> omega

theorem itemsOf_eq_iff {x : Resolver} {i : SlotId} {p : Prop} [Decidable p] :
    x.itemsOf i = (if p then 1 else 0) ↔
      (p ↔ i ∈ x.queue.map Item.slot ∨ x.resolves i) ∧ (x.queue.map Item.slot).count i ≤ 1 ∧
        (x.resolves i → i ∉ x.queue.map Item.slot) := by
  have hw := workOf_le x.work i
  rw [Resolver.itemsOf, ← workOf_pos_iff, ← List.count_pos_iff]
  by_cases hp : p
  · simp only [hp, if_true, true_iff]; omega
  · simp only [hp, if_false, false_iff]; omega

theorem Event.waitsOn_iff {s : State} {i : SlotId} {c : CaptureId} :
    (s.slots[i].event.any fun e => e.waitsOn c) = true ↔ s.waitsOn i c := by
  unfold State.waitsOn Event.waitsOn
  cases s.slots[i].event <;> simp

theorem Holding.eq_of_iff (s : State) (i : SlotId) :
    s.holding i = .of s.slots[i].event ↔
      (∀ x q, s.runOf i = some (.armed x q) ↔ ∃ e ∈ s.timeline.entries, e.slot = i ∧ e.expiry = x ∧ e.sequence = q) ∧
      (s.timeline.entries.map Entry.slot).count i ≤ 1 ∧
      (s.runOf i = some .resolving ↔ i ∈ s.resolver.queue.map Item.slot ∨ s.resolver.resolves i) ∧
      (s.resolver.queue.map Item.slot).count i ≤ 1 ∧ (s.resolver.resolves i → i ∉ s.resolver.queue.map Item.slot) ∧
      ∀ c : CaptureId, s.capture.lines[c].waiting.count i ≤ 1 ∧ (i ∈ s.capture.lines[c].waiting ↔ s.waitsOn i c) := by
  have armings : (Holding.of s.slots[i].event).armings = (s.runOf i).elim 0 Run.armings := by
    unfold State.runOf; cases s.slots[i].event <;> rfl
  have items : (Holding.of s.slots[i].event).items = if s.runOf i = some .resolving then 1 else 0 := by
    unfold State.runOf; cases h : s.slots[i].event <;> simp [Holding.of]
  have waiting : ∀ c, (Holding.of s.slots[i].event).waiting c =
      if (s.slots[i].event.any fun e => e.waitsOn c) = true then 1 else 0 := fun c => rfl
  rw [Holding.ext_iff, funext_iff, armings, items]
  simp only [waiting]
  show _ ∧ armingsOf _ i = _ ∧ s.resolver.itemsOf i = _ ∧ (∀ c : CaptureId, s.capture.lines[c].waiting.count i = _) ↔ _
  simp only [armings_eq_iff, itemsOf_eq_iff, count_eq_indicator, Event.waitsOn_iff]
  exact ⟨fun ⟨_, ⟨a, b⟩, ⟨c, d, e⟩, f⟩ => ⟨a, b, c, d, e, f⟩, fun ⟨a, b, c, d, e, f⟩ => ⟨rfl, ⟨a, b⟩, ⟨c, d, e⟩, f⟩⟩

/-- The invariant of the statements is the one said slot by slot. -/
theorem collectionsSound_iff (s : State) : CollectionsSound s ↔ Collected s := by
  constructor
  · intro h
    refine ⟨fun i => ⟨(Holding.eq_of_iff s i).mpr
        ⟨h.timeline i, ?_, h.resolving i, ?_, h.queueOnce.2 i, fun c => ⟨?_, h.waiting i c⟩⟩,
      fun e he => ⟨h.calendar i e he, h.trigger i e he⟩⟩, h.count, h.most⟩
    · exact List.nodup_iff_count_le_one.mp h.timelineOnce i
    · exact List.nodup_iff_count_le_one.mp h.queueOnce.1 i
    · exact List.nodup_iff_count_le_one.mp (h.waitingOnce c) i
  · intro h
    have own := fun i => (Holding.eq_of_iff s i).mp (h.slots i).eq
    exact
      { timeline := fun i => (own i).1
        timelineOnce := List.nodup_iff_count_le_one.mpr fun i => (own i).2.1
        resolving := fun i => (own i).2.2.1
        queueOnce := ⟨List.nodup_iff_count_le_one.mpr fun i => (own i).2.2.2.1, fun i => (own i).2.2.2.2.1⟩
        calendar := fun i e he => ((h.slots i).fits e he).calendar
        trigger := fun i e he => ((h.slots i).fits e he).trigger
        waiting := fun i c => ((own i).2.2.2.2.2 c).2
        waitingOnce := fun c => List.nodup_iff_count_le_one.mpr fun i => ((own i).2.2.2.2.2 c).1
        count := h.count
        most := h.most }

/-! ### What each operation does to what the collections hold -/

/-- Operations that leave the events and the collections alone. -/
theorem holding_congr {s t : State} (event : ∀ i : SlotId, t.slots[i].event = s.slots[i].event)
    (timeline : t.timeline.entries = s.timeline.entries) (queue : t.resolver.queue = s.resolver.queue)
    (work : t.resolver.work = s.resolver.work)
    (waiting : ∀ c : CaptureId, t.capture.lines[c].waiting = s.capture.lines[c].waiting) : t.holding = s.holding := by
  funext i
  simp only [State.holding, Resolver.itemsOf, event, timeline, queue, work, waiting]

@[simp] theorem setSlot_holding (i j : SlotId) (x : Slot) (s : State) :
    (setSlot i x s).holding j = if j = i then { s.holding i with event := x.event } else s.holding j := by
  unfold State.holding
  rw [setSlot_get]
  split
  · rename_i h; subst h; rfl
  · rfl

@[simp] theorem setEvent_holding (i j : SlotId) (e : Event) (s : State) :
    (setEvent i e s).holding j = if j = i then { s.holding i with event := some e } else s.holding j :=
  setSlot_holding i j _ s

@[simp] theorem setRun_holding (i j : SlotId) (r : Run) (s : State) :
    (setRun i r s).holding j =
      if j = i then { s.holding i with event := (s.holding i).event.map fun e => { e with run := r } } else s.holding j := by
  unfold setRun
  split
  · rename_i e h
    rw [setEvent_holding, holding_event, h]
    rfl
  · rename_i h
    split
    · rename_i hj
      subst hj
      exact Holding.ext (by rw [holding_event, h]; rfl) rfl rfl rfl
    · rfl

@[simp] theorem setNoticePending_holding (i : SlotId) (b : Bool) (s : State) :
    (setNoticePending i b s).holding = s.holding := by
  funext j
  unfold setNoticePending
  rw [setSlot_holding]
  split
  · rename_i h; subst h; rfl
  · rfl

theorem armingsOf_cons (e : Entry) (l : List Entry) (i : SlotId) :
    armingsOf (e :: l) i = if e.slot = i then (e.expiry, e.sequence) ::ₘ armingsOf l i else armingsOf l i := by
  by_cases h : e.slot = i <;> simp [armingsOf, h]

theorem armingsOf_insertEntry (e : Entry) (l : List Entry) (i : SlotId) :
    armingsOf (insertEntry e l) i = if e.slot = i then (e.expiry, e.sequence) ::ₘ armingsOf l i else armingsOf l i := by
  induction l with
  | nil => exact armingsOf_cons e [] i
  | cons x l ih =>
    unfold insertEntry
    split
    · exact armingsOf_cons e (x :: l) i
    · rw [armingsOf_cons, ih, armingsOf_cons]
      split <;> split <;> simp [Multiset.cons_swap]

theorem armingsOf_filter (l : List Entry) (p : SlotId → Bool) (i : SlotId) :
    armingsOf (l.filter fun e => p e.slot) i = if p i then armingsOf l i else 0 := by
  induction l with
  | nil => simp [armingsOf]
  | cons x l ih =>
    rw [List.filter_cons, armingsOf_cons]
    by_cases hx : x.slot = i
    · subst hx
      cases h : p x.slot
      · simpa [h] using ih
      · simp only [if_true, armingsOf_cons]
        rw [ih, h, if_pos rfl]
    · cases h : p x.slot
      · simpa [hx] using ih
      · simp only [if_true, armingsOf_cons, hx, if_false]
        exact ih

/-- Arming puts the slot into the timeline once more (R25). -/
@[simp] theorem arm_holding (i j : SlotId) (x : Tick) (s : State) :
    (arm i x s).holding j =
      if j = i then
        { s.holding i with
          event := (s.holding i).event.map fun e => { e with run := .armed x s.timeline.nextSequence }
          armings := (x, s.timeline.nextSequence) ::ₘ (s.holding i).armings }
      else s.holding j := by
  rw [arm, setRun_holding]
  simp only [State.holding, armingsOf_insertEntry]
  split
  · simp
  · rename_i h
    simp [Ne.symm h]

/-- Removal takes the slot out of the timeline (R26). -/
@[simp] theorem removeEntry_holding (i j : SlotId) (s : State) :
    (removeEntry i s).holding j = if j = i then { s.holding i with armings := 0 } else s.holding j := by
  have h := armingsOf_filter s.timeline.entries (fun k => k ≠ i) j
  unfold State.holding
  rw [show (removeEntry i s).timeline.entries = s.timeline.entries.filter fun e => e.slot ≠ i from rfl, h]
  by_cases hj : j = i
  · subst hj; simp [removeEntry]
  · simp [removeEntry, hj]

theorem setCapture_holding (c : CaptureId) (x : CaptureLine) (j : SlotId) (s : State) :
    (setCapture c x s).holding j =
      { s.holding j with waiting := Function.update (s.holding j).waiting c (x.waiting.count j) } := by
  ext1
  case waiting =>
    funext d
    simp only [State.holding, setCapture_get, Function.update_apply]
    split <;> rfl
  all_goals rfl

/-- A slot off a waiting list (R112). -/
@[simp] theorem leaveWaiting_holding (c : CaptureId) (i j : SlotId) (s : State) :
    (leaveWaiting c i s).holding j =
      if j = i then { s.holding i with waiting := Function.update (s.holding i).waiting c 0 } else s.holding j := by
  rw [leaveWaiting, setCapture_holding]
  split
  · rename_i h; subst h
    rw [List.count_eq_zero.mpr (by simp)]
  · rename_i h
    rw [List.count_filter (by simpa using h)]
    exact Holding.ext rfl rfl rfl (Function.update_eq_self _ _)

/-- A slot on a waiting list, once (R112). -/
@[simp] theorem joinWaiting_holding (c : CaptureId) (i j : SlotId) (s : State) :
    (joinWaiting c i s).holding j =
      if j = i then { s.holding i with waiting := Function.update (s.holding i).waiting c 1 } else s.holding j := by
  rw [joinWaiting, setCapture_holding]
  split
  · rename_i h; subst h
    simp [List.count_eq_zero.mpr]
  · rename_i h
    simp only [List.count_append]
    rw [List.count_filter (by simpa using h), List.count_singleton, beq_eq_false_iff_ne.mpr (Ne.symm h)]
    exact Holding.ext rfl rfl rfl (Function.update_eq_self _ _)

/-- An item more (R91). -/
@[simp] theorem pushItem_holding (i j : SlotId) (m : Bool) (s : State) :
    (pushItem i m s).holding j = if j = i then { s.holding i with items := (s.holding i).items + 1 } else s.holding j := by
  by_cases h : j = i
  · subst h
    simp [State.holding, pushItem, Resolver.itemsOf]
    omega
  · simp [State.holding, pushItem, Resolver.itemsOf, h, Ne.symm h]

@[simp] theorem dropStarted_holding (s : State) : (dropStarted s).holding = s.holding := rfl

end Sys2Proof.Machine
end

section
/-! R5 through every operation: a change at one slot, and the operations that move slots between the collections. -/

namespace Sys2Proof.Machine

open Sys2Proof

/-! ### A change at one slot -/

theorem started_startedOf (x : Slot) : (if x.started = true then 1 else 0) = startedOf x.event := by
  unfold startedOf Slot.started Slot.calendarIn
  cases x.event <;> rfl

theorem calendarsStarted_sum (s : State) : calendarsStarted s = ∑ i : SlotId, startedOf (s.holding i).event := by
  simp only [holding_event, ← started_startedOf]
  rw [Finset.sum_boole, calendarsStarted, List.countP_eq_length_filter, Nat.cast_id]
  rw [← List.toFinset_card_of_nodup ((List.nodup_finRange 256).filter _)]
  congr 1
  ext i
  simp

/-- A change at one slot changes the number of started CALENDAR slots by that slot. -/
theorem calendarsStarted_change {s t : State} {i : SlotId} (others : ∀ j, j ≠ i → t.holding j = s.holding j) :
    calendarsStarted t + startedOf (s.holding i).event = calendarsStarted s + startedOf (t.holding i).event := by
  have sum : ∀ u : State, calendarsStarted u =
      startedOf (u.holding i).event + ∑ j ∈ Finset.univ.erase i, startedOf (u.holding j).event := fun u => by
    rw [calendarsStarted_sum]
    exact (Finset.add_sum_erase _ (fun j => startedOf (u.holding j).event) (Finset.mem_univ i)).symm
  rw [sum t, sum s, Finset.sum_congr rfl fun j hj => by rw [others j (Finset.ne_of_mem_erase hj)]]
  omega

/-- A change at one slot keeps R5, where that slot is sound after it and the started count follows it. -/
theorem Collected.change {s t : State} (h : Collected s) (i : SlotId) (others : ∀ j, j ≠ i → t.holding j = s.holding j)
    (own : (t.holding i).Sound)
    (count : t.resolver.started + startedOf (s.holding i).event = s.resolver.started + startedOf (t.holding i).event)
    (most : t.resolver.started ≤ Config.maxStarted) : Collected t := by
  refine ⟨fun j => ?_, ?_, most⟩
  · by_cases hj : j = i
    · rw [hj]; exact own
    · rw [others j hj]; exact h.slots j
  · have := calendarsStarted_change others
    have := h.count
    omega

/-- A change that leaves the events, the collections and the started count alone. -/
theorem Collected.same {s t : State} (h : Collected s) (holding : t.holding = s.holding)
    (started : t.resolver.started = s.resolver.started) : Collected t :=
  h.change 0 (fun j _ => by rw [holding]) (by rw [holding]; exact h.slots 0) (by rw [holding, started])
    (started ▸ h.most)

theorem Holding.Sound.of_event {h : Holding} {e : Event} (s : h.Sound) (he : h.event = some e) : h = .of (some e) := by
  have := s.eq
  rwa [he] at this

/-- What the collections hold of a loaded slot. -/
theorem Collected.holding_some {s : State} (h : Collected s) {i : SlotId} {e : Event} (he : s.slots[i].event = some e) :
    s.holding i = .of (some e) := (h.slots i).of_event he

theorem Collected.fits {s : State} (h : Collected s) {i : SlotId} {e : Event} (he : s.slots[i].event = some e) :
    e.Fits := (h.slots i).fits e he

theorem Holding.sound_of {h : Holding} {e : Event} (eq : h = .of (some e)) (fits : e.Fits) : h.Sound := by
  subst eq
  exact ⟨rfl, fun d hd => Option.some.inj hd ▸ fits⟩

/-- What the collections hold of an event, field by field. -/
theorem Holding.of_some (e : Event) :
    Holding.of (some e) =
      { event := some e, armings := e.run.armings, items := if e.run = .resolving then 1 else 0
        waiting := fun c => if e.waitsOn c then 1 else 0 } := by
  simp [Holding.of]

@[simp] theorem startedOf_some (e : Event) :
    startedOf (some e) = if e.defn.isCalendar && (e.run = .resolving || e.run.isArmed) then 1 else 0 := rfl

@[simp] theorem isArmed_armed (x : Tick) (q : BitVec 64) : (Run.armed x q).isArmed = true := rfl
@[simp] theorem isArmed_dormant : Run.dormant.isArmed = false := rfl
@[simp] theorem isArmed_waiting : Run.waiting.isArmed = false := rfl
@[simp] theorem isArmed_resolving : Run.resolving.isArmed = false := rfl

@[simp] theorem armings_armed (x : Tick) (q : BitVec 64) : (Run.armed x q).armings = {(x, q)} := rfl
@[simp] theorem armings_dormant : Run.dormant.armings = 0 := rfl
@[simp] theorem armings_waiting : Run.waiting.armings = 0 := rfl
@[simp] theorem armings_resolving : Run.resolving.armings = 0 := rfl

@[simp] theorem begin_defn (e : Event) : e.begin.defn = e.defn := rfl

@[simp] theorem begin_run (e : Event) : e.begin.run = e.run := rfl

theorem fits_of_run {e : Event} (h : e.run ≠ .resolving) (g : e.run ≠ .waiting) : e.Fits :=
  ⟨fun a => absurd a h, fun a => absurd a g⟩

/-- A started count that a STARTED CALENDAR slot leaves is at least one. -/
theorem Collected.started_pos {s : State} (h : Collected s) {i : SlotId} (hi : startedOf (s.holding i).event = 1) :
    1 ≤ s.resolver.started := by
  rw [h.count, calendarsStarted_sum]
  rw [← hi]
  exact Finset.single_le_sum (f := fun j => startedOf (s.holding j).event) (fun _ _ => Nat.zero_le _) (Finset.mem_univ i)

/-! ### Lines of a definition -/

theorem retriggerLine_triggerLine {d : Definition} {c : CaptureId} (h : d.retriggerLine = some c) :
    d.triggerLine = some c := by
  unfold Definition.retriggerLine at h
  unfold Definition.triggerLine
  split at h <;> simp_all

theorem isCalendar_lines {d : Definition} (h : d.isCalendar = true) : d.triggerLine = none ∧ d.retriggerLine = none := by
  unfold Definition.isCalendar at h
  unfold Definition.triggerLine Definition.retriggerLine
  split at h
  · rename_i ht; simp [ht]
  · simp at h

/-! ### Operations that leave the collections alone -/

theorem offerFiring_holding (k : NoticeRingId) (i : SlotId) (p : FiringReport) (s : State) :
    (offerFiring k i p s).holding = s.holding := by
  unfold offerFiring
  split
  · rfl
  · rw [setNoticePending_holding]; rfl

theorem settle_holding (s : State) : (settle s).holding = s.holding :=
  holding_congr (by simp) (by simp) (by simp) (by simp) (by simp)

theorem reportDormant_holding (i : SlotId) (s : State) : (reportDormant i s).holding = s.holding :=
  holding_congr (by simp) (by simp) (by simp) (by simp) (by simp)

/-- A slot that becomes DORMANT (R7). -/
@[simp] theorem enterDormant_holding (i j : SlotId) (s : State) :
    (enterDormant i s).holding j =
      if j = i then { s.holding i with event := (s.holding i).event.map fun e => { e with run := .dormant } }
      else s.holding j := by
  rw [enterDormant, reportDormant_holding, setRun_holding]

/-- The end of a pass item leaves the queue, the work and the started count alone. -/
theorem countPass_resolver (m : Bool) (f : Pass → Pass) (s : State) :
    (countPass m f s).resolver.queue = s.resolver.queue ∧ (countPass m f s).resolver.work = s.resolver.work ∧
      (countPass m f s).resolver.started = s.resolver.started := by
  unfold countPass notePass endPass
  split
  · split
    · split <;> simp
    · simp
  · simp

theorem countPass_holding (m : Bool) (f : Pass → Pass) (s : State) : (countPass m f s).holding = s.holding :=
  holding_congr (by simp) (by simp) (countPass_resolver m f s).1 (countPass_resolver m f s).2.1 (by simp)

theorem dropItem_started (i : SlotId) (s : State) : (dropItem i s).resolver.started = s.resolver.started := by
  unfold dropItem
  split
  · rw [(countPass_resolver _ _ _).2.2]
  · split
    · split
      · rw [(countPass_resolver _ _ _).2.2]
      · rfl
    · rfl

/-- A slot of one item loses it, from the queue or the work, and the pass may count it (R96). -/
theorem dropItem_cases {i : SlotId} {s : State} (one : (s.holding i).items = 1) :
    ∃ m f q w, dropItem i s = countPass m f { s with resolver := { s.resolver with queue := q, work := w } } ∧
      ∀ k, (q.map Item.slot).count k + workOf w k = if k = i then 0 else (s.holding k).items := by
  have sum : (s.resolver.queue.map Item.slot).count i + workOf s.resolver.work i = 1 := one
  unfold dropItem
  split
  · rename_i x hx
    refine ⟨_, _, _, _, rfl, fun k => ?_⟩
    have mem : 0 < (s.resolver.queue.map Item.slot).count i := List.count_pos_iff.mpr
      (List.mem_map.mpr ⟨x, List.mem_of_find?_eq_some hx, by simpa using List.find?_some hx⟩)
    have filtered : ((s.resolver.queue.filter fun y => y.slot ≠ i).map Item.slot) =
        (s.resolver.queue.map Item.slot).filter fun k => k ≠ i := by rw [List.filter_map]; rfl
    rw [filtered]
    split
    · rename_i hk
      subst hk
      rw [List.count_eq_zero.mpr (by simp)]
      omega
    · rename_i hk
      rw [List.count_filter (by simpa using hk)]
      rfl
  · rename_i hx
    have absent : (s.resolver.queue.map Item.slot).count i = 0 := by
      rw [List.count_eq_zero]
      intro h
      obtain ⟨x, hm, hs⟩ := List.mem_map.mp h
      simpa [hs] using List.find?_eq_none.mp hx x hm
    cases hw : s.resolver.work with
    | none => simp [hw, workOf, absent] at sum
    | some w =>
      by_cases hwi : w.abandoned = false ∧ w.item.slot = i
      · simp only [hwi, Bool.not_false, Bool.and_true, decide_true, if_true]
        refine ⟨_, _, s.resolver.queue, some { w with abandoned := true }, rfl, fun k => ?_⟩
        by_cases hk : k = i
        · subst hk
          simp [absent, workOf]
        · simp [hk, Ne.symm hk, hwi, hw, State.holding, Resolver.itemsOf, workOf]
      · simp [hw, workOf, hwi, absent] at sum

theorem dropItem_holding {i : SlotId} {s : State} (one : (s.holding i).items = 1) (j : SlotId) :
    (dropItem i s).holding j = if j = i then { s.holding i with items := 0 } else s.holding j := by
  obtain ⟨m, f, q, w, eq, items⟩ := dropItem_cases one
  rw [eq, countPass_holding]
  have own := items j
  split
  · rename_i hj
    subst hj
    rw [if_pos rfl] at own
    exact Holding.ext rfl rfl own rfl
  · rename_i hj
    rw [if_neg hj] at own
    exact Holding.ext rfl rfl own rfl

end Sys2Proof.Machine
end

section
/-! R5 through the commands and happenings that move slots between the collections. -/

namespace Sys2Proof.Machine

open Sys2Proof

/-! ### Into the collections -/

/-- Arming a slot that stands in no timeline and no queue, and waits only where RETRIGGER has it, makes it sound. -/
theorem arm_sound {s : State} {i : SlotId} {e : Event} (x : Tick)
    (held : s.holding i = { event := some e, armings := 0, items := 0
                            waiting := fun c => if e.defn.retriggerLine = some c then 1 else 0 }) :
    (arm i x s).holding i = .of (some { e with run := .armed x s.timeline.nextSequence }) ∧ ((arm i x s).holding i).Sound := by
  have eq : (arm i x s).holding i = .of (some { e with run := .armed x s.timeline.nextSequence }) := by
    simp [held, Holding.of_some, Event.waitsOn]
  exact ⟨eq, Holding.sound_of eq (fits_of_run (by simp) (by simp))⟩

/-- A DORMANT slot stands in no collection. -/
theorem Collected.dormant {s : State} (h : Collected s) {i : SlotId} {e : Event} (he : s.slots[i].event = some e)
    (hd : e.run = .dormant) : s.holding i = { event := some e, armings := 0, items := 0, waiting := fun _ => 0 } := by
  rw [h.holding_some he, Holding.of_some]
  simp [hd, Event.waitsOn]

/-- START of an ABSOLUTE or RELATIVE slot. -/
theorem armed_start_collected {s : State} {i : SlotId} {e : Event} (x : Tick) (h : Collected s)
    (he : s.slots[i].event = some e) (hd : e.run = .dormant) (calendar : e.defn.isCalendar = false)
    (retrigger : e.defn.retriggerLine = none) : Collected (arm i x (setEvent i e.begin s)) := by
  have own := h.dormant he hd
  have armed := arm_sound (s := setEvent i e.begin s) (i := i) (e := e.begin) x (by simp [own, retrigger])
  refine h.change i (fun j hj => by simp [hj]) armed.2 ?_ (by simpa using h.most)
  rw [armed.1, own]
  simp [Holding.of_some, calendar]

/-- START of a TRIGGER slot. -/
theorem waiting_start_collected {s : State} {i : SlotId} {e : Event} {c : CaptureId} (h : Collected s)
    (he : s.slots[i].event = some e) (hd : e.run = .dormant) (calendar : e.defn.isCalendar = false)
    (line : e.defn.triggerLine = some c) : Collected (joinWaiting c i (setRun i .waiting (setEvent i e.begin s))) := by
  have own := h.dormant he hd
  have eq : (joinWaiting c i (setRun i .waiting (setEvent i e.begin s))).holding i =
      .of (some { e.begin with run := .waiting }) := by
    simp only [joinWaiting_holding, setRun_holding, setEvent_holding, if_true, own, Holding.of_some]
    refine Holding.ext rfl rfl (by simp) (funext fun d => ?_)
    simp [Event.waitsOn, line, Function.update_apply, eq_comm]
  refine h.change i (fun j hj => by simp [hj])
    (Holding.sound_of eq ⟨by simp, fun _ => by simp [line]⟩) ?_ (by simpa using h.most)
  rw [eq, own]
  simp [Holding.of_some, calendar]

/-- The started count one higher (R89). -/
def raiseStarted (s : State) : State := { s with resolver := { s.resolver with started := s.resolver.started + 1 } }

@[simp] theorem raiseStarted_holding (s : State) : (raiseStarted s).holding = s.holding := rfl

@[simp] theorem raiseStarted_started (s : State) : (raiseStarted s).resolver.started = s.resolver.started + 1 := rfl

@[simp] theorem pushItem_started (i : SlotId) (m : Bool) (s : State) :
    (pushItem i m s).resolver.started = s.resolver.started := rfl

/-- START of a CALENDAR slot. -/
theorem resolving_start_collected {s : State} {i : SlotId} {e : Event} (h : Collected s)
    (he : s.slots[i].event = some e) (hd : e.run = .dormant) (calendar : e.defn.isCalendar = true)
    (room : s.resolver.started < Config.maxStarted) :
    Collected (pushItem i false (setRun i .resolving (raiseStarted (setEvent i e.begin s)))) := by
  have own := h.dormant he hd
  have eq : (pushItem i false (setRun i .resolving (raiseStarted (setEvent i e.begin s)))).holding i =
      .of (some { e.begin with run := .resolving }) := by
    simp [own, Holding.of_some, Event.waitsOn]
  refine h.change i (fun j hj => by simp [hj]) (Holding.sound_of eq ⟨fun _ => calendar, by simp⟩) ?_ (by simpa using room)
  rw [eq, own]
  simp [Holding.of_some, calendar, hd]

theorem startSlot_absolute {e : Event} {x : Tick} {n : Nat} (h : e.defn.timing = .tick .absolute x n) (i : SlotId)
    (o : Tick) (s : State) : startSlot i e o s = arm i x (setEvent i e.begin s) := by simp only [startSlot, h]

theorem startSlot_relative {e : Event} {x : Tick} {n : Nat} (h : e.defn.timing = .tick .relative x n) (i : SlotId)
    (o : Tick) (s : State) : startSlot i e o s = arm i (o + x) (setEvent i e.begin s) := by
  simp only [startSlot, h, wrapTick]

theorem startSlot_trigger {e : Event} {c : CaptureId} {m : TriggerMode} {x : Tick} {n : Nat}
    (h : e.defn.timing = .tick (.trigger c m) x n) (i : SlotId) (o : Tick) (s : State) :
    startSlot i e o s = joinWaiting c i (setRun i .waiting (setEvent i e.begin s)) := by simp only [startSlot, h]

theorem startSlot_calendar {e : Event} {p : Pattern} (h : e.defn.timing = .calendar p) (i : SlotId) (o : Tick) (s : State) :
    startSlot i e o s = pushItem i false (setRun i .resolving (raiseStarted (setEvent i e.begin s))) := by
  simp only [startSlot, h, raiseStarted]

/-- START keeps R5 (R13). -/
theorem startSlot_collected {s : State} {i : SlotId} {e : Event} (o : Tick) (h : Collected s)
    (he : s.slots[i].event = some e) (hd : e.run = .dormant) (hf : calendarFull e s = false) :
    Collected (startSlot i e o s) := by
  cases ht : e.defn.timing with
  | tick mode x n =>
    have kind : e.defn.isCalendar = false := by simp [Definition.isCalendar, ht]
    cases mode with
    | absolute =>
      rw [startSlot_absolute ht]
      exact armed_start_collected _ h he hd kind (by simp [Definition.retriggerLine, ht])
    | relative =>
      rw [startSlot_relative ht]
      exact armed_start_collected _ h he hd kind (by simp [Definition.retriggerLine, ht])
    | trigger c m =>
      rw [startSlot_trigger ht]
      exact waiting_start_collected h he hd kind (by simp [Definition.triggerLine, ht])
  | calendar p =>
    have kind : e.defn.isCalendar = true := by simp [Definition.isCalendar, ht]
    rw [startSlot_calendar ht]
    exact resolving_start_collected h he hd kind (by simpa [calendarFull, kind] using hf)

/-! ### Out of the collections -/

/-- A started slot that is DORMANT after it has left every collection, the started count following it, keeps R5. -/
theorem dormant_collected {s t : State} {i : SlotId} {d e : Event} (h : Collected s) (he : s.slots[i].event = some e)
    (others : ∀ j, j ≠ i → t.holding j = s.holding j)
    (own : t.holding i = { event := some d, armings := 0, items := 0, waiting := fun _ => 0 }) (hd : d.run = .dormant)
    (started : t.resolver.started = s.resolver.started - startedOf (some e)) : Collected t := by
  have eq : t.holding i = .of (some d) := by rw [own, Holding.of_some]; simp [hd, Event.waitsOn]
  have event : (s.holding i).event = some e := he
  have pos : startedOf (some e) = 1 → 1 ≤ s.resolver.started := fun p => h.started_pos (i := i) (event ▸ p)
  have most := h.most
  refine h.change i others (Holding.sound_of eq (fits_of_run (by simp [hd]) (by simp [hd]))) ?_ (by omega)
  have out : startedOf (t.holding i).event = 0 := by simp [own, hd]
  have le : startedOf (some e) ≤ 1 := by rw [startedOf_some]; split <;> omega
  rw [out, event]
  omega

theorem dropStarted_started (s : State) : (dropStarted s).resolver.started = s.resolver.started - 1 := rfl

theorem leaveCollections_dormant {e : Event} (h : e.run = .dormant) (i : SlotId) (s : State) :
    leaveCollections i e s = s := by simp [leaveCollections, h]

theorem leaveCollections_waiting {e : Event} {c : CaptureId} (h : e.run = .waiting) (hc : e.defn.triggerLine = some c)
    (i : SlotId) (s : State) : leaveCollections i e s = leaveWaiting c i s := by simp [leaveCollections, h, hc]

theorem leaveCollections_resolving {e : Event} (h : e.run = .resolving) (i : SlotId) (s : State) :
    leaveCollections i e s = dropStarted (dropItem i s) := by simp [leaveCollections, h]

theorem leaveCollections_armed {e : Event} {x : Tick} {q : BitVec 64} (h : e.run = .armed x q)
    (hc : e.defn.retriggerLine = none) (i : SlotId) (s : State) :
    leaveCollections i e s = if e.defn.isCalendar then dropStarted (removeEntry i s) else removeEntry i s := by
  simp [leaveCollections, h, hc]

theorem leaveCollections_retrigger {e : Event} {x : Tick} {q : BitVec 64} {c : CaptureId} (h : e.run = .armed x q)
    (hc : e.defn.retriggerLine = some c) (i : SlotId) (s : State) :
    leaveCollections i e s = leaveWaiting c i (removeEntry i s) := by
  have kind : e.defn.isCalendar = false := by
    by_contra hk
    simp [(isCalendar_lines (by simpa using hk)).2] at hc
  simp [leaveCollections, h, hc, kind]

/-- A slot that has left its collections (R15). -/
theorem leaveCollections_holding {s : State} {i : SlotId} {e : Event} (h : Collected s) (he : s.slots[i].event = some e)
    (j : SlotId) :
    (leaveCollections i e s).holding j =
      if j = i then { event := some e, armings := 0, items := 0, waiting := fun _ => 0 } else s.holding j := by
  have own := h.holding_some he
  cases hr : e.run with
  | dormant =>
    rw [leaveCollections_dormant hr]
    split
    · rename_i hj; subst hj; exact h.dormant he hr
    · rfl
  | waiting =>
    obtain ⟨c, hc⟩ := Option.isSome_iff_exists.mp ((h.fits he).trigger hr)
    rw [leaveCollections_waiting hr hc, leaveWaiting_holding, own, Holding.of_some]
    split
    · refine Holding.ext rfl (by simp [hr]) (by simp [hr]) (funext fun d => ?_)
      simp [Event.waitsOn, hr, hc, Function.update_apply, eq_comm]
    · rfl
  | resolving =>
    rw [leaveCollections_resolving hr, dropStarted_holding, dropItem_holding (by simp [own, Holding.of, hr]), own,
      Holding.of_some]
    split
    · exact Holding.ext rfl (by simp [hr]) rfl (funext fun d => by simp [Event.waitsOn, hr])
    · rfl
  | armed x q =>
    cases hc : e.defn.retriggerLine with
    | none =>
      have eq : (leaveCollections i e s).holding = (removeEntry i s).holding := by
        rw [leaveCollections_armed hr hc]
        split
        · exact dropStarted_holding _
        · rfl
      rw [eq, removeEntry_holding, own, Holding.of_some]
      split
      · exact Holding.ext rfl rfl (by simp [hr]) (funext fun d => by simp [Event.waitsOn, hr, hc])
      · rfl
    | some c =>
      rw [leaveCollections_retrigger hr hc]
      simp only [leaveWaiting_holding, removeEntry_holding, own, Holding.of_some, if_true]
      split
      · refine Holding.ext rfl rfl (by simp [hr]) (funext fun d => ?_)
        simp [Event.waitsOn, hr, hc, Function.update_apply, eq_comm]
      · rfl

theorem leaveCollections_started {s : State} {i : SlotId} {e : Event} (fits : e.Fits) :
    (leaveCollections i e s).resolver.started = s.resolver.started - startedOf (some e) := by
  cases hr : e.run with
  | dormant => simp [leaveCollections_dormant hr, hr]
  | waiting =>
    obtain ⟨c, hc⟩ := Option.isSome_iff_exists.mp (fits.trigger hr)
    simp [leaveCollections_waiting hr hc, hr]
  | resolving => simp [leaveCollections_resolving hr, hr, fits.calendar hr, dropStarted_started, dropItem_started]
  | armed x q =>
    cases hc : e.defn.retriggerLine with
    | none =>
      rw [leaveCollections_armed hr hc]
      split
      · rename_i hk; simp [hr, hk, dropStarted_started]
      · rename_i hk; simp [hr, hk]
    | some c =>
      have kind : e.defn.isCalendar = false := by
        by_contra hk
        simp [(isCalendar_lines (by simpa using hk)).2] at hc
      simp [leaveCollections_retrigger hr hc, kind]

/-- STOP keeps R5 (R15). -/
theorem stopSlot_collected {s : State} {i : SlotId} {e : Event} (h : Collected s) (he : s.slots[i].event = some e) :
    Collected (stopSlot i e s) := by
  have left := leaveCollections_holding h he
  refine dormant_collected (d := { e with run := .dormant }) h he (fun j hj => ?_) ?_ rfl ?_
  · simp [stopSlot, hj, left]
  · simp [stopSlot, left]
  · simp only [stopSlot, enterDormant_frame]
    exact leaveCollections_started (h.fits he)

theorem startAction_collected {s : State} (i : SlotId) (o : Tick) (h : Collected s) : Collected (startAction i o s).1 := by
  unfold startAction
  split
  · exact h
  · rename_i e he
    split
    · exact h
    · rename_i hc
      simp only [Bool.or_eq_true, decide_eq_true_eq, not_or, not_not, Bool.not_eq_true] at hc
      dsimp only
      exact startSlot_collected o h he hc.1 hc.2

theorem stopAction_collected {s : State} (i : SlotId) (h : Collected s) : Collected (stopAction i s).1 := by
  unfold stopAction
  split
  · exact h
  · rename_i e he
    split
    · exact h
    · dsimp only
      exact stopSlot_collected h he

/-! ### Firings -/

theorem actOnLine_collected {s : State} (l : LineId) (a : Action) (h : Collected s) : Collected (actOnLine l a s) :=
  h.same (holding_congr (by simp) (by simp) (by simp) (by simp) (by simp)) (by simp)

theorem applyAction_collected {s : State} (o : Tick) (a : Action) (h : Collected s) : Collected (applyAction o a s).1 := by
  unfold applyAction
  split
  case h_5 i => exact startAction_collected i o h
  case h_6 i => exact stopAction_collected i h
  case h_7 => exact h
  all_goals exact actOnLine_collected _ _ h

theorem applyActions_collected {s : State} (o : Tick) (l : List Action) (h : Collected s) :
    Collected (applyActions o l s).1 := by
  induction l generalizing s with
  | nil => exact h
  | cons a l ih => exact ih (applyAction_collected o a h)

theorem offerFiring_collected {s : State} (k : NoticeRingId) (i : SlotId) (p : FiringReport) (h : Collected s) :
    Collected (offerFiring k i p s) :=
  h.same (offerFiring_holding k i p s) (by simp)

theorem settle_collected {s : State} (h : Collected s) : Collected (settle s) := h.same (settle_holding s) (by simp)

theorem countPass_collected {s : State} (m : Bool) (f : Pass → Pass) (h : Collected s) : Collected (countPass m f s) :=
  h.same (countPass_holding m f s) (countPass_resolver m f s).2.2

/-- The skip rule ends the run exactly where it gives no next expiry (R32). -/
theorem skipRule_last (p a b : Nat) (n : Option Nat) : (skipRule p a b n).last = (skipRule p a b n).next.isNone := by
  unfold skipRule
  cases n with
  | none => simp only []; split <;> rfl
  | some r =>
    simp only []
    split
    · rfl
    · split <;> rfl

/-- A run that goes on without an expiry is of CALENDAR kind (R34). -/
theorem continuation_calendar {t : Timing} {n : Option Nat} {a b : Nat} (last : (continuation t n a b).last = false)
    (next : (continuation t n a b).next = none) : ∃ p, t = .calendar p := by
  cases t with
  | calendar p => exact ⟨p, rfl⟩
  | tick m x p =>
    exfalso
    unfold continuation at last next
    simp only [] at last next
    split at last
    · simp at last
    · rename_i hp
      rw [if_neg hp] at next
      simp [skipRule_last, next] at last

/-- What becomes of a run whose entry has been removed keeps R5 (R35). -/
theorem conclude_collected {s : State} {i : SlotId} {e d : Event} {c : Continuation} (h : Collected s)
    (he : s.slots[i].event = some e) (armed : e.run.isArmed = true) (defn : d.defn = e.defn)
    (calendar : c.last = false → c.next = none → e.defn.isCalendar = true) :
    Collected (conclude i e.defn c (setEvent i d (removeEntry i s))) := by
  have own : (setEvent i d (removeEntry i s)).holding i =
      { event := some d, armings := 0, items := 0, waiting := fun c => if e.defn.retriggerLine = some c then 1 else 0 } := by
    obtain ⟨x, q, hr⟩ : ∃ x q, e.run = .armed x q := by
      cases hr : e.run <;> simp_all
    simp [h.holding_some he, Holding.of_some, hr, Event.waitsOn]
  have event : (s.holding i).event = some e := he
  have most := h.most
  unfold conclude
  split
  · split
    · rename_i l hl
      have eq : (joinWaiting l i (setRun i .waiting (setEvent i d (removeEntry i s)))).holding i =
          .of (some { d with run := .waiting }) := by
        rw [joinWaiting_holding, if_pos rfl, setRun_holding, if_pos rfl, own, Holding.of_some]
        refine Holding.ext rfl rfl (by simp) (funext fun c => ?_)
        simp [Event.waitsOn, defn, retriggerLine_triggerLine hl, hl, Function.update_apply, eq_comm]
      refine h.change i (fun j hj => by simp [hj])
        (Holding.sound_of eq ⟨by simp, fun _ => by simp [defn, retriggerLine_triggerLine hl]⟩) ?_ (by simpa using most)
      have : e.defn.isCalendar = false := by
        by_contra hc
        simp [(isCalendar_lines (by simpa using hc)).2] at hl
      rw [eq, event]
      simp [Holding.of_some, defn, this]
    · rename_i hl
      refine dormant_collected (d := { d with run := .dormant }) h he (fun j hj => ?_) ?_ rfl ?_
      · split <;> simp [hj]
      · split <;> simp [own, hl]
      · split <;> simp_all [dropStarted_started]
  · rename_i last
    have last' : c.last = false := by simpa using last
    split
    · rename_i n hn
      have := arm_sound (e := d) n (own.trans (by rw [defn]))
      refine h.change i (fun j hj => by simp [hj]) this.2 ?_ (by simpa using most)
      rw [this.1, event]
      simp [Holding.of_some, defn, armed]
    · rename_i hn
      have hc := calendar last' hn
      have eq : (pushItem i false (setRun i .resolving (setEvent i d (removeEntry i s)))).holding i =
          .of (some { d with run := .resolving }) := by
        simp [own, Holding.of_some, Event.waitsOn, (isCalendar_lines hc).2]
      refine h.change i (fun j hj => by simp [hj]) (Holding.sound_of eq ⟨fun _ => by simp [defn, hc], by simp⟩) ?_
        (by simpa using most)
      rw [eq, event]
      simp [Holding.of_some, defn, armed]

end Sys2Proof.Machine
end

section
/-! R5 through firings, resumes, edges, works, SET_CALENDAR and the slot commands, and so through every step. -/

namespace Sys2Proof.Machine

open Sys2Proof

/-! ### Timeline entries -/

/-- The slot of a timeline entry is ARMED with its expiry and sequence (R5). -/
theorem Collected.armed_of_mem {s : State} (h : Collected s) {x : Entry} (hx : x ∈ s.timeline.entries) :
    s.runOf x.slot = some (.armed x.expiry x.sequence) :=
  (((collectionsSound_iff s).mpr h).timeline x.slot x.expiry x.sequence).mpr ⟨x, hx, rfl, rfl, rfl⟩

theorem run_of_runOf {s : State} {i : SlotId} {e : Event} {r : Run} (he : s.slots[i].event = some e)
    (h : s.runOf i = some r) : e.run = r := by
  simp only [State.runOf, he, Option.map_some, Option.some.injEq] at h
  exact h

/-- With each slot in the timeline once, the head goes as an entry of its slot is removed. -/
theorem dropHead_eq_removeEntry {s : State} (h : Collected s) {x : Entry} (hx : s.timeline.entries.head? = some x) :
    dropHead s = removeEntry x.slot s := by
  have once := ((collectionsSound_iff s).mpr h).timelineOnce
  unfold dropHead removeEntry
  cases hl : s.timeline.entries with
  | nil => simp [hl] at hx
  | cons y l =>
    rw [hl] at hx once
    cases hx
    have absent := (List.nodup_cons.mp once).1
    rw [List.filter_cons_of_neg (by simp), List.tail_cons, List.filter_eq_self.mpr]
    intro z hz
    rw [decide_eq_true_eq]
    intro same
    exact absent (same ▸ List.mem_map_of_mem hz)

/-! ### Firings and DISCARD processing -/

theorem conclude_others {i j : SlotId} (hj : j ≠ i) (d : Definition) (c : Continuation) (s : State) :
    (conclude i d c s).holding j = s.holding j := by
  unfold conclude
  split
  · split
    · simp [hj]
    · split <;> simp [hj]
  · split <;> simp [hj]

theorem continuationAt_calendar {v : Event} {x : Entry} {f : Tick} (last : (v.continuationAt x f).last = false)
    (next : (v.continuationAt x f).next = none) : v.defn.isCalendar = true := by
  obtain ⟨p, hp⟩ := continuation_calendar last next
  simp [Definition.isCalendar, hp]

/-- A firing keeps R5 (Table 2-3). -/
theorem fire_collected {s : State} {x : Entry} {v : Event} (h : Collected s) (hx : s.timeline.entries.head? = some x)
    (hv : s.slots[x.slot].event = some v) : Collected (fire x v (dropHead s)) := by
  have armed := run_of_runOf hv (h.armed_of_mem (List.mem_of_head? hx))
  have state : Collected (fireState x v (dropHead s)) := by
    rw [dropHead_eq_removeEntry h hx]
    exact conclude_collected (d := v.fired _) h hv (by simp [armed]) rfl continuationAt_calendar
  unfold fire
  simp only []
  split
  · exact offerFiring_collected _ _ _ (applyActions_collected _ _ state)
  · exact applyActions_collected _ _ state

theorem due_head {s : State} {x : Entry} (h : dueHead s = some x) :
    s.timeline.entries.head? = some x ∧ s.control.core = .running ∧ s.halted = false := by
  unfold dueHead at h
  split at h
  · rename_i hc
    simp only [Bool.and_eq_true, decide_eq_true_eq, Bool.not_eq_true'] at hc
    exact ⟨(Option.filter_eq_some_iff.mp h).1, hc.1, hc.2⟩
  · cases h

theorem discardEntry_others {j : SlotId} {x : Entry} (hj : j ≠ x.slot) (s : State) :
    (discardEntry s x).holding j = s.holding j := by
  unfold discardEntry passOver
  split
  · simp only []
    split
    · simp [offerFiring_holding, conclude_others hj, hj]
    · simp [conclude_others hj, hj]
  · simp [hj]

/-- DISCARD processing of an entry whose slot is ARMED keeps R5 (R42, R43). -/
theorem discardEntry_collected {s : State} {x : Entry} {r : Run} (h : Collected s) (armed : s.runOf x.slot = some r)
    (hr : r.isArmed = true) : Collected (discardEntry s x) := by
  obtain ⟨v, hv, hrun⟩ := Option.map_eq_some_iff.mp armed
  unfold discardEntry
  simp only [hv]
  have state := conclude_collected (d := v.passedOver (v.continuationAt x s.time.timebase)) h hv (by simp [hrun, hr]) rfl
    (continuationAt_calendar (x := x) (f := s.time.timebase))
  unfold passOver
  simp only []
  split
  · exact offerFiring_collected _ _ _ state
  · exact state

/-- DISCARD processing of entries of different slots, each ARMED, keeps R5. -/
theorem discardEntries_collected {l : List Entry} {s : State} (h : Collected s) (once : (l.map Entry.slot).Nodup)
    (armed : ∀ x ∈ l, ∃ r, s.runOf x.slot = some r ∧ r.isArmed = true) : Collected (l.foldl discardEntry s) := by
  induction l generalizing s with
  | nil => exact h
  | cons x l ih =>
    obtain ⟨absent, once⟩ := List.nodup_cons.mp once
    obtain ⟨r, run, hr⟩ := armed x List.mem_cons_self
    refine ih (discardEntry_collected h run hr) once fun y hy => ?_
    have kept := congrArg Holding.event (discardEntry_others (x := x) (s := s)
      (fun heq => absent (heq ▸ List.mem_map_of_mem hy) : y.slot ≠ x.slot))
    obtain ⟨q, hq⟩ := armed y (List.mem_cons_of_mem _ hy)
    exact ⟨q, by rw [State.runOf, ← holding_event, kept]; exact hq.1, hq.2⟩

theorem markOverdue_collected {s : State} (h : Collected s) : Collected (markOverdue s) := by
  refine h.same (funext fun i => Holding.ext rfl ?_ rfl rfl) rfl
  show armingsOf (List.map _ _) i = armingsOf _ i
  induction s.timeline.entries with
  | nil => rfl
  | cons x l ih =>
    rw [List.map_cons, armingsOf_cons, armingsOf_cons, ih]
    split <;> rfl

theorem resumeTimeline_collected {s : State} (m : ResumeMode) (h : Collected s) : Collected (resumeTimeline m s) := by
  cases m with
  | catchup => exact markOverdue_collected h
  | discard =>
    have once := ((collectionsSound_iff s).mpr h).timelineOnce
    exact discardEntries_collected h (once.sublist (List.filter_sublist.map _)) fun x hx =>
      ⟨_, h.armed_of_mem (List.mem_of_mem_filter hx), rfl⟩

/-! ### Edges -/

theorem triggerLine_eq_some {d : Definition} {c : CaptureId} (h : d.triggerLine = some c) :
    ∃ m x n, d.timing = .tick (.trigger c m) x n := by
  unfold Definition.triggerLine at h
  split at h
  · cases h; exact ⟨_, _, _, by assumption⟩
  all_goals cases h

/-- A slot on a waiting list has a TRIGGER definition of its line, and is WAITING or, with RETRIGGER, ARMED (R112). -/
theorem Collected.waiting_of_mem {s : State} (h : Collected s) {i : SlotId} {c : CaptureId}
    (hi : i ∈ s.capture.lines[c].waiting) :
    ∃ e x n, s.slots[i].event = some e ∧
      (∃ m, e.defn.timing = .tick (.trigger c m) x n ∧ e.run = .waiting ∨
        e.defn.timing = .tick (.trigger c .retrigger) x n ∧ e.run.isArmed = true) := by
  obtain ⟨e, he, hw⟩ := (((collectionsSound_iff s).mpr h).waiting i c).mp hi
  obtain ⟨hr, hl⟩ | ⟨hr, hl⟩ := hw
  · obtain ⟨m, x, n, ht⟩ := triggerLine_eq_some hl
    exact ⟨e, x, n, he, m, .inl ⟨ht, hr⟩⟩
  · obtain ⟨m, x, n, ht⟩ := triggerLine_eq_some (retriggerLine_triggerLine hl)
    cases m with
    | once => simp [Definition.retriggerLine, ht] at hl
    | retrigger => exact ⟨e, x, n, he, .once, .inr ⟨ht, hr⟩⟩

theorem triggerSlot_others {c : CaptureId} {ts : Tick} {i j : SlotId} (hj : j ≠ i) (s : State) :
    (triggerSlot c ts s i).holding j = s.holding j := by
  unfold triggerSlot
  split
  · split <;> simp [armByEdge, hj]
  · rfl

/-- A slot that an edge has armed is sound where the collections held of it what RETRIGGER keeps, or the edge takes it off
its list. -/
theorem edge_collected {s t : State} {i : SlotId} {e d : Event} (h : Collected s) (he : s.slots[i].event = some e)
    (calendar : e.defn.isCalendar = false) (defn : d.defn = e.defn) (others : ∀ j, j ≠ i → t.holding j = s.holding j)
    (own : t.holding i = .of (some d)) (armed : d.run.isArmed = true) (started : t.resolver.started = s.resolver.started) :
    Collected t := by
  have event : (s.holding i).event = some e := he
  refine h.change i others (Holding.sound_of own (fits_of_run ?_ ?_)) ?_ (started ▸ h.most)
  · intro hr; simp [hr] at armed
  · intro hr; simp [hr] at armed
  · rw [own, event, started]
    simp [Holding.of_some, defn, calendar]

/-- An edge keeps R5 at a slot of the line's waiting list (R113, R114). -/
theorem triggerSlot_collected {s : State} {i : SlotId} {c : CaptureId} {ts : Tick} (h : Collected s)
    (hi : i ∈ s.capture.lines[c].waiting) : Collected (triggerSlot c ts s i) := by
  obtain ⟨e, x, n, he, m, ⟨ht, hr⟩ | ⟨ht, hr⟩⟩ := h.waiting_of_mem hi
  all_goals
    have others : ∀ j, j ≠ i → (triggerSlot c ts s i).holding j = s.holding j := fun j hj => triggerSlot_others hj s
    have calendar : e.defn.isCalendar = false := by simp [Definition.isCalendar, ht]
    have line : e.defn.triggerLine = some c := by simp [Definition.triggerLine, ht]
    have own := h.holding_some he
  · cases m with
    | once =>
      have retrigger : e.defn.retriggerLine = none := by simp [Definition.retriggerLine, ht]
      have eq : triggerSlot c ts s i = leaveWaiting c i (armByEdge i e x ts s) := by simp only [triggerSlot, he, ht, hr]
      refine edge_collected (d := { e with remaining := e.defn.freshRemaining
                                           run := .armed (wrapTick ts x) s.timeline.nextSequence })
        h he calendar rfl others ?_ rfl ?_
      · simp only [eq, armByEdge, leaveWaiting_holding, arm_holding, setEvent_holding, if_true, own, Holding.of_some]
        refine Holding.ext rfl (by simp [hr]) (by simp [hr]) (funext fun d => ?_)
        simp [Event.waitsOn, hr, line, retrigger, Function.update_apply, eq_comm]
      · rw [eq]; simp [armByEdge]
    | retrigger =>
      have retrigger : e.defn.retriggerLine = some c := by simp [Definition.retriggerLine, ht]
      have eq : triggerSlot c ts s i = armByEdge i e x ts s := by simp only [triggerSlot, he, ht, hr]
      refine edge_collected (d := { e with remaining := e.defn.freshRemaining
                                           run := .armed (wrapTick ts x) s.timeline.nextSequence })
        h he calendar rfl others ?_ rfl ?_
      · simp only [eq, armByEdge, arm_holding, setEvent_holding, if_true, own, Holding.of_some]
        exact Holding.ext rfl (by simp [hr]) (by simp [hr]) (funext fun d => by simp [Event.waitsOn, hr, line, retrigger])
      · rw [eq]; simp [armByEdge]
  · obtain ⟨y, q, hr⟩ : ∃ y q, e.run = .armed y q := by
      cases hr' : e.run <;> simp_all
    have eq : triggerSlot c ts s i = armByEdge i e x ts (removeEntry i s) := by simp only [triggerSlot, he, ht, hr]
    refine edge_collected (d := { e with remaining := e.defn.freshRemaining
                                         run := .armed (wrapTick ts x) s.timeline.nextSequence })
      h he calendar rfl others ?_ rfl ?_
    · simp only [eq, armByEdge, arm_holding, setEvent_holding, removeEntry_holding, if_true, own, Holding.of_some]
      exact Holding.ext rfl (by simp [removeEntry]) (by simp [hr]) (funext fun d => by simp [Event.waitsOn, hr])
    · rw [eq]; simp [armByEdge]

theorem triggerSlots_collected {l : List SlotId} {s : State} {c : CaptureId} {ts : Tick} (h : Collected s)
    (once : l.Nodup) (mem : ∀ i ∈ l, i ∈ s.capture.lines[c].waiting) : Collected (l.foldl (triggerSlot c ts) s) := by
  induction l generalizing s with
  | nil => exact h
  | cons i l ih =>
    obtain ⟨absent, once⟩ := List.nodup_cons.mp once
    refine ih (triggerSlot_collected h (mem i List.mem_cons_self)) once fun j hj => ?_
    have kept := congrFun (congrArg Holding.waiting (triggerSlot_others (c := c) (ts := ts) (s := s)
      (fun heq => absent (heq ▸ hj) : j ≠ i))) c
    have before := List.count_pos_iff.mpr (mem j (List.mem_cons_of_mem _ hj))
    exact List.count_pos_iff.mp (Nat.lt_of_lt_of_eq before kept.symm)

theorem trigger_collected {s : State} (c : CaptureId) (ts : Tick) (h : Collected s) : Collected (trigger c ts s) := by
  unfold trigger
  split
  · exact h
  · exact triggerSlots_collected h (((collectionsSound_iff s).mpr h).waitingOnce c) fun _ hi => hi

/-- A capture line record with its waiting list as it was. -/
theorem setCapture_collected {s : State} {c : CaptureId} {x : CaptureLine} (h : Collected s)
    (hx : x.waiting = s.capture.lines[c].waiting) : Collected (setCapture c x s) := by
  refine h.same (holding_congr (by simp) (by simp) (by simp) (by simp) fun d => ?_) rfl
  rw [setCapture_get]
  split
  · rename_i hd; subst hd; exact hx
  · rfl

theorem offerEdge_collected {s : State} (c : CaptureId) (v : Level) (ts : Tick) (h : Collected s) :
    Collected (offerEdge c v ts s) := by
  unfold offerEdge
  simp only []
  split
  · exact h.same rfl rfl
  · exact setCapture_collected (h.same rfl rfl) rfl

theorem reportEdge_collected {s : State} (c : CaptureId) (v : Level) (ts : Tick) (h : Collected s) :
    Collected (reportEdge c v ts s) := by
  unfold reportEdge
  split
  · split
    · exact setCapture_collected h rfl
    · exact offerEdge_collected c v ts h
  · exact h

theorem takeSample_collected {s : State} (c : CaptureId) (p : Sampling) (v : Level) (h : Collected s) :
    Collected (takeSample c p v s) := by
  unfold takeSample
  simp only []
  split
  · split
    · exact trigger_collected _ _ (reportEdge_collected _ _ _ (setCapture_collected (setCapture_collected h rfl) rfl))
    · exact setCapture_collected h rfl
  · exact setCapture_collected h rfl

end Sys2Proof.Machine
end

section
/-! R5 through works, SET_CALENDAR, the slot commands and the rings, and so through every step. -/

namespace Sys2Proof.Machine

open Sys2Proof

/-! ### Works -/

/-- An operation on other blocks alone. -/
theorem Collected.frame {s t : State} (h : Collected s) (slots : t.slots = s.slots) (timeline : t.timeline = s.timeline)
    (resolver : t.resolver = s.resolver) (capture : t.capture = s.capture) : Collected t :=
  h.same (holding_congr (fun _ => by rw [slots]) (by rw [timeline]) (by rw [resolver]) (by rw [resolver])
    fun _ => by rw [capture]) (by rw [resolver])

theorem take_collected {s : State} {x : Item} {l : List Item} (h : Collected s) (work : s.resolver.work = none)
    (queue : s.resolver.queue = x :: l) :
    Collected { s with resolver := { s.resolver with queue := l, work := some { item := x, abandoned := false } } } := by
  refine h.same (funext fun i => Holding.ext rfl rfl ?_ rfl) rfl
  show (l.map Item.slot).count i + workOf _ i = s.resolver.itemsOf i
  by_cases hi : x.slot = i <;> simp [Resolver.itemsOf, workOf, work, queue, hi]

theorem dropWork_collected {s : State} {w : Work} (h : Collected s) (work : s.resolver.work = some w)
    (abandoned : w.abandoned = true) : Collected { s with resolver := { s.resolver with work := none } } := by
  refine h.same (funext fun i => Holding.ext rfl rfl ?_ rfl) rfl
  show (s.resolver.queue.map Item.slot).count i + workOf _ i = s.resolver.itemsOf i
  simp [Resolver.itemsOf, workOf, work, abandoned]

/-- The work in progress is that of a RESOLVING slot of CALENDAR kind, and its one item. -/
theorem Collected.work_event {s : State} (h : Collected s) {w : Work} (work : s.resolver.work = some w)
    (live : w.abandoned = false) :
    ∃ e, s.slots[w.item.slot].event = some e ∧ e.run = .resolving ∧ e.defn.isCalendar = true := by
  obtain ⟨e, he, hr⟩ := Option.map_eq_some_iff.mp
    ((((collectionsSound_iff s).mpr h).resolving w.item.slot).mpr (.inr ⟨w, work, live, rfl⟩))
  exact ⟨e, he, hr, (h.fits he).calendar hr⟩

theorem absentWork_holding {s : State} (h : Collected s) {w : Work} {e : Event} (work : s.resolver.work = some w)
    (live : w.abandoned = false) (he : s.slots[w.item.slot].event = some e) (j : SlotId) :
    State.holding { s with resolver := { s.resolver with work := none } } j =
      if j = w.item.slot then { s.holding j with items := 0 } else s.holding j := by
  have one : (s.holding w.item.slot).items ≤ 1 := by
    rw [h.holding_some he, Holding.of_some]
    dsimp only
    split <;> omega
  split
  · rename_i hj
    subst hj
    refine Holding.ext rfl rfl ?_ rfl
    have : (s.resolver.queue.map Item.slot).count w.item.slot + workOf s.resolver.work w.item.slot ≤ 1 := one
    rw [work] at this
    simp only [workOf, live, true_and, if_true, Option.elim] at this
    show (s.resolver.queue.map Item.slot).count w.item.slot + 0 = 0
    omega
  · rename_i hj
    refine Holding.ext rfl rfl ?_ rfl
    simp [State.holding, Resolver.itemsOf, work, workOf, Ne.symm hj]

/-- The end of a work keeps R5 (R94, R95). -/
theorem endWork_collected {s : State} {w : Work} (h : Collected s) (work : s.resolver.work = some w)
    (live : w.abandoned = false) :
    Collected (endWork w.item { s with resolver := { s.resolver with work := none } }) := by
  obtain ⟨e, he, hr, hc⟩ := h.work_event work live
  have absent := absentWork_holding h work live he
  generalize hu : ({ s with resolver := { s.resolver with work := none } } : State) = u at absent ⊢
  have event : (s.holding w.item.slot).event = some e := he
  have started : u.resolver.started = s.resolver.started := by rw [← hu]
  have he' : u.slots[w.item.slot].event = some e := by rw [← hu]; exact he
  have own : u.holding w.item.slot =
      { event := some e, armings := 0, items := 0, waiting := fun c => if e.defn.retriggerLine = some c then 1 else 0 } := by
    rw [absent, if_pos rfl, h.holding_some he, Holding.of_some]
    simp [hr, Event.waitsOn, (isCalendar_lines hc).2]
  unfold endWork
  simp only [he']
  split
  · split
    · rename_i t _
      refine countPass_collected _ _ ?_
      have armed := arm_sound t own
      refine h.change w.item.slot (fun j hj => by simp [hj, absent]) armed.2 ?_ (by simpa [started] using h.most)
      rw [armed.1, event]
      simp [Holding.of_some, hr, started]
    · refine settle_collected (countPass_collected _ _ (offerFiring_collected _ _ _ ?_))
      refine dormant_collected (d := { e with run := .dormant }) h he (fun j hj => by simp [hj, absent]) ?_ rfl ?_
      · simp [own, (isCalendar_lines hc).2]
      · simp [dropStarted_started, started, hr, hc]
  · rename_i ht
    simp [Definition.isCalendar, ht] at hc

/-! ### SET_CALENDAR -/

theorem supersede_holding (s : State) : (supersede s).holding = s.holding := by
  refine holding_congr (by simp) (by simp) ?_ ?_ (by simp)
  all_goals unfold supersede endPass; split <;> simp

theorem supersede_started (s : State) : (supersede s).resolver.started = s.resolver.started := by
  unfold supersede endPass
  split <;> simp

theorem pushItems_holding (l : List SlotId) (m : Bool) (s : State) (j : SlotId) :
    (l.foldl (fun t i => pushItem i m t) s).holding j =
      { s.holding j with items := (s.holding j).items + l.count j } := by
  induction l generalizing s with
  | nil => rfl
  | cons i l ih =>
    rw [List.foldl_cons, ih, pushItem_holding]
    split
    · rename_i hj; subst hj; simp [Nat.add_assoc, Nat.add_comm 1]
    · rename_i hj; simp [Ne.symm hj]

theorem pushItems_started (l : List SlotId) (m : Bool) (s : State) :
    (l.foldl (fun t i => pushItem i m t) s).resolver.started = s.resolver.started := by
  induction l generalizing s with
  | nil => rfl
  | cons i l ih => rw [List.foldl_cons, ih, pushItem_started]

/-- An event taken back to RESOLVING, if it is ARMED and of CALENDAR kind (R97 step 3). -/
def Event.takenBack (e : Event) : Event := if e.defn.isCalendar && e.run.isArmed then { e with run := .resolving } else e

theorem takenBack_event (x : Slot) : x.takenBack.event = x.event.map Event.takenBack := by
  rcases x with ⟨g, p, - | e⟩
  · rfl
  · show Slot.event (if (e.defn.isCalendar && e.run.isArmed) = true then _ else _) = some (Event.takenBack e)
    unfold Event.takenBack
    split <;> rfl

theorem takeBack_holding (s : State) (j : SlotId) :
    (takeBack s).holding j =
      { event := (s.holding j).event.map Event.takenBack, items := 0, waiting := (s.holding j).waiting
        armings := if (s.slots[j]).calendarIn Run.isArmed then 0 else (s.holding j).armings } := by
  refine Holding.ext ?_ ?_ ?_ rfl
  · simp [State.holding, takeBack, takenBack_event]
  · have := armingsOf_filter s.timeline.entries (fun i => !(s.slots[i]).calendarIn Run.isArmed) j
    simp only [Bool.not_eq_true'] at this
    show armingsOf (s.timeline.entries.filter fun e => !(s.slots[e.slot]).calendarIn Run.isArmed) j = _
    rw [this]
    split <;> split <;> simp_all [State.holding]
  · show ([] : List SlotId).count j + workOf (s.resolver.work.map _) j = 0
    cases s.resolver.work <;> simp [workOf]

theorem calendarResolving_count (s : State) (j : SlotId) :
    (calendarResolving s).count j = if (s.slots[j]).calendarIn (fun r => r = .resolving) then 1 else 0 := by
  unfold calendarResolving
  rw [((List.nodup_finRange 256).filter _).count]
  simp only [List.mem_filter, List.mem_finRange, true_and]

/-- Each slot is sound after it is taken back and placed again (R97). -/
theorem rePlace_holding {s : State} (h : Collected s) (j : SlotId) :
    (rePlace s).holding j = .of ((s.holding j).event.map Event.takenBack) := by
  have placed := calendarResolving_count (takeBack s) j
  have taken : ((takeBack s).slots[j]).event = (s.holding j).event.map Event.takenBack :=
    congrArg Holding.event (takeBack_holding s j)
  rw [rePlace, pushItems_holding, placed, takeBack_holding]
  unfold Slot.calendarIn
  rw [taken]
  cases he : s.slots[j].event with
  | none =>
    have own := (h.slots j).eq
    rw [holding_event, he] at own
    simp [own, Holding.of]
  | some e =>
    have own := h.holding_some he
    have fits := h.fits he
    rw [own, Holding.of_some]
    simp only [Option.map_some, Option.elim, Holding.of_some, Event.takenBack]
    by_cases hc : e.defn.isCalendar = true
    · have lines := isCalendar_lines hc
      rcases e with ⟨d, r, n, m⟩
      cases r <;> simp_all [Event.waitsOn]
    · have hr : e.run ≠ .resolving := fun hr => hc (fits.calendar hr)
      simp [hc, hr]

theorem startedOf_takenBack (o : Option Event) : startedOf (o.map Event.takenBack) = startedOf o := by
  cases o with
  | none => rfl
  | some e =>
    unfold Event.takenBack
    by_cases hc : e.defn.isCalendar = true <;> by_cases hr : e.run.isArmed = true <;> simp [hc, hr]

theorem rePlace_collected {s : State} (h : Collected s) : Collected (rePlace s) := by
  have started : (rePlace s).resolver.started = s.resolver.started := by
    rw [rePlace, pushItems_started]; rfl
  refine ⟨fun j => ⟨?_, ?_⟩, ?_, started ▸ h.most⟩
  · rw [rePlace_holding h]; rfl
  · intro d hd
    rw [rePlace_holding h] at hd
    obtain ⟨e, he, rfl⟩ := Option.map_eq_some_iff.mp hd
    have fits := h.fits he
    unfold Event.takenBack
    split
    · rename_i hc
      simp only [Bool.and_eq_true] at hc
      exact ⟨fun _ => hc.1, by simp⟩
    · exact fits
  · rw [started, h.count, calendarsStarted_sum, calendarsStarted_sum]
    refine Finset.sum_congr rfl fun j _ => ?_
    rw [rePlace_holding h]
    exact (startedOf_takenBack _).symm

theorem takeSetCalendar_collected {s : State} (c : CommandRef) (f : CalendarFields) (h : Collected s) :
    Collected (takeSetCalendar c f s).1 := by
  unfold takeSetCalendar
  split
  · exact h
  · rename_i n _
    have placed : Collected (rePlace (setAnchor n (supersede s))) :=
      rePlace_collected ((h.same (supersede_holding s) (supersede_started s)).frame rfl rfl rfl rfl)
    dsimp only
    split
    · exact placed
    · exact placed.same rfl rfl

/-! ### Slot commands -/

theorem answerSlot_fst (i : SlotId) (st : Status) (s : State) : (answerSlot i st s).1 = s := rfl

theorem checked_collected {s : State} {hd : Header} {f : Event → State × Answer} (h : Collected s)
    (hf : ∀ e, s.slots[hd.slot].event = some e → Collected (f e).1) : Collected (checked hd s f).1 := by
  unfold checked
  split
  · exact h
  · rename_i e he
    split
    · exact hf e he
    · exact h

theorem takeLoad_collected {s : State} (hd : Header) (d : LoadFields) (h : Collected s) :
    Collected (takeLoad hd d s).1 := by
  unfold takeLoad
  split
  · exact h
  · rename_i free
    split
    · exact h
    · rename_i v _
      have he : s.slots[hd.slot].event = none := by simpa using free
      have own := (h.slots hd.slot).eq
      rw [holding_event, he] at own
      have loaded : (setSlot hd.slot (s.slots[hd.slot].load v) s).holding hd.slot =
          .of (some { defn := v, run := .dormant, remaining := none, firingsDone := 0 }) := by
        rw [setSlot_holding, if_pos rfl, own, Holding.of_some]
        exact Holding.ext rfl rfl rfl (funext fun c => by simp [Holding.of, Event.waitsOn])
      show Collected (setSlot hd.slot (s.slots[hd.slot].load v) s)
      refine h.change hd.slot (fun j hj => by simp [hj])
        (Holding.sound_of loaded (fits_of_run (by simp) (by simp))) ?_ h.most
      rw [loaded, own]
      simp [Holding.of, startedOf]

theorem takeStart_collected {s : State} (hd : Header) (h : Collected s) : Collected (takeStart hd s).1 := by
  refine checked_collected h fun e he => ?_
  split
  · exact h
  · rename_i hr
    split
    · exact h
    · rename_i hf
      rw [answerSlot_fst]
      exact startSlot_collected s.time.timebase h he (by simpa using hr) (by simpa using hf)

theorem takeStop_collected {s : State} (hd : Header) (h : Collected s) : Collected (takeStop hd s).1 := by
  refine checked_collected h fun e he => ?_
  split
  · exact h
  · rw [answerSlot_fst]
    exact stopSlot_collected h he

theorem retime_lines (f : RetimeFields) (d : Definition) :
    (d.retime f).isCalendar = d.isCalendar ∧ (d.retime f).triggerLine = d.triggerLine ∧
      (d.retime f).retriggerLine = d.retriggerLine := by
  unfold Definition.retime
  cases ht : d.timing with
  | tick m x n => cases m with
    | trigger c t => cases t <;> simp [Definition.isCalendar, Definition.triggerLine, Definition.retriggerLine, ht]
    | _ => simp [Definition.isCalendar, Definition.triggerLine, Definition.retriggerLine, ht]
  | calendar p => simp

/-- A new definition of the same kind and lines keeps R5. -/
theorem setEvent_collected {s : State} {i : SlotId} {e : Event} {d : Definition} (h : Collected s)
    (he : s.slots[i].event = some e) (calendar : d.isCalendar = e.defn.isCalendar)
    (trigger : d.triggerLine = e.defn.triggerLine) (retrigger : d.retriggerLine = e.defn.retriggerLine) :
    Collected (setEvent i { e with defn := d } s) := by
  have own := h.holding_some he
  have fits := h.fits he
  have eq : (setEvent i { e with defn := d } s).holding i = .of (some { e with defn := d }) := by
    simp [own, Holding.of_some, Event.waitsOn, trigger, retrigger]
  refine h.change i (fun j hj => by simp [hj]) (Holding.sound_of eq ⟨?_, ?_⟩) ?_ h.most
  · simpa [calendar] using fits.calendar
  · simpa [trigger] using fits.trigger
  · rw [eq, own]
    simp [Holding.of_some, calendar]

/-- An ARMED slot inserted again with a new expiry keeps R5 (R18). -/
theorem rearm_collected {s : State} {i : SlotId} {e : Event} (x : Tick) (h : Collected s)
    (he : s.slots[i].event = some e) (armed : e.run.isArmed = true) : Collected (arm i x (removeEntry i s)) := by
  have event : (s.holding i).event = some e := he
  obtain ⟨y, q, hr⟩ : ∃ y q, e.run = .armed y q := by
    cases hr : e.run <;> simp_all
  have sound := arm_sound (s := removeEntry i s) (i := i) (e := e) x
    (by simp [h.holding_some he, Holding.of_some, hr, Event.waitsOn])
  refine h.change i (fun j hj => by simp [hj]) sound.2 ?_ (by simpa using h.most)
  rw [sound.1, event]
  simp [Holding.of_some, hr]

theorem takeRetime_collected {s : State} (hd : Header) (f : RetimeFields) (h : Collected s) :
    Collected (takeRetime hd f s).1 := by
  refine checked_collected h fun e he => ?_
  have lines := retime_lines f e.defn
  have timed := setEvent_collected (d := e.defn.retime f) h he lines.1 lines.2.1 lines.2.2
  split
  · exact h
  · split
    · unfold retimeSlot
      split
      · rename_i hr hx
        exact rearm_collected _ timed (by simp [setEvent]; rfl) (by simp [hr])
      all_goals exact timed
    · exact h

theorem takeUnload_collected {s : State} (hd : Header) (h : Collected s) : Collected (takeUnload hd s).1 := by
  refine checked_collected h fun e he => ?_
  split
  · exact h
  · rename_i hr
    split
    · exact h
    · have own := h.dormant he (by simpa using hr)
      have hr : e.run = .dormant := by simpa using hr
      have eq : (setSlot hd.slot { s.slots[hd.slot] with event := none } s).holding hd.slot = .of none := by
        simp [own, Holding.of]
      show Collected (setSlot hd.slot { s.slots[hd.slot] with event := none } s)
      refine h.change hd.slot (fun j hj => by simp [hj]) ⟨?_, ?_⟩ ?_ h.most
      · rw [eq]; rfl
      · rw [eq]; simp [Holding.of]
      · rw [eq, own]; simp [Holding.of, startedOf, hr]

theorem takeWait_collected {s : State} (c : CommandRef) (hd : Header) (n : BitVec 64) (h : Collected s) :
    Collected (takeWait c hd n s).1 := by
  refine checked_collected h fun e he => ?_
  split
  · exact h
  · split
    · exact h
    · exact h.frame rfl rfl rfl rfl

theorem stepTime_collected {s : State} (d : BitVec 64) (h : Collected s) : Collected (stepTime d s) :=
  h.frame (by simp) (by simp) (by simp) (by simp)

/-- Every command keeps R5 at its owner. -/
theorem takeCommand_collected {s : State} (c : CommandRef) (hd : Header) (m : Command) (h : Collected s) :
    Collected (takeCommand c hd m s).1 := by
  cases m with
  | load d => exact takeLoad_collected hd d h
  | start => exact takeStart_collected hd h
  | stop => exact takeStop_collected hd h
  | retime f => exact takeRetime_collected hd f h
  | unload => exact takeUnload_collected hd h
  | query => exact checked_collected h fun _ _ => h
  | wait n => exact takeWait_collected c hd n h
  | nop => exact h
  | readTime => exact h
  | trimRate v =>
    show Collected (takeTrimRate c v s).1
    unfold takeTrimRate
    split
    · exact h
    · split
      · exact h
      · exact h.frame rfl rfl rfl rfl
  | stepTimebase d =>
    show Collected (takeStepTimebase d s).1
    unfold takeStepTimebase
    split
    · exact stepTime_collected d h
    · exact h
  | setCalendar f => exact takeSetCalendar_collected c f h
  | lineSetup f =>
    show Collected (takeLineSetup f s).1
    unfold takeLineSetup
    split
    · exact h
    · exact h.frame rfl rfl rfl rfl
  | lineForce w =>
    show Collected (takeLineForce w s).1
    unfold takeLineForce
    split
    · exact h
    · split
      · exact h
      · split
        · exact actOnLine_collected _ _ h
        · exact h
  | captureSetup f v =>
    show Collected (takeCaptureSetup f v s).1
    unfold takeCaptureSetup
    split
    · exact h
    · exact setCapture_collected h rfl

end Sys2Proof.Machine
end

section
/-! R5 through the rings, and so through every step (O59). -/

namespace Sys2Proof.Machine

open Sys2Proof

/-- A slot whose listed notice was posted keeps its event, and a capture line its waiting list. -/
theorem serve_holding (k : NoticeRingId) (s : State) : (serve k s).holding = s.holding := by
  obtain ⟨t, posted, granted, hp, hg, -⟩ := serve_cases k s
  have slots : (serve k s).slots = t.slots := by rw [hg.blocks]
  have capture : (serve k s).capture = t.capture := by rw [hg.blocks]
  refine holding_congr (fun i => ?_) (by simp) (by simp) (by simp) fun c => ?_
  · rw [slots, hp.slots]
    split <;> rfl
  · rw [capture, hp.lines]
    split <;> rfl

theorem serve_collected {s : State} (k : NoticeRingId) (h : Collected s) : Collected (serve k s) :=
  h.same (serve_holding k s) (by simp)

theorem returnReservations_collected {s : State} (k : NoticeRingId) (n : Nat) (h : Collected s) :
    Collected (returnReservations k n s) := serve_collected k (h.frame rfl rfl rfl rfl)

theorem clearRing_collected {s : State} (k : NoticeRingId) (r : CommandRingId) (h : Collected s) :
    Collected (clearRing k r s) := h.frame (by simp) (by simp) (by simp) (by simp)

theorem resetCommandRing_collected {s : State} (b : Bool) (r : CommandRingId) (h : Collected s) :
    Collected (resetCommandRing b r s) := by
  unfold resetCommandRing
  split
  · split
    · exact clearRing_collected _ _ h
    · exact returnReservations_collected _ _ (clearRing_collected _ _ h)
  · exact h

theorem discardSource_collected {s : State} (d : Deferred) (h : Collected s) : Collected (discardSource s d) := by
  unfold discardSource
  split
  · exact h.same (setNoticePending_holding _ _ _) rfl
  · exact setCapture_collected h rfl
  · exact h

theorem discardSources_collected {l : List Deferred} {s : State} (h : Collected s) : Collected (l.foldl discardSource s) := by
  induction l generalizing s with
  | nil => exact h
  | cons d l ih => exact ih (discardSource_collected d h)

theorem cascadeReset_collected {s : State} (k : NoticeRingId) (r : CommandRingId) (h : Collected s) :
    Collected (cascadeReset k s r) := by
  unfold cascadeReset
  split
  · exact resetCommandRing_collected true r h
  · exact h

theorem offerSystem_collected {s : State} (b : SystemBody) (h : Collected s) : Collected (offerSystem b s) :=
  h.frame (by simp) (by simp) (by simp) (by simp)

theorem resetNoticeRing_collected {s : State} (k : NoticeRingId) (h : Collected s) : Collected (resetNoticeRing k s) := by
  have fresh : Collected (setNotice k (s.notices[k].fresh s.notices[k].config) s) := h.frame rfl rfl rfl rfl
  have cascade := cascadeReset_collected k 3 (cascadeReset_collected k 2 (cascadeReset_collected k 1
    (cascadeReset_collected k 0 (discardSources_collected (l := s.notices[k].deferred) fresh))))
  unfold resetNoticeRing
  simp only [List.foldl]
  split
  · exact offerSystem_collected _ cascade
  · exact cascade

/-- The empty collections meet R5. -/
theorem collected_of_reset {s : State} (slots : ∀ i : SlotId, s.slots[i] = Slot.reset) (timeline : s.timeline.entries = [])
    (resolver : s.resolver = Resolver.reset) (lines : ∀ c : CaptureId, s.capture.lines[c].waiting = []) : Collected s := by
  have held : ∀ i, s.holding i = .of none := fun i => by
    unfold State.holding
    rw [slots, timeline, resolver]
    simp only [lines]
    rfl
  have started : s.resolver.started = 0 := by rw [resolver]; rfl
  refine ⟨fun i => ⟨by rw [held]; rfl, by simp [held, Holding.of]⟩, ?_, by rw [started]; exact Nat.zero_le _⟩
  rw [started, calendarsStarted_sum]
  exact (Finset.sum_eq_zero fun i _ => by rw [held]; rfl).symm

theorem controlReset_collected (s : State) : Collected (controlReset s) :=
  collected_of_reset (fun i => by simp [controlReset]) rfl rfl fun c => by
    simp [controlReset, CaptureUnit.reset, CaptureLine.reset]

theorem handCompletion_collected {s : State} (r : CommandRingId) (d : BitVec 16) (n : Nat) (st : Status) (q : Result)
    (h : Collected s) : Collected (handCompletion r d n st q s) :=
  h.frame (by simp) (by simp) (by simp) (by simp)

theorem answerCommand_collected {s : State} (c : CommandRef) (a : Answer) (h : Collected s) :
    Collected (answerCommand c a s) := by
  cases a with
  | complete st q => exact handCompletion_collected _ _ _ _ _ h
  | owe k => exact h.frame rfl rfl rfl rfl

theorem takeFetched_collected {s : State} (hd : Header) (m : Option Command) (r : CommandRingId) (h : Collected s) :
    Collected (takeFetched hd m r s) := by
  have advanced : Collected (advanceTake r s) := h.frame (by simp) (by simp) (by simp) (by simp)
  cases m with
  | none => exact answerCommand_collected _ (.complete .badCommand .zero) advanced
  | some m => exact answerCommand_collected _ _ (takeCommand_collected _ hd m advanced)

theorem leaveHalted_collected {s : State} (m : ResumeMode) (h : Collected s) : Collected (leaveHalted m s) := by
  have offered : Collected (offerSystem (.resumed m) (clearCauses s)) := offerSystem_collected _ (h.frame rfl rfl rfl rfl)
  exact (resumeTimeline_collected m offered).same rfl rfl

theorem enterHalted_collected {s : State} (h : Collected s) : Collected (enterHalted s) :=
  offerSystem_collected _ (h.same rfl rfl)

theorem latch_collected {s : State} (f : Control → Control) (h : Collected s) : Collected (latch f s) := by
  unfold latch
  split
  · exact enterHalted_collected (h.frame rfl rfl rfl rfl)
  · exact h.frame rfl rfl rfl rfl

theorem evalReady_collected {s : State} (k : NoticeRingId) (h : Collected s) : Collected (evalReady k s) :=
  h.frame rfl rfl rfl rfl

theorem endWriteInMemory_collected {s : State} (q : Queued) (e : WriteEnd) (h : Collected s) :
    Collected (endWriteInMemory q e s) := by
  unfold endWriteInMemory
  cases e with
  | good => exact h.frame rfl rfl rfl rfl
  | busError => exact h.frame rfl rfl rfl rfl

theorem setFault_collected {s : State} (h : Collected s) : Collected (setFault s) := h.frame rfl rfl rfl rfl

theorem faultFetch_collected {s : State} (r : CommandRingId) (h : Collected s) : Collected (faultFetch r s) := by
  have cleared : Collected (setRing r { s.intake.rings[r] with fetch := none, state := .faulted } s) := h.frame rfl rfl rfl rfl
  unfold faultFetch
  refine offerSystem_collected _ (setFault_collected ?_)
  split
  · exact returnReservations_collected _ _ cleared
  · exact cleared

theorem endHeadWrite_collected {s : State} (k : NoticeRingId) (q : Queued) (e : WriteEnd) (h : Collected s) :
    Collected (endHeadWrite k q e s) := by
  cases e with
  | good => exact evalReady_collected k (h.frame rfl rfl rfl rfl)
  | busError =>
    exact h.frame (by simp [endHeadWrite]) (by simp [endHeadWrite]) (by simp [endHeadWrite]) (by simp [endHeadWrite])

theorem loadSetup_collected {s : State} (b : SetupConfig) (h : Collected s) : Collected (loadSetup b s) := by
  have configured : Collected (configure b s) := h.same rfl rfl
  unfold loadSetup
  split
  · exact settle_collected (enterHalted_collected configured)
  · exact settle_collected configured

/-- Every move keeps R5. -/
theorem move_collected {c : Instr} {s t : State} (m : Move c s t) (h : Collected s) : Collected t := by
  cases m with
  | settle => exact settle_collected h
  | dropFetch => exact h.frame rfl rfl rfl rfl
  | stallIfFaulted => exact h.frame (by simp) (by simp) (by simp) (by simp)
  | fetched => exact takeFetched_collected _ _ _ h
  | unknown => exact takeFetched_collected _ _ _ h
  | faulted => exact faultFetch_collected _ h
  | control => exact h.frame rfl rfl rfl rfl
  | start off _ =>
    rw [controlStart, if_pos off]
    exact h.frame rfl rfl rfl rfl
  | halt => exact latch_collected _ h
  | haltIn => exact latch_collected _ h
  | clearCauses => exact h.frame rfl rfl rfl rfl
  | leaveHalted => exact leaveHalted_collected _ h
  | reset => exact controlReset_collected s
  | fullReset b =>
    exact (controlReset_collected { s with control := { s.control with resetAsserted := b } }).frame rfl rfl rfl rfl
  | release => exact h.frame rfl rfl rfl rfl
  | post => exact h.frame rfl rfl rfl rfl
  | rejectIndex => exact offerSystem_collected _ (h.frame rfl rfl rfl rfl)
  | releaseIndex => exact evalReady_collected _ (serve_collected _ (h.frame rfl rfl rfl rfl))
  | resetRing => exact resetCommandRing_collected _ _ h
  | resetNotice => exact resetNoticeRing_collected _ h
  | pulseEnd => exact h.frame rfl rfl rfl rfl
  | clock => exact h.frame rfl rfl rfl rfl
  | period => exact h.frame rfl rfl rfl rfl
  | fire due event => exact fire_collected h (due_head due).1 event
  | @dropHead x _ due event =>
    have armed := h.armed_of_mem (List.mem_of_head? (due_head due).1)
    simp [State.runOf, -Fin.getElem_fin, event] at armed
  | boundary => exact h.frame (by simp) (by simp) (by simp) (by simp)
  | sample => exact takeSample_collected _ _ _ h
  | evalReady => exact evalReady_collected _ h
  | endWait => exact h.frame (by simp) (by simp) (by simp) (by simp)
  | endStale => exact endWriteInMemory_collected _ _ (h.frame rfl rfl rfl rfl)
  | endHead => exact endHeadWrite_collected _ _ _ (endWriteInMemory_collected _ _ h)
  | dropRead => exact h.frame rfl rfl rfl rfl
  | loadSetup => exact loadSetup_collected _ (h.frame rfl rfl rfl rfl)
  | failSetup => exact h.frame rfl rfl rfl rfl
  | take work queue => exact take_collected h work queue
  | dropWork work abandoned => exact dropWork_collected h work abandoned
  | endWork work live => exact endWork_collected h work live

/-- Settles O59: R5 said slot by slot is kept by every move, and a step is a chain of moves. -/
theorem stepKeepsTheCollectionsSound : Obligations.StepKeepsTheCollectionsSound := by
  intro s t hs h
  rw [collectionsSound_iff] at hs ⊢
  exact step_keeps (fun _ _ hu => hu.frame rfl rfl rfl rfl) move_collected hs h

end Sys2Proof.Machine
end

section
/-! What each command leaves of the control unit and the output lines, the setup reads, and the lines of a HALTED
controller. -/

namespace Sys2Proof.Machine

open Sys2Proof

/-! ### Commands and the control unit -/

theorem checked_control {s : State} {hd : Header} {f : Event → State × Answer}
    (hf : ∀ e, s.slots[hd.slot].event = some e → (f e).1.control = s.control) : (checked hd s f).1.control = s.control := by
  unfold checked
  split
  · rfl
  · rename_i e he
    split
    · exact hf e he
    · rfl

@[simp] theorem takeSetCalendar_control (c : CommandRef) (f : CalendarFields) (s : State) :
    (takeSetCalendar c f s).1.control = s.control := by
  unfold takeSetCalendar
  split
  · rfl
  · dsimp only
    split <;> simp

theorem retimeSlot_control (i : SlotId) (e : Event) (f : RetimeFields) (s : State) :
    (retimeSlot i e f s).1.control = s.control := by
  unfold retimeSlot
  split
  · simp
  all_goals rfl

/-- No command of a record touches the control unit. -/
@[simp] theorem takeCommand_control (c : CommandRef) (hd : Header) (m : Command) (s : State) :
    (takeCommand c hd m s).1.control = s.control := by
  cases m with
  | load d =>
    show (takeLoad hd d s).1.control = s.control
    unfold takeLoad
    split
    · rfl
    · split <;> rfl
  | start =>
    refine checked_control fun e _ => ?_
    split
    · rfl
    · split
      · rfl
      · rw [answerSlot_fst]; simp
  | stop =>
    refine checked_control fun e _ => ?_
    split
    · rfl
    · rw [answerSlot_fst]; simp
  | retime f =>
    refine checked_control fun e _ => ?_
    split
    · rfl
    · split
      · exact retimeSlot_control _ _ _ _
      · rfl
  | unload =>
    refine checked_control fun e _ => ?_
    split
    · rfl
    · split <;> rfl
  | query => exact checked_control fun _ _ => rfl
  | wait n =>
    refine checked_control fun e _ => ?_
    split
    · rfl
    · split <;> rfl
  | nop => rfl
  | readTime => rfl
  | trimRate v =>
    show (takeTrimRate c v s).1.control = s.control
    unfold takeTrimRate
    split
    · rfl
    · split <;> rfl
  | stepTimebase d =>
    show (takeStepTimebase d s).1.control = s.control
    unfold takeStepTimebase
    split
    · simp
    · rfl
  | setCalendar f => exact takeSetCalendar_control c f s
  | lineSetup f =>
    show (takeLineSetup f s).1.control = s.control
    unfold takeLineSetup
    split <;> rfl
  | lineForce w =>
    show (takeLineForce w s).1.control = s.control
    unfold takeLineForce
    split
    · rfl
    · split
      · rfl
      · split
        · simp
        · rfl
  | captureSetup f v =>
    show (takeCaptureSetup f v s).1.control = s.control
    unfold takeCaptureSetup
    split <;> rfl

@[simp] theorem answerCommand_frame (c : CommandRef) (a : Answer) (s : State) :
    (answerCommand c a s).control = s.control ∧ (answerCommand c a s).slots = s.slots ∧
      (answerCommand c a s).lines = s.lines ∧ (answerCommand c a s).capture = s.capture := by
  cases a <;> simp [answerCommand]

@[simp] theorem takeFetched_control (hd : Header) (m : Option Command) (r : CommandRingId) (s : State) :
    (takeFetched hd m r s).control = s.control := by
  cases m <;> simp [takeFetched]

/-! ### Setup reads and RESET_N -/

/-- The setup reads, the core state and RESET_N are as they were. -/
theorem SetupSound.kept {s t : State} (h : SetupSound s) (core : t.control.core = s.control.core)
    (reads : t.control.setupReads = s.control.setupReads) (reset : t.control.resetAsserted = s.control.resetAsserted) :
    SetupSound t := by
  refine ⟨?_, ?_, ?_⟩
  · rw [reads]; exact h.one
  · rw [core, reads]; exact h.loading
  · rw [core, reset]; exact h.held

theorem SetupSound.frame {s t : State} (h : SetupSound s) (control : t.control = s.control) : SetupSound t :=
  h.kept (by rw [control]) (by rw [control]) (by rw [control])

/-- The live read among the setup reads stands while the core is LOADING. -/
theorem SetupSound.loading_of_live {s : State} (h : SetupSound s) {i : Nat} {x : SetupRead}
    (read : s.control.setupReads[i]? = some x) (live : x.abandoned = false) : s.control.core = .loading := by
  by_contra hc
  rw [h.loading hc x (List.mem_of_getElem? read)] at live
  cases live

/-- Once the live read is gone, every read left is abandoned. -/
theorem abandoned_of_erase {l : List SetupRead} {i : Nat} {x : SetupRead} (one : (l.filter fun y => !y.abandoned).length ≤ 1)
    (read : l[i]? = some x) (live : x.abandoned = false) : ∀ y ∈ l.eraseIdx i, y.abandoned = true := by
  induction l generalizing i with
  | nil => simp
  | cons a l ih =>
    cases i with
    | zero =>
      simp only [List.getElem?_cons_zero, Option.some.injEq] at read
      subst read
      simp only [live, Bool.not_false, List.filter_cons_of_pos, List.length_cons] at one
      have none : l.filter (fun y => !y.abandoned) = [] := List.eq_nil_of_length_eq_zero (by omega)
      intro y hy
      simpa using List.filter_eq_nil_iff.mp none y hy
    | succ i =>
      simp only [List.getElem?_cons_succ] at read
      have some : 1 ≤ (l.filter fun y => !y.abandoned).length :=
        List.length_pos_of_mem (List.mem_filter.mpr ⟨List.mem_of_getElem? read, by simp [live]⟩)
      have ha : a.abandoned = true := by
        by_contra ha
        rw [List.filter_cons_of_pos (by simpa using ha), List.length_cons] at one
        omega
      have one' : (l.filter fun y => !y.abandoned).length ≤ 1 := by simpa [ha] using one
      intro y hy
      rcases List.mem_cons.mp hy with rfl | hy
      · exact ha
      · exact ih one' read y hy

theorem SetupSound.of_abandoned {s : State} (all : ∀ x ∈ s.control.setupReads, x.abandoned = true)
    (held : s.control.resetAsserted = true → s.control.core = .off) : SetupSound s := by
  refine ⟨?_, fun _ => all, held⟩
  rw [List.filter_eq_nil_iff.mpr fun x hx => by simp [all x hx]]
  exact Nat.zero_le 1

theorem controlReset_setupSound (s : State) : SetupSound (controlReset s) :=
  .of_abandoned (fun x hx => by
    obtain ⟨y, -, rfl⟩ := List.mem_map.mp (show x ∈ s.control.setupReads.map _ from hx)
    rfl) fun _ => rfl

theorem latch_control (f : Control → Control) (s : State) : (latch f s).control = f s.control := by
  unfold latch
  split <;> simp

theorem leaveHalted_control (m : ResumeMode) (s : State) :
    (leaveHalted m s).control = { s.control with software := false, pin := false } := by
  show (resumeTimeline m _).control = _
  rw [(resumeTimeline_frame m _).1, (offerSystem_frame _ _).1]
  rfl

/-- After the end of the live read, with the core no longer LOADING. -/
theorem setupRead_ended {s t : State} (h : SetupSound s) {i : Nat} {x : SetupRead}
    (read : s.control.setupReads[i]? = some x) (live : x.abandoned = false)
    (reads : t.control.setupReads = s.control.setupReads.eraseIdx i)
    (reset : t.control.resetAsserted = s.control.resetAsserted) : SetupSound t := by
  refine .of_abandoned (by rw [reads]; exact abandoned_of_erase h.one read live) fun ha => ?_
  have off := h.held (reset ▸ ha)
  rw [h.loading_of_live read live] at off
  cases off

theorem loadSetup_control (b : SetupConfig) (s : State) : (loadSetup b s).control = { s.control with core := .running } := by
  unfold loadSetup
  split <;> simp [configure]

@[simp] theorem endWriteInMemory_frame (q : Queued) (e : WriteEnd) (s : State) :
    (endWriteInMemory q e s).control = s.control ∧ (endWriteInMemory q e s).intake = s.intake ∧
      (endWriteInMemory q e s).slots = s.slots ∧ (endWriteInMemory q e s).timeline = s.timeline ∧
      (endWriteInMemory q e s).resolver = s.resolver ∧ (endWriteInMemory q e s).time = s.time ∧
      (endWriteInMemory q e s).lines = s.lines ∧ (endWriteInMemory q e s).capture = s.capture ∧
      (endWriteInMemory q e s).notices = s.notices := by
  unfold endWriteInMemory
  cases e with
  | good => exact ⟨rfl, rfl, rfl, rfl, rfl, rfl, rfl, rfl, rfl⟩
  | busError => exact ⟨rfl, rfl, rfl, rfl, rfl, rfl, rfl, rfl, rfl⟩

theorem faultNotices_control (k : NoticeRingId) (s : State) :
    (faultNotices k s).control = { s.control with fault := true } := by
  unfold faultNotices
  simp only []
  split <;> simp [setFault]

theorem endHeadWrite_control (k : NoticeRingId) (q : Queued) (e : WriteEnd) (s : State) :
    (endHeadWrite k q e s).control = s.control ∨ (endHeadWrite k q e s).control = { s.control with fault := true } := by
  cases e with
  | good => exact .inl rfl
  | busError => exact .inr (faultNotices_control k s)

theorem faultFetch_control (r : CommandRingId) (s : State) : (faultFetch r s).control = { s.control with fault := true } := by
  unfold faultFetch
  simp only [offerSystem_frame, setFault]
  split <;> simp

theorem rejectIndex_control (o : Nat) (s : State) : (rejectIndex o s).control = { s.control with badIndex := true } := by
  simp [rejectIndex]

/-- Every move keeps the setup reads sound (R162, R164, R169). -/
theorem move_setupSound {c : Instr} {s t : State} (m : Move c s t) (h : SetupSound s) : SetupSound t := by
  cases m with
  | control alike => exact h.kept alike.core alike.reads alike.reset
  | start off released =>
    rw [controlStart, if_pos off]
    refine ⟨?_, fun hc => absurd rfl hc, fun ha => ?_⟩
    · have gone : s.control.setupReads.filter (fun x => !x.abandoned) = [] := List.filter_eq_nil_iff.mpr fun x hx => by
        simp [h.loading (by simp [off]) x hx]
      simp [gone]
    · rw [show s.control.resetAsserted = true from ha] at released
      cases released
  | halt => exact h.kept (by rw [controlHalt, latch_control]) (by rw [controlHalt, latch_control])
              (by rw [controlHalt, latch_control])
  | haltIn => exact h.kept (by rw [latch_control]) (by rw [latch_control]) (by rw [latch_control])
  | clearCauses => exact h.kept rfl rfl rfl
  | leaveHalted => exact h.kept (by simp [leaveHalted_control]) (by simp [leaveHalted_control]) (by simp [leaveHalted_control])
  | reset => exact controlReset_setupSound s
  | fullReset b =>
    exact (controlReset_setupSound { s with control := { s.control with resetAsserted := b } }).kept rfl rfl rfl
  | release asserted =>
    have off := h.held asserted
    exact .of_abandoned (h.loading (by simp [off])) fun _ => off
  | rejectIndex => exact h.kept (by simp [rejectIndex_control]) (by simp [rejectIndex_control]) (by simp [rejectIndex_control])
  | faulted => exact h.kept (by simp [faultFetch_control]) (by simp [faultFetch_control]) (by simp [faultFetch_control])
  | @endHead k q l e _ queue =>
    have kept : SetupSound (endWriteInMemory q e s) := h.frame (by simp)
    obtain hc | hc := endHeadWrite_control k q e (endWriteInMemory q e s)
    · exact kept.frame hc
    · exact kept.kept (by rw [hc]) (by rw [hc]) (by rw [hc])
  | @dropRead i x _ read abandoned =>
    have sub : (s.control.setupReads.eraseIdx i).Sublist s.control.setupReads := List.eraseIdx_sublist _ _
    exact ⟨(sub.filter _).length_le.trans h.one, fun hc y hy => h.loading hc y (sub.subset hy), h.held⟩
  | loadSetup read live =>
    exact setupRead_ended h read live (by simp [loadSetup_control]) (by simp [loadSetup_control])
  | failSetup read live => exact setupRead_ended h read live rfl rfl
  | _ => exact h.frame (by simp)

/-! ### The lines of a HALTED controller -/

theorem checked_lines {s : State} {hd : Header} {f : Event → State × Answer}
    (hf : ∀ e, s.slots[hd.slot].event = some e →
      (f e).1.lines = s.lines ∧ (f e).1.capture.suppressed = s.capture.suppressed) :
    (checked hd s f).1.lines = s.lines ∧ (checked hd s f).1.capture.suppressed = s.capture.suppressed := by
  unfold checked
  split
  · exact ⟨rfl, rfl⟩
  · rename_i e he
    split
    · exact hf e he
    · exact ⟨rfl, rfl⟩

@[simp] theorem joinWaiting_suppressed (c : CaptureId) (i : SlotId) (s : State) :
    (joinWaiting c i s).capture.suppressed = s.capture.suppressed := rfl

@[simp] theorem leaveWaiting_suppressed (c : CaptureId) (i : SlotId) (s : State) :
    (leaveWaiting c i s).capture.suppressed = s.capture.suppressed := rfl

@[simp] theorem startSlot_suppressed (i : SlotId) (e : Event) (o : Tick) (s : State) :
    (startSlot i e o s).capture.suppressed = s.capture.suppressed := by
  unfold startSlot
  simp only []
  split <;> simp

@[simp] theorem leaveCollections_suppressed (i : SlotId) (e : Event) (s : State) :
    (leaveCollections i e s).capture.suppressed = s.capture.suppressed := by
  unfold leaveCollections
  simp only []
  split
  · rfl
  · split <;> simp
  · simp
  · split <;> split <;> simp

@[simp] theorem stopSlot_suppressed (i : SlotId) (e : Event) (s : State) :
    (stopSlot i e s).capture.suppressed = s.capture.suppressed := by
  simp [stopSlot]

end Sys2Proof.Machine
end

section
/-! R68 and R116 through every step: what a HALTED controller keeps. -/

namespace Sys2Proof.Machine

open Sys2Proof

/-! ### Suppression of triggers -/

@[simp] theorem serve_suppressed (k : NoticeRingId) (s : State) : (serve k s).capture.suppressed = s.capture.suppressed := by
  obtain ⟨t, posted, granted, hp, hg, -⟩ := serve_cases k s
  rw [hg.blocks]
  exact hp.suppressed

@[simp] theorem returnReservations_suppressed (k : NoticeRingId) (n : Nat) (s : State) :
    (returnReservations k n s).capture.suppressed = s.capture.suppressed := by
  simp [returnReservations]

@[simp] theorem resetCommandRing_suppressed (b : Bool) (r : CommandRingId) (s : State) :
    (resetCommandRing b r s).capture.suppressed = s.capture.suppressed := by
  unfold resetCommandRing
  split
  · split <;> simp
  · rfl

theorem discardSources_suppressed (l : List Deferred) (s : State) :
    (l.foldl discardSource s).capture.suppressed = s.capture.suppressed := by
  induction l generalizing s with
  | nil => rfl
  | cons d l ih =>
    rw [List.foldl_cons, ih]
    cases d <;> rfl

@[simp] theorem cascadeReset_suppressed (k : NoticeRingId) (r : CommandRingId) (s : State) :
    (cascadeReset k s r).capture.suppressed = s.capture.suppressed := by
  unfold cascadeReset
  split <;> simp

/-- A notice ring reset leaves suppression alone (R137). -/
@[simp] theorem resetNoticeRing_suppressed (k : NoticeRingId) (s : State) :
    (resetNoticeRing k s).capture.suppressed = s.capture.suppressed := by
  unfold resetNoticeRing
  simp only [List.foldl]
  split <;> simp [discardSources_suppressed]

@[simp] theorem offerEdge_suppressed (c : CaptureId) (v : Level) (ts : Tick) (s : State) :
    (offerEdge c v ts s).capture.suppressed = s.capture.suppressed := by
  unfold offerEdge
  simp only []
  split <;> simp

@[simp] theorem reportEdge_suppressed (c : CaptureId) (v : Level) (ts : Tick) (s : State) :
    (reportEdge c v ts s).capture.suppressed = s.capture.suppressed := by
  unfold reportEdge
  split
  · split <;> simp
  · rfl

theorem triggerSlot_suppressed (c : CaptureId) (ts : Tick) (s : State) (i : SlotId) :
    (triggerSlot c ts s i).capture.suppressed = s.capture.suppressed := by
  unfold triggerSlot
  split
  · split <;> simp
  · rfl

theorem triggerSlots_suppressed (c : CaptureId) (ts : Tick) (l : List SlotId) (s : State) :
    (l.foldl (triggerSlot c ts) s).capture.suppressed = s.capture.suppressed := by
  induction l generalizing s with
  | nil => rfl
  | cons i l ih => rw [List.foldl_cons, ih, triggerSlot_suppressed]

@[simp] theorem trigger_suppressed (c : CaptureId) (ts : Tick) (s : State) :
    (trigger c ts s).capture.suppressed = s.capture.suppressed := by
  unfold trigger
  split
  · rfl
  · exact triggerSlots_suppressed _ _ _ _

@[simp] theorem takeSample_suppressed (c : CaptureId) (p : Sampling) (v : Level) (s : State) :
    (takeSample c p v s).capture.suppressed = s.capture.suppressed := by
  unfold takeSample
  simp only []
  split
  · split <;> simp [acceptEdge]
  · rfl

/-! ### Lines of a HALTED controller -/

theorem halted_congr {s t : State} (core : t.control.core = s.control.core)
    (cause : t.control.causeLatched = s.control.causeLatched) : t.halted = s.halted := by
  simp only [State.halted, core, cause]

/-- The lines and suppression are as they were. -/
theorem HaltedSafe.kept {s t : State} (h : HaltedSafe s) (halted : t.halted = s.halted) (lines : t.lines = s.lines)
    (suppressed : t.capture.suppressed = s.capture.suppressed) : HaltedSafe t := by
  intro ht
  rw [suppressed, lines]
  exact h (halted ▸ ht)

theorem HaltedSafe.frame {s t : State} (h : HaltedSafe s) (control : t.control = s.control) (lines : t.lines = s.lines)
    (suppressed : t.capture.suppressed = s.capture.suppressed) : HaltedSafe t :=
  h.kept (halted_congr (by rw [control]) (by rw [control])) lines suppressed

theorem HaltedSafe.of_not {s : State} (h : s.halted = false) : HaltedSafe s := fun ht => by
  rw [h] at ht; cases ht

/-- A line that stays at its safe level. -/
theorem HaltedSafe.setLine {s : State} (h : HaltedSafe s) {l : LineId} {x : Line} (safe : s.halted = true → x.atSafe) :
    HaltedSafe (setLine l x s) := by
  intro ht
  have hs : s.halted = true := ht
  refine ⟨(h hs).1, fun j => ?_⟩
  rw [setLine_get]
  split
  · exact safe hs
  · exact (h hs).2 j

theorem haltEffect_atSafe (x : Line) : x.haltEffect.atSafe := by
  unfold Line.haltEffect
  split
  · exact fun _ => rfl
  · rename_i h
    exact fun he => absurd he h

/-- Entry to HALTED brings every line to its safe level and suppresses triggers (R68, R116). -/
theorem enterHalted_haltedSafe (s : State) : HaltedSafe (enterHalted s) := by
  intro _
  unfold enterHalted
  simp only [offerSystem_frame]
  refine ⟨trivial, fun l => ?_⟩
  have : (haltLines s).lines[l] = (s.lines[l]).haltEffect := by simp [haltLines]
  rw [this]
  exact haltEffect_atSafe _

/-- A cause latched, with entry to HALTED where it is the first of a RUNNING controller (R159, R165). -/
theorem latch_haltedSafe {s : State} {f : Control → Control} (h : HaltedSafe s)
    (core : (f s.control).core = s.control.core) (cause : (f s.control).causeLatched = true) : HaltedSafe (latch f s) := by
  unfold latch
  split
  · exact enterHalted_haltedSafe _
  · rename_i hc
    by_cases running : s.control.core = .running
    · have latched : s.control.causeLatched = true := by simpa [running] using hc
      exact h.kept (halted_congr core (cause.trans latched.symm)) rfl rfl
    · exact .of_not (by simp [State.halted, core, running])

/-- LINE_SETUP on a HALTED controller leaves its line at its safe level (R64). -/
theorem setUp_atSafe (c : LineSetup) (x : Line) : (x.setUp c true).atSafe := by
  unfold Line.setUp
  split
  · exact fun _ => rfl
  · exact fun he => absurd he (by simp [Line.enabled])

theorem takeLineSetup_haltedSafe {s : State} (f : LineSetupFields) (h : HaltedSafe s) :
    HaltedSafe (takeLineSetup f s).1 := by
  unfold takeLineSetup
  split
  · exact h
  · exact h.setLine fun hs => by rw [hs]; exact setUp_atSafe _ _

theorem takeLineForce_haltedSafe {s : State} (w : ActionWord) (h : HaltedSafe s) : HaltedSafe (takeLineForce w s).1 := by
  unfold takeLineForce
  split
  · exact h
  · split
    · exact h
    · rename_i hs
      split
      · exact .of_not ((halted_congr (s := s) (by simp) (by simp)).trans (by simpa using hs))
      · exact h

theorem retimeSlot_lines (i : SlotId) (e : Event) (f : RetimeFields) (s : State) :
    (retimeSlot i e f s).1.lines = s.lines ∧ (retimeSlot i e f s).1.capture.suppressed = s.capture.suppressed := by
  unfold retimeSlot
  split
  · simp
  all_goals exact ⟨rfl, rfl⟩

theorem takeSetCalendar_lines (c : CommandRef) (f : CalendarFields) (s : State) :
    (takeSetCalendar c f s).1.lines = s.lines ∧ (takeSetCalendar c f s).1.capture = s.capture := by
  unfold takeSetCalendar
  split
  · exact ⟨rfl, rfl⟩
  · dsimp only
    split <;> simp

/-- The slot commands touch neither the lines nor suppression. -/
theorem slotCommand_lines (c : CommandRef) (hd : Header) (s : State) :
    ∀ m : Command, (m = .start ∨ m = .stop ∨ (∃ f, m = .retime f) ∨ m = .unload ∨ m = .query ∨ ∃ n, m = .wait n) →
      (takeCommand c hd m s).1.lines = s.lines ∧
        (takeCommand c hd m s).1.capture.suppressed = s.capture.suppressed := by
  rintro m (rfl | rfl | ⟨f, rfl⟩ | rfl | rfl | ⟨n, rfl⟩)
  · refine checked_lines fun e _ => ?_
    split
    · exact ⟨rfl, rfl⟩
    · split
      · exact ⟨rfl, rfl⟩
      · rw [answerSlot_fst]; simp
  · refine checked_lines fun e _ => ?_
    split
    · exact ⟨rfl, rfl⟩
    · rw [answerSlot_fst]; simp
  · refine checked_lines fun e _ => ?_
    split
    · exact ⟨rfl, rfl⟩
    · split
      · exact retimeSlot_lines _ _ _ _
      · exact ⟨rfl, rfl⟩
  · refine checked_lines fun e _ => ?_
    split
    · exact ⟨rfl, rfl⟩
    · split <;> exact ⟨rfl, rfl⟩
  · exact checked_lines fun _ _ => ⟨rfl, rfl⟩
  · refine checked_lines fun e _ => ?_
    split
    · exact ⟨rfl, rfl⟩
    · split <;> exact ⟨rfl, rfl⟩

/-- Every command of a record keeps the lines of a HALTED controller safe. -/
theorem takeCommand_haltedSafe {s : State} (c : CommandRef) (hd : Header) (m : Command) (h : HaltedSafe s) :
    HaltedSafe (takeCommand c hd m s).1 := by
  have control := takeCommand_control c hd m s
  have slot := fun hm => let q := slotCommand_lines c hd s m hm; h.frame control q.1 q.2
  cases m with
  | load d =>
    show HaltedSafe (takeLoad hd d s).1
    unfold takeLoad
    split
    · exact h
    · split <;> exact h
  | start => exact slot (by simp)
  | stop => exact slot (by simp)
  | retime f => exact slot (by simp)
  | unload => exact slot (by simp)
  | query => exact slot (by simp)
  | wait n => exact slot (by simp)
  | nop => exact h
  | readTime => exact h
  | trimRate v =>
    show HaltedSafe (takeTrimRate c v s).1
    unfold takeTrimRate
    split
    · exact h
    · split <;> exact h
  | stepTimebase d =>
    show HaltedSafe (takeStepTimebase d s).1
    unfold takeStepTimebase
    split
    · exact h.frame (by simp) (by simp) (by simp)
    · exact h
  | setCalendar f =>
    obtain ⟨lines, capture⟩ := takeSetCalendar_lines c f s
    exact h.frame control lines (congrArg CaptureUnit.suppressed capture)
  | lineSetup f => exact takeLineSetup_haltedSafe f h
  | lineForce w => exact takeLineForce_haltedSafe w h
  | captureSetup f v =>
    show HaltedSafe (takeCaptureSetup f v s).1
    unfold takeCaptureSetup
    split <;> exact h

theorem takeFetched_haltedSafe {s : State} (hd : Header) (m : Option Command) (r : CommandRingId) (h : HaltedSafe s) :
    HaltedSafe (takeFetched hd m r s) := by
  have advanced : HaltedSafe (advanceTake r s) := h.frame (by simp) (by simp) (by simp)
  cases m with
  | none => exact advanced.frame (by simp [takeFetched]) (by simp [takeFetched]) (by simp [takeFetched])
  | some m =>
    have taken := takeCommand_haltedSafe { ring := r, ident := hd.ident, takeIndex := s.intake.rings[r].nextTake } hd m
      advanced
    refine taken.frame (answerCommand_frame _ _ _).1 (answerCommand_frame _ _ _).2.2.1
      (congrArg CaptureUnit.suppressed (answerCommand_frame _ _ _).2.2.2)

theorem referencePeriod_atSafe {x : Line} (h : x.atSafe) : x.referencePeriod.atSafe := by
  unfold Line.referencePeriod
  split
  · rename_i hm
    have := h (by simp [Line.enabled, hm])
    rw [hm] at this
    cases this
  all_goals exact h

/-- A line that is neither HELD nor DISABLED is not at its safe level. -/
theorem HaltedSafe.not_halted {s : State} (h : HaltedSafe s) {l : LineId} {m : LineMode} (mode : s.lines[l].mode = m)
    (enabled : m ≠ .disabled) (moving : ∀ v, m ≠ .held v) : s.halted = false := by
  by_contra hs
  subst mode
  exact moving _ ((h (by simpa using hs)).2 l (decide_eq_true enabled))

theorem faultNotices_haltedSafe {s : State} (k : NoticeRingId) (h : HaltedSafe s) : HaltedSafe (faultNotices k s) :=
  h.kept (halted_congr (by rw [faultNotices_control]) (by rw [faultNotices_control]; rfl)) (by simp) (by simp)

theorem settle_haltedSafe {s : State} (h : HaltedSafe s) : HaltedSafe (settle s) := h.frame (by simp) (by simp) (by simp)

/-- A setup load enters HALTED where a cause is latched (R162). -/
theorem loadSetup_haltedSafe (b : SetupConfig) (s : State) : HaltedSafe (loadSetup b s) := by
  unfold loadSetup
  split
  · exact settle_haltedSafe (enterHalted_haltedSafe _)
  · rename_i hc
    have hc' : s.control.causeLatched = false := by simpa using hc
    refine settle_haltedSafe (.of_not ?_)
    show (_ && s.control.causeLatched) = false
    rw [hc', Bool.and_false]

/-- Every move keeps the lines of a HALTED controller safe and its triggers suppressed (R68, R116, R159). -/
theorem move_haltedSafe {c : Instr} {s t : State} (m : Move c s t) (g : SetupSound s) (h : HaltedSafe s) : HaltedSafe t := by
  cases m with
  | fetched => exact takeFetched_haltedSafe _ _ _ h
  | unknown => exact takeFetched_haltedSafe _ _ _ h
  | faulted =>
    refine h.kept (halted_congr (by rw [faultFetch_control]) (by rw [faultFetch_control]; rfl)) ?_ ?_ <;>
      unfold faultFetch <;> split <;> simp
  | control alike => exact h.kept (halted_congr alike.core alike.cause) rfl rfl
  | start off _ =>
    rw [controlStart, if_pos off]
    exact .of_not (by simp [State.halted])
  | halt => exact latch_haltedSafe h rfl rfl
  | haltIn => exact latch_haltedSafe h rfl (by simp [Control.causeLatched])
  | clearCauses => exact .of_not (by simp [State.halted, clearCauses, Control.causeLatched])
  | leaveHalted => exact .of_not (by simp [State.halted, leaveHalted_control, Control.causeLatched])
  | reset => exact .of_not rfl
  | fullReset => exact .of_not rfl
  | release asserted => exact .of_not (by simp [State.halted, g.held asserted])
  | rejectIndex =>
    exact h.kept (halted_congr (by rw [rejectIndex_control]) (by rw [rejectIndex_control]; rfl)) (by simp) (by simp)
  | pulseEnd mode =>
    exact h.setLine fun hs => absurd (h.not_halted mode (by simp) (by simp)) (by simp [hs])
  | clock mode =>
    exact h.setLine fun hs => absurd (h.not_halted mode (by simp) (by simp)) (by simp [hs])
  | period =>
    intro ht
    have hs : s.halted = true := ht
    refine ⟨(h hs).1, fun l => ?_⟩
    have : (s.lines.map Line.referencePeriod)[l] = (s.lines[l]).referencePeriod := by simp
    show Line.atSafe ((s.lines.map Line.referencePeriod)[l])
    rw [this]
    exact referencePeriod_atSafe ((h hs).2 l)
  | fire due => exact .of_not ((halted_congr (by simp) (by simp)).trans (due_head due).2.2)
  | endHead =>
    rename_i k q l e _
    have kept : HaltedSafe (endWriteInMemory q e s) := h.frame (by simp) (by simp) (by simp)
    cases e with
    | good => exact kept.frame (by simp [endHeadWrite]) (by simp [endHeadWrite]) (by simp [endHeadWrite])
    | busError => exact faultNotices_haltedSafe k kept
  | dropRead => exact h.kept rfl rfl rfl
  | loadSetup => exact loadSetup_haltedSafe _ _
  | failSetup => exact .of_not (by simp [State.halted, failSetup])
  | _ => exact h.frame (by simp) (by simp) (by simp)

end Sys2Proof.Machine
end

section
/-! R158 through every step: an idle machine stays idle outside RUNNING (O55). -/

namespace Sys2Proof.Machine

open Sys2Proof

/-! ### The idle machine -/

/-- Every ring, slot and line idle, and no work in hand (R14, R70, R158). -/
structure AllIdle (s : State) : Prop where
  rings : ∀ r : CommandRingId, (s.intake.rings[r]).Idle
  notices : ∀ k : NoticeRingId, (s.notices[k]).Idle
  slots : ∀ i : SlotId, s.slots[i] = Slot.reset
  timeline : s.timeline.entries = []
  resolver : s.resolver = Resolver.reset
  lines : ∀ l : LineId, s.lines[l] = Line.reset
  capture : ∀ c : CaptureId, s.capture.lines[c] = CaptureLine.reset
  trim : s.time.pendingTrim = none

theorem idleOutsideRunning_iff (s : State) : IdleOutsideRunning s ↔ (s.control.core ≠ .running → AllIdle s) :=
  ⟨fun h hc => ⟨h.rings hc, h.notices hc, h.slots hc, h.timeline hc, h.resolver hc, h.lines hc, h.capture hc, h.trim hc⟩,
    fun h => ⟨fun hc => (h hc).rings, fun hc => (h hc).notices, fun hc => (h hc).slots, fun hc => (h hc).timeline,
      fun hc => (h hc).resolver, fun hc => (h hc).lines, fun hc => (h hc).capture, fun hc => (h hc).trim⟩⟩

/-- Operations on the command rings and notice rings alone. -/
theorem AllIdle.rings_only {s t : State} (h : AllIdle s) (rings : ∀ r : CommandRingId, (t.intake.rings[r]).Idle)
    (notices : ∀ k : NoticeRingId, (t.notices[k]).Idle) (slots : t.slots = s.slots) (timeline : t.timeline = s.timeline)
    (resolver : t.resolver = s.resolver) (lines : t.lines = s.lines) (capture : t.capture = s.capture)
    (time : t.time.pendingTrim = s.time.pendingTrim) : AllIdle t :=
  ⟨rings, notices, slots ▸ h.slots, timeline ▸ h.timeline, resolver ▸ h.resolver, lines ▸ h.lines, capture ▸ h.capture,
    time ▸ h.trim⟩

/-- An operation on one command ring. -/
theorem AllIdle.setRing {s : State} (h : AllIdle s) {r : CommandRingId} {x : CommandRing}
    (idle : (s.intake.rings[r]).Idle → x.Idle) : AllIdle (setRing r x s) := by
  refine h.rings_only (fun q => ?_) h.notices rfl rfl rfl rfl rfl rfl
  rw [setRing_get]
  split
  · exact idle (h.rings r)
  · exact h.rings q

/-- An operation on one notice ring. -/
theorem AllIdle.setNotice {s : State} (h : AllIdle s) {k : NoticeRingId} {x : NoticeRing}
    (idle : (s.notices[k]).Idle → x.Idle) : AllIdle (setNotice k x s) := by
  refine h.rings_only h.rings (fun j => ?_) rfl rfl rfl rfl rfl rfl
  rw [setNotice_get]
  split
  · exact idle (h.notices k)
  · exact h.notices j

/-! ### Operations on an idle machine -/

theorem idle_not_eligible {x : CommandRing} (h : x.Idle) : x.eligible = false := by
  simp [CommandRing.eligible, h.state]

/-- With no ring eligible the arbiter has nothing to choose (R143). -/
theorem settle_of_none_eligible {s : State} (h : ∀ r : CommandRingId, s.intake.rings[r].eligible = false) :
    settle s = noteTurn s := by
  rw [settle_eq]
  split
  · rfl
  · cases hc : choice (noteTurn s) with
    | none => rfl
    | some p =>
      have := (choice_cases (t := p.2) (r := p.1) hc).2
      rw [noteTurn_rings, h] at this
      cases this

theorem settle_idle {s : State} (h : AllIdle s) : AllIdle (settle s) := by
  rw [settle_of_none_eligible fun r => idle_not_eligible (h.rings r)]
  exact h.rings_only (by rw [noteTurn_rings]; exact h.rings) (by simpa using h.notices) (by simp) (by simp) (by simp)
    (by simp) (by simp) (by simp)

theorem fetchingRing_isSome {s : State} {r : CommandRingId} (h : s.fetchingRing = some r) :
    s.intake.rings[r].fetch.isSome = true := by
  unfold State.fetchingRing at h
  simpa using List.find?_some h

/-- An idle ring has no live fetch. -/
theorem AllIdle.no_live_fetch {s : State} (h : AllIdle s) {r : CommandRingId} (path : s.fetchingRing = some r)
    (live : s.intake.rings[r].fetch.elim false Fetch.discarded = false) : False := by
  obtain ⟨f, hf⟩ := Option.isSome_iff_exists.mp (fetchingRing_isSome path)
  rw [hf, Option.elim, (h.rings r).fetch f hf] at live
  cases live

theorem dropFetch_idle {s : State} (r : CommandRingId) (h : AllIdle s) : AllIdle (dropFetch r s) :=
  h.setRing fun x => { x with fetch := fun _ hf => by cases hf }

theorem stallIfFaulted_idle {s : State} (r : CommandRingId) (h : AllIdle s) : AllIdle (stallIfFaulted r s) := by
  rw [stallIfFaulted, if_neg (by rw [(h.rings r).state]; decide)]
  exact h

theorem offerSystem_idle {s : State} (b : SystemBody) (hc : s.control.core ≠ .running) : offerSystem b s = s := by
  simp only [offerSystem, if_neg hc]

theorem idle_config {x : NoticeRing} (h : x.Idle) : x.config = none := by rw [h]; rfl

theorem evalReady_idle {s : State} (k : NoticeRingId) (h : AllIdle s) : AllIdle (evalReady k s) := by
  refine h.setNotice fun x => ?_
  have ready : (s.notices[k]).isReady s.time = false := by
    rw [x]; rfl
  rw [ready]
  rw [NoticeRing.Idle] at x ⊢
  rw [x]
  rfl

theorem controlReset_idle (s : State) : AllIdle (controlReset s) where
  rings r := by
    have : (controlReset s).intake.rings[r] = s.intake.rings[r].fresh none := by simp [controlReset]
    rw [this]
    refine ⟨rfl, rfl, fun f hf => ?_, rfl, rfl, rfl, rfl⟩
    obtain ⟨g, -, rfl⟩ := Option.map_eq_some_iff.mp (show s.intake.rings[r].fetch.map _ = some f from hf)
    rfl
  notices k := by
    have : (controlReset s).notices[k] = s.notices[k].fresh none := by simp [controlReset]
    rw [this]
    rfl
  slots i := by simp [controlReset]
  timeline := rfl
  resolver := rfl
  lines l := by simp [controlReset]
  capture c := by simp [controlReset, CaptureUnit.reset]
  trim := rfl

theorem referencePeriod_pendingTrim (u : TimeUnit) : u.referencePeriod.pendingTrim = u.pendingTrim := by
  simp [TimeUnit.referencePeriod]

/-- Every move leaves an idle machine outside RUNNING idle (R158). -/
theorem move_idle {c : Instr} {s t : State} (m : Move c s t) (g : SetupSound s) (h : IdleOutsideRunning s) :
    IdleOutsideRunning t := by
  rw [idleOutsideRunning_iff] at h ⊢
  intro ht
  have same : ∀ x : Control, x.core = s.control.core → t = { s with control := x } → AllIdle t := by
    rintro x hx rfl
    have idle := h fun hc => ht (by rw [← hc, ← hx])
    exact idle.rings_only idle.rings idle.notices rfl rfl rfl rfl rfl rfl
  cases m with
  | settle => exact settle_idle (h (by simpa using ht))
  | dropFetch r => exact dropFetch_idle r (h ht)
  | stallIfFaulted r => exact stallIfFaulted_idle r (h (by simpa using ht))
  | fetched _ path live => exact ((h (by simpa using ht)).no_live_fetch path live).elim
  | unknown path live => exact ((h (by simpa using ht)).no_live_fetch path live).elim
  | faulted path live => exact ((h (by simpa [faultFetch_control] using ht)).no_live_fetch path live).elim
  | control alike => exact same _ alike.core rfl
  | start off _ =>
    have idle := h (by simp [off])
    rw [controlStart, if_pos off]
    exact idle.rings_only idle.rings idle.notices rfl rfl rfl rfl rfl rfl
  | halt =>
    have running : s.control.core ≠ .running := by simpa [controlHalt, latch_control] using ht
    exact same { s.control with software := true } rfl (by simp [controlHalt, latch, running])
  | haltIn =>
    have running : s.control.core ≠ .running := by simpa [latch_control] using ht
    exact same { s.control with haltIn := true, pin := true } rfl (by simp [latch, running])
  | clearCauses => exact same { s.control with software := false, pin := false } rfl rfl
  | leaveHalted halted =>
    have running : s.control.core = .running := by
      simp only [State.halted, Bool.and_eq_true, decide_eq_true_eq] at halted
      exact halted.1
    exact absurd running (by simpa [leaveHalted_control] using ht)
  | reset => exact controlReset_idle s
  | fullReset b =>
    have idle := controlReset_idle { s with control := { s.control with resetAsserted := b } }
    exact idle.rings_only idle.rings idle.notices rfl rfl rfl rfl rfl rfl
  | release => exact same { s.control with resetAsserted := false, pin := s.control.haltIn } rfl rfl
  | post r n => exact (h ht).setRing fun x => { x with }
  | rejectIndex o =>
    have running : s.control.core ≠ .running := by simpa [rejectIndex_control] using ht
    exact same { s.control with badIndex := true } rfl (offerSystem_idle _ running)
  | releaseIndex configured =>
    have idle := h (by simpa using ht)
    simp [idle_config (idle.notices _), -Fin.getElem_fin] at configured
  | resetRing running => exact absurd running (by simpa using ht)
  | resetNotice running => exact absurd running (by simpa using ht)
  | pulseEnd mode =>
    rw [(h ht).lines] at mode
    cases mode
  | clock mode =>
    rw [(h ht).lines] at mode
    cases mode
  | period =>
    have idle := h ht
    refine ⟨idle.rings, idle.notices, idle.slots, idle.timeline, idle.resolver, fun l => ?_, idle.capture, ?_⟩
    · have : (s.lines.map Line.referencePeriod)[l] = (s.lines[l]).referencePeriod := by simp
      show (s.lines.map Line.referencePeriod)[l] = _
      rw [this, idle.lines]
      rfl
    · exact (referencePeriod_pendingTrim s.time).trans idle.trim
  | fire due => exact absurd (due_head due).2.1 (by simpa using ht)
  | dropHead due => exact absurd (due_head due).2.1 (by simpa using ht)
  | boundary l n =>
    have idle := h (by simpa using ht)
    have eq : applyTrim n { s with time := { s.time with dueBoundaries := l } } =
        { s with time := { s.time with dueBoundaries := l } } := by
      simp only [applyTrim, idle.trim]
    rw [eq]
    exact idle.rings_only idle.rings idle.notices rfl rfl rfl rfl rfl rfl
  | sample sampling =>
    rw [(h (by simpa using ht)).capture] at sampling
    cases sampling
  | evalReady k => exact evalReady_idle k (h ht)
  | endWait wait =>
    rw [((h (by simpa using ht)).rings _).wait] at wait
    cases wait
  | @endStale k q e =>
    have idle : AllIdle (setNotice k { s.notices[k] with stale := none } s) :=
      (h (by simpa using ht)).setNotice fun x => by rw [NoticeRing.Idle] at x ⊢; rw [x]
    exact idle.rings_only (by simpa using idle.rings) (by simpa using idle.notices) (by simp) (by simp) (by simp)
      (by simp) (by simp) (by simp)
  | @endHead k q l e _ queue =>
    have idle : AllIdle s := h fun hc => ht (by
      obtain hx | hx := endHeadWrite_control k q e (endWriteInMemory q e s) <;> rw [hx] <;> simp [hc])
    rw [idle.notices k] at queue
    cases queue
  | @dropRead i => exact same { s.control with setupReads := s.control.setupReads.eraseIdx i } rfl rfl
  | loadSetup => exact absurd (by rw [loadSetup_control]) ht
  | failSetup read live =>
    have idle := h (by simp [g.loading_of_live read live])
    exact idle.rings_only idle.rings idle.notices rfl rfl rfl rfl rfl rfl
  | take work queue =>
    rw [(h ht).resolver] at queue
    cases queue
  | dropWork work =>
    rw [(h ht).resolver] at work
    cases work
  | endWork work =>
    rw [(h (by simpa using ht)).resolver] at work
    cases work

/-- Settles O55: each of the three is kept by every move, HALTED safety and idleness beside the sound setup reads. -/
theorem stepKeepsSafetyAndIdleness : Obligations.StepKeepsSafetyAndIdleness := by
  refine ⟨fun s t hs h => ?_, fun s t hr hs h => ?_, fun s t hr hs h => ?_⟩
  · exact step_keeps (fun _ _ hu => hu.frame rfl) move_setupSound hs h
  · exact (step_keeps (P := fun u => SetupSound u ∧ HaltedSafe u)
      (fun _ _ hu => ⟨hu.1.frame rfl, hu.2.frame rfl rfl rfl⟩)
      (fun m hu => ⟨move_setupSound m hu.1, move_haltedSafe m hu.1 hu.2⟩) ⟨hr, hs⟩ h).2
  · exact (step_keeps (P := fun u => SetupSound u ∧ IdleOutsideRunning u)
      (fun _ _ hu => ⟨hu.1.frame rfl, { hu.2 with }⟩)
      (fun m hu => ⟨move_setupSound m hu.1, move_idle m hu.1 hu.2⟩) ⟨hr, hs⟩ h).2

end Sys2Proof.Machine
end

section
/-! What the operations on slots leave alone: a slot's definition, generation and notice pending, what waits on the
deferred lists, and what the capture lines hold (R1, R3, R4). -/

namespace Sys2Proof.Machine

open Sys2Proof

/-- What a run of a slot leaves as it is: its generation, its notice pending, and its definition. -/
def Slot.card (x : Slot) : BitVec 8 × Bool × Option Definition := (x.generation, x.noticePending, x.event.map Event.defn)

/-- Between `s` and `t` no slot was loaded, freed or defined anew, and no notice was deferred, posted or discarded. -/
structure Steady (s t : State) : Prop where
  slots : ∀ i : SlotId, (t.slots[i]).card = (s.slots[i]).card
  deferred : ∀ k : NoticeRingId, t.notices[k].deferred = s.notices[k].deferred
  held : ∀ c : CaptureId, t.capture.lines[c].held = s.capture.lines[c].held
  lost : ∀ c : CaptureId, t.capture.lines[c].lost = s.capture.lines[c].lost

theorem Steady.refl (s : State) : Steady s s := ⟨fun _ => rfl, fun _ => rfl, fun _ => rfl, fun _ => rfl⟩

theorem Steady.trans {s t u : State} (a : Steady s t) (b : Steady t u) : Steady s u :=
  ⟨fun i => (b.slots i).trans (a.slots i), fun k => (b.deferred k).trans (a.deferred k),
    fun c => (b.held c).trans (a.held c), fun c => (b.lost c).trans (a.lost c)⟩

/-- What happens after a happening that is steady. -/
theorem Steady.after {s t u : State} (b : Steady t u) (a : Steady s t) : Steady s u := a.trans b

/-- A happening outside the slots, the capture unit and the notice unit. -/
theorem Steady.frame {s t : State} (slots : t.slots = s.slots) (capture : t.capture = s.capture)
    (notices : t.notices = s.notices) : Steady s t :=
  ⟨fun _ => by rw [slots], fun _ => by rw [notices], fun _ => by rw [capture], fun _ => by rw [capture]⟩

/-- The definition of a loaded slot stays. -/
theorem Steady.event {s t : State} (h : Steady s t) {i : SlotId} {e : Event} (he : s.slots[i].event = some e) :
    ∃ d, t.slots[i].event = some d ∧ d.defn = e.defn := by
  have card := congrArg (fun x => x.2.2) (h.slots i)
  simp only [Slot.card, he, Option.map_some] at card
  exact Option.map_eq_some_iff.mp card

/-! ### One record -/

theorem setEvent_steady {s : State} {i : SlotId} {e d : Event} (he : s.slots[i].event = some e) (defn : d.defn = e.defn) :
    Steady s (setEvent i d s) := by
  refine ⟨fun j => ?_, fun k => by simp, fun c => by simp, fun c => by simp⟩
  rw [setEvent, setSlot_get]
  split
  · rename_i hj
    subst hj
    simp only [Slot.card, he, Option.map_some, defn]
  · rfl

theorem setRun_steady (i : SlotId) (r : Run) (s : State) : Steady s (setRun i r s) := by
  unfold setRun
  split
  · rename_i e he
    exact setEvent_steady he rfl
  · exact .refl s

theorem setCapture_steady {s : State} {c : CaptureId} {x : CaptureLine} (held : x.held = s.capture.lines[c].held)
    (lost : x.lost = s.capture.lines[c].lost) : Steady s (setCapture c x s) := by
  refine ⟨fun i => by simp, fun k => by simp, fun l => ?_, fun l => ?_⟩
  · rw [setCapture_get]
    split
    · rename_i hl
      rw [held, hl]
    · rfl
  · rw [setCapture_get]
    split
    · rename_i hl
      rw [lost, hl]
    · rfl

theorem setNotice_steady {s : State} {k : NoticeRingId} {x : NoticeRing} (deferred : x.deferred = s.notices[k].deferred) :
    Steady s (setNotice k x s) := by
  refine ⟨fun i => by simp, fun j => ?_, fun c => by simp, fun c => by simp⟩
  rw [setNotice_get]
  split
  · rename_i hj
    rw [deferred, hj]
  · rfl

theorem setRing_steady (r : CommandRingId) (x : CommandRing) (s : State) : Steady s (setRing r x s) :=
  .frame rfl rfl rfl

/-! ### Slots and their collections -/

theorem arm_steady (i : SlotId) (x : Tick) (s : State) : Steady s (arm i x s) :=
  (setRun_steady i _ _).after (.frame rfl rfl rfl)

theorem leaveWaiting_steady (c : CaptureId) (i : SlotId) (s : State) : Steady s (leaveWaiting c i s) :=
  setCapture_steady rfl rfl

theorem joinWaiting_steady (c : CaptureId) (i : SlotId) (s : State) : Steady s (joinWaiting c i s) :=
  setCapture_steady rfl rfl

/-- The ends of deferred completions change no deferred list (R123). -/
theorem Completed.steady {s t : State} (h : Completed s t) (slots : t.slots = s.slots) (capture : t.capture = s.capture) :
    Steady s t :=
  ⟨fun _ => by rw [slots], fun k => (h.notices k).deferred, fun _ => by rw [capture], fun _ => by rw [capture]⟩

theorem settle_steady (s : State) : Steady s (settle s) := (settle_completed s).steady (by simp) (by simp)

theorem enterDormant_steady (i : SlotId) (s : State) : Steady s (enterDormant i s) :=
  ((reportDormant_completed i _).steady (by simp) (by simp)).after (setRun_steady i .dormant s)

theorem countPass_steady (m : Bool) (f : Pass → Pass) (s : State) : Steady s (countPass m f s) :=
  (countPass_completed m f s).steady (by simp) (by simp)

theorem leaveCollections_steady (i : SlotId) (e : Event) (s : State) : Steady s (leaveCollections i e s) := by
  have lines : ∀ c : CaptureId, (leaveCollections i e s).capture.lines[c].held = s.capture.lines[c].held ∧
      (leaveCollections i e s).capture.lines[c].lost = s.capture.lines[c].lost := by
    intro c
    cases hr : e.run with
    | dormant => rw [leaveCollections_dormant hr]; exact ⟨rfl, rfl⟩
    | waiting =>
      cases hc : e.defn.triggerLine with
      | none => simp [leaveCollections, hr, hc]
      | some l =>
        rw [leaveCollections_waiting hr hc]
        exact ⟨(leaveWaiting_steady l i s).held c, (leaveWaiting_steady l i s).lost c⟩
    | resolving => rw [leaveCollections_resolving hr]; simp
    | armed x q =>
      cases hc : e.defn.retriggerLine with
      | none =>
        rw [leaveCollections_armed hr hc]
        split <;> simp
      | some l =>
        rw [leaveCollections_retrigger hr hc]
        exact ⟨(leaveWaiting_steady l i _).held c, (leaveWaiting_steady l i _).lost c⟩
  exact ⟨fun j => by simp, fun k => ((leaveCollections_completed i e s).notices k).deferred, fun c => (lines c).1,
    fun c => (lines c).2⟩

theorem stopSlot_steady (i : SlotId) (e : Event) (s : State) : Steady s (stopSlot i e s) :=
  (enterDormant_steady i _).after (leaveCollections_steady i e s)

theorem startSlot_steady {s : State} {i : SlotId} {e : Event} (o : Tick) (he : s.slots[i].event = some e) :
    Steady s (startSlot i e o s) := by
  have begun : Steady s (setEvent i e.begin s) := setEvent_steady he rfl
  cases ht : e.defn.timing with
  | tick m x n =>
    cases m with
    | absolute => rw [startSlot_absolute ht]; exact (arm_steady _ _ _).after begun
    | relative => rw [startSlot_relative ht]; exact (arm_steady _ _ _).after begun
    | trigger c m =>
      rw [startSlot_trigger ht]
      exact (joinWaiting_steady _ _ _).after ((setRun_steady _ _ _).after begun)
  | calendar p =>
    rw [startSlot_calendar ht]
    have raised : Steady s (raiseStarted (setEvent i e.begin s)) := Steady.trans begun (.frame rfl rfl rfl)
    exact Steady.trans (raised.trans (setRun_steady i .resolving _)) (.frame rfl rfl rfl)

theorem startAction_steady (i : SlotId) (o : Tick) (s : State) : Steady s (startAction i o s).1 := by
  unfold startAction
  split
  · exact .refl s
  · rename_i e he
    split
    · exact .refl s
    · dsimp only
      exact startSlot_steady o he

theorem stopAction_steady (i : SlotId) (s : State) : Steady s (stopAction i s).1 := by
  unfold stopAction
  split
  · exact .refl s
  · rename_i e he
    split
    · exact .refl s
    · dsimp only
      exact stopSlot_steady i e s

theorem applyAction_steady (o : Tick) (a : Action) (s : State) : Steady s (applyAction o a s).1 := by
  have line : ∀ l, Steady s (actOnLine l a s) := fun l => .frame (by simp) (by simp) (by simp)
  cases a with
  | drive l v => exact line l
  | toggle l => exact line l
  | pulse l v n => exact line l
  | density l d => exact line l
  | start i => exact startAction_steady i o s
  | stop i => exact stopAction_steady i s
  | mark => exact .refl s

theorem applyActions_steady (o : Tick) (l : List Action) (s : State) : Steady s (applyActions o l s).1 := by
  induction l generalizing s with
  | nil => exact .refl s
  | cons a l ih => exact (ih _).after (applyAction_steady o a s)

theorem conclude_steady (i : SlotId) (d : Definition) (c : Continuation) (s : State) : Steady s (conclude i d c s) := by
  unfold conclude
  split
  · split
    · exact (joinWaiting_steady _ _ _).after (setRun_steady _ _ _)
    · refine (enterDormant_steady _ _).after ?_
      split
      · exact .frame rfl rfl rfl
      · exact .refl s
  · split
    · exact arm_steady _ _ _
    · exact Steady.trans (setRun_steady i .resolving s) (.frame rfl rfl rfl)

theorem fireState_steady {s : State} {x : Entry} {v : Event} (hv : s.slots[x.slot].event = some v) :
    Steady s (fireState x v s) :=
  (conclude_steady _ _ _ _).after (setEvent_steady hv rfl)

theorem armByEdge_steady {s : State} {i : SlotId} {e : Event} (x ts : Tick) (he : s.slots[i].event = some e) :
    Steady s (armByEdge i e x ts s) :=
  (arm_steady _ _ _).after (setEvent_steady he rfl)

theorem triggerSlot_steady (c : CaptureId) (ts : Tick) (s : State) (i : SlotId) : Steady s (triggerSlot c ts s i) := by
  unfold triggerSlot
  split
  · rename_i e he
    split
    · exact (leaveWaiting_steady _ _ _).after (armByEdge_steady _ _ he)
    · exact armByEdge_steady _ _ he
    · have removed : Steady s (removeEntry i s) := .frame rfl rfl rfl
      exact (armByEdge_steady _ _ (by simpa using he)).after removed
    · exact .refl s
  · exact .refl s

theorem trigger_steady (c : CaptureId) (ts : Tick) (s : State) : Steady s (trigger c ts s) := by
  have all : ∀ (l : List SlotId) (u : State), Steady u (l.foldl (triggerSlot c ts) u) := by
    intro l
    induction l with
    | nil => exact .refl
    | cons i l ih => exact fun u => (ih _).after (triggerSlot_steady c ts u i)
  unfold trigger
  split
  · exact .refl s
  · exact all _ s

/-! ### SET_CALENDAR -/

theorem takenBack_card (x : Slot) : x.takenBack.card = x.card := by
  unfold Slot.takenBack
  split
  · cases h : x.event <;> simp [Slot.card, h]
  · rfl

theorem rePlace_steady (s : State) : Steady s (rePlace s) := by
  refine ⟨fun i => ?_, fun k => by simp, fun c => by simp, fun c => by simp⟩
  have slots : (rePlace s).slots = s.slots.map Slot.takenBack := by simp [rePlace, takeBack]
  rw [slots]
  exact (congrArg Slot.card (by simp)).trans (takenBack_card (s.slots[i]))

theorem supersede_steady (s : State) : Steady s (supersede s) := by
  unfold supersede
  split
  · exact (endPass_completed _ _ s).steady (by simp) (by simp)
  · exact .refl s

theorem takeSetCalendar_steady (c : CommandRef) (f : CalendarFields) (s : State) :
    Steady s (takeSetCalendar c f s).1 := by
  unfold takeSetCalendar
  split
  · exact .refl s
  · rename_i x _
    have placed : Steady s (rePlace (setAnchor x (supersede s))) :=
      (rePlace_steady _).after (Steady.trans (supersede_steady s) (.frame rfl rfl rfl))
    dsimp only
    split
    · exact placed
    · exact placed.trans (.frame rfl rfl rfl)

/-! ### Intake and time -/

theorem answerCommand_steady (c : CommandRef) (a : Answer) (s : State) : Steady s (answerCommand c a s) := by
  cases a with
  | complete st q => exact (handCompletion_completed _ _ _ _ _ s).steady (by simp) (by simp)
  | owe k => exact setRing_steady _ _ s

theorem advanceTake_steady (r : CommandRingId) (s : State) : Steady s (advanceTake r s) :=
  .frame (by simp) (by simp) (by simp)

theorem stallIfFaulted_steady (r : CommandRingId) (s : State) : Steady s (stallIfFaulted r s) :=
  .frame (by simp) (by simp) (by simp)

theorem endWait_steady (r : CommandRingId) (w : WaitInFlight) (st : Status) (s : State) : Steady s (endWait r w st s) :=
  (endWait_completed r w st s).steady (by simp) (by simp)

theorem applyTrim_steady (n : Nat) (s : State) : Steady s (applyTrim n s) :=
  (applyTrim_completed n s).steady (by simp) (by simp)

theorem stepTime_steady (d : BitVec 64) (s : State) : Steady s (stepTime d s) := by
  unfold stepTime
  dsimp only
  split
  · exact (applyTrim_steady _ _).after (.frame rfl rfl rfl)
  · exact .frame rfl rfl rfl

theorem evalReady_steady (k : NoticeRingId) (s : State) : Steady s (evalReady k s) := setNotice_steady rfl

theorem clearRing_steady (k : NoticeRingId) (r : CommandRingId) (s : State) : Steady s (clearRing k r s) := by
  have cleared : Steady s (setNotice k { s.notices[k] with requests := s.notices[k].requests.filter fun q => q ≠ r }
      (setRing r (s.intake.rings[r].fresh s.intake.rings[r].config) s)) :=
    (setNotice_steady (by simp)).after (setRing_steady r _ s)
  unfold clearRing
  dsimp only
  split
  · exact Steady.trans cleared (.frame rfl rfl rfl)
  · exact cleared

end Sys2Proof.Machine
end

section
/-! R3, R103, R107 and R126: each source stands on the deferred list of its own ring, once, exactly when its notice is
pending or its record held. -/

namespace Sys2Proof.Machine

open Sys2Proof

/-- The notice ring of a loaded slot. -/
def Slot.ring? (x : Slot) : Option NoticeRingId := x.event.map fun e => e.defn.ring

/-- The slots on the deferred list of ring `k`. -/
abbrev State.slotsOn (s : State) (k : NoticeRingId) : List SlotId := s.notices[k].deferred.filterMap Deferred.slot?

/-- The capture lines on the deferred list of ring `k`. -/
abbrev State.linesOn (s : State) (k : NoticeRingId) : List CaptureId := s.notices[k].deferred.filterMap Deferred.line?

theorem ring_iff {x : Slot} {k : NoticeRingId} : x.ring? = some k ↔ ∃ e, x.event = some e ∧ e.defn.ring = k := by
  simp [Slot.ring?]

/-- A slot on a deferred list has its notice pending, and the list is that of its own ring. -/
theorem DeferredSound.listed {s : State} (h : DeferredSound s) {i : SlotId} {k : NoticeRingId} (hi : i ∈ s.slotsOn k) :
    s.slots[i].noticePending = true ∧ s.slots[i].ring? = some k :=
  ⟨(h.pending i).mpr ⟨k, hi⟩, ring_iff.mpr (h.home k i hi)⟩

/-- What leaves the lists, the pending notices and the held records as they are, and moves no pending slot to another
ring, leaves them in accord. -/
theorem DeferredSound.kept {s t : State} (h : DeferredSound s)
    (pending : ∀ i : SlotId, t.slots[i].noticePending = s.slots[i].noticePending)
    (ring : ∀ i : SlotId, s.slots[i].noticePending = true → t.slots[i].ring? = s.slots[i].ring?)
    (deferred : ∀ k : NoticeRingId, t.notices[k].deferred = s.notices[k].deferred)
    (held : ∀ c : CaptureId, t.capture.lines[c].held = s.capture.lines[c].held)
    (lost : ∀ c : CaptureId, t.capture.lines[c].lost = s.capture.lines[c].lost) : DeferredSound t where
  slots k := by rw [deferred]; exact h.slots k
  lines k := by rw [deferred]; exact h.lines k
  system := by rw [deferred, deferred]; exact h.system
  pending i := by
    rw [pending]
    simp only [deferred]
    exact h.pending i
  home k i hi := by
    rw [deferred] at hi
    obtain ⟨hp, hk⟩ := h.listed hi
    exact ring_iff.mp ((ring i hp).trans hk)
  held k c := by rw [deferred, held]; exact h.held k c
  lost c hc := by rw [lost]; exact h.lost c (by rw [← held]; exact hc)

/-- A steady happening leaves the lists in accord. -/
theorem DeferredSound.steady {s t : State} (h : DeferredSound s) (steady : Steady s t) : DeferredSound t :=
  h.kept (fun i => congrArg (fun x => x.2.1) (steady.slots i))
    (fun i _ => by
      have := congrArg (fun x => x.2.2.map Definition.ring) (steady.slots i)
      simpa [Slot.card, Slot.ring?, Function.comp_def, -Fin.getElem_fin] using this)
    steady.deferred steady.held steady.lost

/-- Nothing listed, nothing pending, nothing held. -/
theorem deferredSound_of_empty {s : State} (pending : ∀ i : SlotId, s.slots[i].noticePending = false)
    (deferred : ∀ k : NoticeRingId, s.notices[k].deferred = [])
    (lines : ∀ c : CaptureId, s.capture.lines[c].held = none ∧ s.capture.lines[c].lost = 0) : DeferredSound s where
  slots k := by simp only [deferred]; exact List.nodup_nil
  lines k := by simp only [deferred]; exact List.nodup_nil
  system := by simp only [deferred]; exact ⟨Nat.zero_le _, rfl⟩
  pending i := by simp only [pending, deferred]; simp
  home k i hi := by simp only [deferred] at hi; simp at hi
  held k c := by simp only [deferred, (lines c).1]; simp
  lost c _ := (lines c).2

/-! ### Sources leave a list -/

/-- Sources `gone` leave the head of the list of ring `k`, their notices no longer pending and their records no longer
held. -/
theorem DeferredSound.drop {s t : State} (h : DeferredSound s) {k : NoticeRingId} {gone : List Deferred}
    (own : s.notices[k].deferred = gone ++ t.notices[k].deferred)
    (others : ∀ j : NoticeRingId, j ≠ k → t.notices[j].deferred = s.notices[j].deferred)
    (slots : ∀ i : SlotId, t.slots[i] = if i ∈ gone.filterMap Deferred.slot? then (s.slots[i]).unlisted else s.slots[i])
    (lines : ∀ c : CaptureId, t.capture.lines[c] =
      if c ∈ gone.filterMap Deferred.line? then (s.capture.lines[c]).unlisted else s.capture.lines[c]) :
    DeferredSound t := by
  have slotsOwn : s.slotsOn k = gone.filterMap Deferred.slot? ++ t.slotsOn k := by
    rw [State.slotsOn, own, List.filterMap_append]
  have linesOwn : s.linesOn k = gone.filterMap Deferred.line? ++ t.linesOn k := by
    rw [State.linesOn, own, List.filterMap_append]
  have slotsNodup := List.nodup_append'.mp (slotsOwn ▸ show (s.slotsOn k).Nodup from h.slots k)
  have linesNodup := List.nodup_append'.mp (linesOwn ▸ show (s.linesOn k).Nodup from h.lines k)
  have ring : ∀ i : SlotId, t.slots[i].ring? = s.slots[i].ring? := fun i => by rw [slots]; split <;> rfl
  have slotsOn : ∀ (j : NoticeRingId) (i : SlotId),
      i ∈ t.slotsOn j ↔ i ∈ s.slotsOn j ∧ i ∉ gone.filterMap Deferred.slot? := by
    intro j i
    by_cases hj : j = k
    · subst hj
      rw [slotsOwn, List.mem_append]
      refine ⟨fun hi => ⟨.inr hi, fun hg => slotsNodup.2.2 hg hi⟩, fun hi => hi.1.resolve_left hi.2⟩
    · have same : t.slotsOn j = s.slotsOn j := by rw [State.slotsOn, others j hj]
      rw [same]
      refine ⟨fun hi => ⟨hi, fun hg => hj ?_⟩, And.left⟩
      have hk : i ∈ s.slotsOn k := by rw [slotsOwn]; exact List.mem_append_left _ hg
      exact Option.some.inj ((h.listed hi).2.symm.trans (h.listed hk).2)
  have linesOn : ∀ (j : NoticeRingId) (c : CaptureId),
      c ∈ t.linesOn j ↔ c ∈ s.linesOn j ∧ c ∉ gone.filterMap Deferred.line? := by
    intro j c
    by_cases hj : j = k
    · subst hj
      rw [linesOwn, List.mem_append]
      exact ⟨fun hc => ⟨.inr hc, fun hg => linesNodup.2.2 hg hc⟩, fun hc => hc.1.resolve_left hc.2⟩
    · have same : t.linesOn j = s.linesOn j := by rw [State.linesOn, others j hj]
      rw [same]
      refine ⟨fun hc => ⟨hc, fun hg => hj ?_⟩, And.left⟩
      have hk : c ∈ s.linesOn k := by rw [linesOwn]; exact List.mem_append_left _ hg
      obtain ⟨x, hx, hxj⟩ := (h.held j c).mp hc
      obtain ⟨y, hy, hyk⟩ := (h.held k c).mp hk
      rw [hx] at hy
      cases hy
      exact hxj.symm.trans hyk
  have systems : (t.notices[k].deferred.filter Deferred.isSystem).Sublist
      (s.notices[k].deferred.filter Deferred.isSystem) := by
    rw [own]
    exact (List.sublist_append_right _ _).filter _
  have systemsOn : ∀ j : NoticeRingId,
      (t.notices[j].deferred.filter Deferred.isSystem).Sublist (s.notices[j].deferred.filter Deferred.isSystem) := by
    intro j
    by_cases hj : j = k
    · exact hj ▸ systems
    · rw [others j hj]
  refine ⟨fun j => ?_, fun j => ?_, ⟨(systemsOn 0).length_le.trans h.system.1, ?_⟩, fun i => ?_, fun j i hi => ?_,
    fun j c => ?_, fun c hc => ?_⟩
  · by_cases hj : j = k
    · exact hj ▸ slotsNodup.2.1
    · rw [others j hj]; exact h.slots j
  · by_cases hj : j = k
    · exact hj ▸ linesNodup.2.1
    · rw [others j hj]; exact h.lines j
  · have := systemsOn 1
    rw [h.system.2] at this
    exact List.sublist_nil.mp this
  · simp only [slotsOn, slots]
    by_cases hg : i ∈ gone.filterMap Deferred.slot?
    · rw [if_pos hg]
      exact ⟨fun hp => absurd hp Bool.false_ne_true, fun ⟨_, _, hn⟩ => absurd hg hn⟩
    · rw [if_neg hg, h.pending]
      exact ⟨fun ⟨j, hj⟩ => ⟨j, hj, hg⟩, fun ⟨j, hj, _⟩ => ⟨j, hj⟩⟩
  · rw [← ring_iff, ring, ring_iff]
    exact h.home j i ((slotsOn j i).mp hi).1
  · rw [linesOn, h.held, lines]
    by_cases hg : c ∈ gone.filterMap Deferred.line?
    · rw [if_pos hg]
      exact ⟨fun hn => absurd hg hn.2, fun ⟨_, hx, _⟩ => absurd hx (Option.some_ne_none _).symm⟩
    · rw [if_neg hg]
      exact ⟨And.left, fun hx => ⟨hx, hg⟩⟩
  · rw [lines] at hc ⊢
    split at hc
    · rename_i hg
      rw [if_pos hg]
      rfl
    · rename_i hg
      rw [if_neg hg]
      exact h.lost c hc

theorem serve_deferredSound {s : State} (k : NoticeRingId) (h : DeferredSound s) : DeferredSound (serve k s) := by
  obtain ⟨t, posted, granted, hp, hg, -⟩ := serve_cases k s
  have posting : DeferredSound t := by
    refine h.drop hp.deferred (fun j hj => by rw [hp.others j hj]) hp.slots fun c => ?_
    rw [hp.lines]
    by_cases hc : c ∈ posted.filterMap Deferred.line?
    · have on : c ∈ s.linesOn k := by
        rw [State.linesOn, hp.deferred, List.filterMap_append]
        exact List.mem_append_left _ hc
      obtain ⟨x, hx, -⟩ := (h.held k c).mp on
      rw [if_pos ⟨hc, by rw [hx]; rfl⟩, if_pos hc]
    · rw [if_neg (fun hn => hc hn.1), if_neg hc]
  refine posting.steady ⟨fun i => ?_, fun j => ?_, fun c => ?_, fun c => ?_⟩
  · rw [hg.blocks]
  · by_cases hj : j = k
    · subst hj
      rw [hg.own]
    · rw [hg.others j hj]
  · rw [hg.blocks]
  · rw [hg.blocks]

theorem returnReservations_deferredSound {s : State} (k : NoticeRingId) (n : Nat) (h : DeferredSound s) :
    DeferredSound (returnReservations k n s) :=
  serve_deferredSound k (h.steady (setNotice_steady rfl))

theorem resetCommandRing_deferredSound {s : State} (b : Bool) (r : CommandRingId) (h : DeferredSound s) :
    DeferredSound (resetCommandRing b r s) := by
  have cleared : ∀ k, DeferredSound (clearRing k r s) := fun k => h.steady (clearRing_steady k r s)
  unfold resetCommandRing
  split
  · split
    · exact cleared _
    · exact returnReservations_deferredSound _ _ (cleared _)
  · exact h

/-! ### The reset of a notice ring -/

theorem discardSources_slots (l : List Deferred) (s : State) (i : SlotId) :
    (l.foldl discardSource s).slots[i] = if i ∈ l.filterMap Deferred.slot? then (s.slots[i]).unlisted else s.slots[i] := by
  induction l generalizing s with
  | nil => simp
  | cons d l ih =>
    rw [List.foldl_cons, ih]
    cases d with
    | slot j p =>
      have step : (discardSource s (.slot j p)).slots[i] = if i = j then (s.slots[i]).unlisted else s.slots[i] := by
        rw [discardSource, setNoticePending, setSlot_get]
        split
        · rename_i hi
          rw [hi]
          rfl
        · rfl
      simp only [step, List.filterMap_cons_some (f := Deferred.slot?) (a := .slot j p) rfl, List.mem_cons]
      by_cases hj : i = j <;> by_cases hl : i ∈ l.filterMap Deferred.slot? <;>
        simp [-List.mem_filterMap, hj, hl, Slot.unlisted]
    | line c => rw [List.filterMap_cons_none rfl]; rfl
    | system n k => rw [List.filterMap_cons_none rfl]; rfl

theorem discardSources_lines (l : List Deferred) (s : State) (c : CaptureId) :
    (l.foldl discardSource s).capture.lines[c] =
      if c ∈ l.filterMap Deferred.line? then (s.capture.lines[c]).unlisted else s.capture.lines[c] := by
  induction l generalizing s with
  | nil => simp
  | cons d l ih =>
    rw [List.foldl_cons, ih]
    cases d with
    | slot j p => rw [List.filterMap_cons_none rfl]; rfl
    | line j =>
      have step : (discardSource s (.line j)).capture.lines[c] =
          if c = j then (s.capture.lines[c]).unlisted else s.capture.lines[c] := by
        rw [discardSource, setCapture_get]
        split
        · rename_i hi
          rw [hi]
          rfl
        · rfl
      simp only [step, List.filterMap_cons_some (f := Deferred.line?) (a := .line j) rfl, List.mem_cons]
      by_cases hj : c = j <;> by_cases hl : c ∈ l.filterMap Deferred.line? <;>
        simp [-List.mem_filterMap, hj, hl, CaptureLine.unlisted]
    | system n k => rw [List.filterMap_cons_none rfl]; rfl

/-- A discarded list of sources changes the slots and the capture lines alone. -/
theorem discardSources_blocks (l : List Deferred) (s : State) :
    l.foldl discardSource s =
      { s with slots := (l.foldl discardSource s).slots
               capture := { s.capture with lines := (l.foldl discardSource s).capture.lines } } := by
  induction l generalizing s with
  | nil => rfl
  | cons d l ih =>
    have rest := ih (discardSource s d)
    cases d <;> exact rest

end Sys2Proof.Machine
end

section
/-! Offers keep R3, R103, R107 and R126, and so does every step (O60). -/

namespace Sys2Proof.Machine

open Sys2Proof

/-! ### What an offer does to a deferred list -/

theorem deferFiring_slots (i : SlotId) (p : FiringReport) (l : List Deferred) :
    (deferFiring i p l).filterMap Deferred.slot? =
      if i ∈ l.filterMap Deferred.slot? then l.filterMap Deferred.slot? else l.filterMap Deferred.slot? ++ [i] := by
  induction l with
  | nil => rfl
  | cons d l ih =>
    cases d with
    | slot j q =>
      by_cases hj : j = i
      · simp [deferFiring, hj, Deferred.slot?]
      · simp only [deferFiring, if_neg hj, List.filterMap_cons_some (f := Deferred.slot?) (a := .slot j _) rfl, ih,
          List.mem_cons, Ne.symm hj, false_or]
        split <;> rfl
    | line c => exact ih
    | system n k => exact ih

theorem deferFiring_others (i : SlotId) (p : FiringReport) (l : List Deferred) :
    (deferFiring i p l).filterMap Deferred.line? = l.filterMap Deferred.line? ∧
      (deferFiring i p l).filter Deferred.isSystem = l.filter Deferred.isSystem := by
  induction l with
  | nil => exact ⟨rfl, rfl⟩
  | cons d l ih =>
    cases d with
    | slot j q =>
      rw [deferFiring]
      split
      · exact ⟨rfl, rfl⟩
      · exact ih
    | line c => exact ⟨congrArg (c :: ·) ih.1, ih.2⟩
    | system n k => exact ⟨ih.1, congrArg (Deferred.system n k :: ·) ih.2⟩

theorem deferSystem_others (n : SystemNotice) (l : List Deferred) :
    (deferSystem n l).filterMap Deferred.slot? = l.filterMap Deferred.slot? ∧
      (deferSystem n l).filterMap Deferred.line? = l.filterMap Deferred.line? := by
  induction l with
  | nil => exact ⟨rfl, rfl⟩
  | cons d l ih =>
    cases d with
    | slot j q => exact ⟨congrArg (j :: ·) ih.1, ih.2⟩
    | line c => exact ⟨ih.1, congrArg (c :: ·) ih.2⟩
    | system m k => exact ⟨rfl, rfl⟩

theorem deferSystem_systems (n : SystemNotice) (l : List Deferred) :
    ((deferSystem n l).filter Deferred.isSystem).length = max 1 (l.filter Deferred.isSystem).length := by
  induction l with
  | nil => rfl
  | cons d l ih =>
    cases d with
    | slot j q => exact ih
    | line c => exact ih
    | system m k => simp [deferSystem, List.filter_cons_of_pos (p := Deferred.isSystem) (a := .system _ _) rfl]

/-! ### Offers -/

theorem postNotice_steady (k : NoticeRingId) (n : Notice) (s : State) : Steady s (postNotice k n s) :=
  setNotice_steady rfl

/-- A source on the list of its own ring, and no other source listed anew. -/
theorem offerFiring_deferredSound {s : State} {k : NoticeRingId} {i : SlotId} (p : FiringReport) (h : DeferredSound s)
    (home : s.slots[i].ring? = some k) : DeferredSound (offerFiring k i p s) := by
  unfold offerFiring
  split
  · exact h.steady (postNotice_steady _ _ _)
  · generalize ht : setNoticePending i true
      (setNotice k { s.notices[k] with deferred := deferFiring i p s.notices[k].deferred } s) = t
    have slots : ∀ j : SlotId, t.slots[j] = if j = i then { s.slots[i] with noticePending := true } else s.slots[j] :=
      fun j => by rw [← ht, setNoticePending, setSlot_get]; rfl
    have notices : ∀ j : NoticeRingId, t.notices[j].deferred =
        if j = k then deferFiring i p s.notices[k].deferred else s.notices[j].deferred := fun j => by
      rw [← ht, (setNoticePending_frame i true _).2.2.2.2.2.2.2.1, setNotice_get]
      split <;> rfl
    have capture : t.capture = s.capture := by rw [← ht]; rfl
    have ring : ∀ j : SlotId, t.slots[j].ring? = s.slots[j].ring? := fun j => by
      rw [slots]
      split
      · rename_i hj
        rw [hj]
        rfl
      · rfl
    have slotsOn : ∀ (j : NoticeRingId) (x : SlotId), x ∈ t.slotsOn j ↔ x ∈ s.slotsOn j ∨ j = k ∧ x = i := by
      intro j x
      rw [State.slotsOn, notices]
      split
      · rename_i hj
        rw [hj, deferFiring_slots]
        split
        · rename_i hi
          exact ⟨.inl, fun hx => hx.elim id fun hx => hx.2 ▸ hi⟩
        · simp [-List.mem_filterMap, State.slotsOn]
      · rename_i hj
        simp [-List.mem_filterMap, State.slotsOn, hj]
    have linesOn : ∀ j : NoticeRingId,
        t.notices[j].deferred.filterMap Deferred.line? = s.notices[j].deferred.filterMap Deferred.line? := fun j => by
      rw [notices]
      split
      · rename_i hj
        rw [(deferFiring_others i p _).1, hj]
      · rfl
    have systemsOn : ∀ j : NoticeRingId,
        t.notices[j].deferred.filter Deferred.isSystem = s.notices[j].deferred.filter Deferred.isSystem := fun j => by
      rw [notices]
      split
      · rename_i hj
        rw [(deferFiring_others i p _).2, hj]
      · rfl
    refine ⟨fun j => ?_, fun j => linesOn j ▸ h.lines j, ?_, fun x => ?_, fun j x hx => ?_, fun j c => ?_, fun c => ?_⟩
    · rw [notices]
      split
      · rw [deferFiring_slots]
        split
        · exact h.slots k
        · rename_i hi
          exact List.nodup_append'.mpr ⟨h.slots k, List.nodup_singleton i, by simpa [-List.mem_filterMap] using hi⟩
      · exact h.slots j
    · rw [systemsOn, systemsOn]
      exact h.system
    · show _ ↔ ∃ j, x ∈ t.slotsOn j
      simp only [slots, slotsOn]
      by_cases hx : x = i
      · rw [if_pos hx]
        exact ⟨fun _ => ⟨k, .inr ⟨rfl, hx⟩⟩, fun _ => rfl⟩
      · rw [if_neg hx, h.pending]
        exact ⟨fun ⟨j, hj⟩ => ⟨j, .inl hj⟩, fun ⟨j, hj⟩ => ⟨j, hj.resolve_right fun hn => hx hn.2⟩⟩
    · rw [← ring_iff, ring]
      obtain hx | ⟨rfl, rfl⟩ := (slotsOn j x).mp hx
      · exact (h.listed hx).2
      · exact home
    · rw [capture]
      exact linesOn j ▸ h.held j c
    · rw [capture]
      exact h.lost c

/-- A line that holds no record comes to hold one, and stands at the tail of the list of the record's ring. -/
theorem hold_deferredSound {s : State} {c : CaptureId} {k : NoticeRingId} {x : CaptureLine} {e : Held}
    (h : DeferredSound s) (free : s.capture.lines[c].held = none) (held : x.held = some e) (home : e.ring = k) :
    DeferredSound
      (setCapture c x (setNotice k { s.notices[k] with deferred := s.notices[k].deferred ++ [.line c] } s)) := by
  generalize ht : setCapture c x (setNotice k { s.notices[k] with deferred := s.notices[k].deferred ++ [.line c] } s) = t
  have slots : t.slots = s.slots := by rw [← ht]; rfl
  have notices : ∀ j : NoticeRingId, t.notices[j].deferred =
      if j = k then s.notices[k].deferred ++ [.line c] else s.notices[j].deferred := fun j => by
    rw [← ht, (setCapture_frame c x _).2.2.2.2.2.2.2.1, setNotice_get]
    split <;> rfl
  have capture : ∀ l : CaptureId, t.capture.lines[l] = if l = c then x else s.capture.lines[l] := fun l => by
    rw [← ht, setCapture_get]
    rfl
  have slotsOn : ∀ j : NoticeRingId,
      t.notices[j].deferred.filterMap Deferred.slot? = s.notices[j].deferred.filterMap Deferred.slot? := fun j => by
    rw [notices]
    split
    · rename_i hj
      rw [List.filterMap_append, hj]
      exact List.append_nil _
    · rfl
  have linesOn : ∀ j : NoticeRingId, t.linesOn j = if j = k then s.linesOn k ++ [c] else s.linesOn j := fun j => by
    rw [State.linesOn, notices]
    split
    · rw [List.filterMap_append]
      rfl
    · rfl
  have systemsOn : ∀ j : NoticeRingId,
      t.notices[j].deferred.filter Deferred.isSystem = s.notices[j].deferred.filter Deferred.isSystem := fun j => by
    rw [notices]
    split
    · rename_i hj
      rw [List.filter_append, hj]
      exact List.append_nil _
    · rfl
  have unlisted : ∀ j, c ∉ s.linesOn j := fun j hj => by
    obtain ⟨y, hy, -⟩ := (h.held j c).mp hj
    rw [free] at hy
    cases hy
  refine ⟨fun j => slotsOn j ▸ h.slots j, fun j => ?_, ?_, fun i => ?_, fun j i hi => ?_, fun j l => ?_, fun l hl => ?_⟩
  · show (t.linesOn j).Nodup
    rw [linesOn]
    split
    · exact List.nodup_append'.mpr ⟨h.lines k, List.nodup_singleton c, by
        simpa [-List.mem_filterMap] using unlisted k⟩
    · exact h.lines j
  · rw [systemsOn, systemsOn]
    exact h.system
  · rw [slots]
    exact (h.pending i).trans (exists_congr fun j => by rw [slotsOn j])
  · rw [slots]
    exact h.home j i (slotsOn j ▸ hi)
  · show l ∈ t.linesOn j ↔ _
    rw [linesOn, capture]
    by_cases hl : l = c
    · subst hl
      rw [if_pos rfl, held]
      by_cases hj : j = k
      · subst hj
        simpa [-List.mem_filterMap] using home
      · rw [if_neg hj]
        exact ⟨fun hn => absurd hn (unlisted j), fun ⟨y, hy, hyj⟩ => by cases hy; exact absurd (hyj.symm.trans home) hj⟩
    · rw [if_neg hl, ← h.held]
      by_cases hj : j = k
      · subst hj
        rw [if_pos rfl]
        exact ⟨fun hn => (List.mem_append.mp hn).resolve_right fun hm => hl (List.mem_singleton.mp hm),
          List.mem_append_left _⟩
      · rw [if_neg hj]
  · rw [capture] at hl ⊢
    split at hl
    · rw [held] at hl
      cases hl
    · rename_i hc
      rw [if_neg hc]
      exact h.lost l hl

theorem offerEdge_deferredSound {s : State} {c : CaptureId} (v : Level) (ts : Tick) (h : DeferredSound s)
    (free : s.capture.lines[c].held = none) : DeferredSound (offerEdge c v ts s) := by
  unfold offerEdge
  dsimp only
  split
  · exact h.steady (postNotice_steady _ _ _)
  · exact hold_deferredSound h free rfl rfl

theorem offerSystem_deferredSound {s : State} (b : SystemBody) (h : DeferredSound s) : DeferredSound (offerSystem b s) := by
  unfold offerSystem
  dsimp only
  split
  · split
    · exact h.steady (postNotice_steady _ _ _)
    · generalize ({ body := b, tick := s.time.timebase } : SystemNotice) = n
      generalize ht : setNotice 0
        { s.notices[(0 : NoticeRingId)] with deferred := deferSystem n s.notices[(0 : NoticeRingId)].deferred } s = t
      have slots : t.slots = s.slots := by rw [← ht]; rfl
      have capture : t.capture = s.capture := by rw [← ht]; rfl
      have own : t.notices[(0 : NoticeRingId)].deferred = deferSystem n s.notices[(0 : NoticeRingId)].deferred := by
        rw [← ht, setNotice_get, if_pos rfl]
      have other : t.notices[(1 : NoticeRingId)].deferred = s.notices[(1 : NoticeRingId)].deferred := by
        rw [← ht, setNotice_get, if_neg (by decide)]
      have slotsOn : ∀ j : NoticeRingId,
          t.notices[j].deferred.filterMap Deferred.slot? = s.notices[j].deferred.filterMap Deferred.slot? :=
        Fin.forall_fin_two.mpr ⟨by rw [own]; exact (deferSystem_others n _).1, by rw [other]⟩
      have linesOn : ∀ j : NoticeRingId,
          t.notices[j].deferred.filterMap Deferred.line? = s.notices[j].deferred.filterMap Deferred.line? :=
        Fin.forall_fin_two.mpr ⟨by rw [own]; exact (deferSystem_others n _).2, by rw [other]⟩
      refine ⟨fun j => slotsOn j ▸ h.slots j, fun j => linesOn j ▸ h.lines j, ⟨?_, other ▸ h.system.2⟩, fun i => ?_,
        fun j i hi => ?_, fun j c => ?_, fun c => ?_⟩
      · rw [own, deferSystem_systems]
        exact max_le (Nat.le_refl 1) h.system.1
      · rw [slots]
        exact (h.pending i).trans (exists_congr fun j => by rw [slotsOn j])
      · rw [slots]
        exact h.home j i (slotsOn j ▸ hi)
      · rw [capture]
        exact linesOn j ▸ h.held j c
      · rw [capture]
        exact h.lost c
  · exact h

end Sys2Proof.Machine
end

section
/-! R3, R103, R107 and R126 through every command (O60). -/

namespace Sys2Proof.Machine

open Sys2Proof

/-! ### Firings -/

/-- The ring of a loaded slot stays through a steady happening. -/
theorem Steady.ring {s t : State} (h : Steady s t) {i : SlotId} {e : Event} (he : s.slots[i].event = some e) :
    t.slots[i].ring? = some e.defn.ring := by
  obtain ⟨d, hd, eq⟩ := h.event he
  exact ring_iff.mpr ⟨d, hd, by rw [eq]⟩

theorem fire_deferredSound {s : State} {x : Entry} {v : Event} (h : DeferredSound s)
    (hv : s.slots[x.slot].event = some v) : DeferredSound (fire x v s) := by
  have acted : Steady s (applyActions x.expiry v.defn.actions (fireState x v s)).1 :=
    (applyActions_steady _ _ _).after (fireState_steady hv)
  unfold fire
  dsimp only
  split
  · exact offerFiring_deferredSound _ (h.steady acted) (acted.ring hv)
  · exact h.steady acted

theorem passOver_deferredSound {s : State} {x : Entry} {v : Event} (h : DeferredSound s)
    (hv : s.slots[x.slot].event = some v) : DeferredSound (passOver x v s) := by
  have concluded : Steady s (conclude x.slot v.defn (v.continuationAt x s.time.timebase)
      (setEvent x.slot (v.passedOver (v.continuationAt x s.time.timebase)) s)) :=
    (conclude_steady _ _ _ _).after (setEvent_steady hv rfl)
  unfold passOver
  dsimp only
  split
  · exact offerFiring_deferredSound _ (h.steady concluded) (concluded.ring hv)
  · exact h.steady concluded

theorem removeEntry_steady (i : SlotId) (s : State) : Steady s (removeEntry i s) := .frame rfl rfl rfl

theorem discardEntry_deferredSound {s : State} (x : Entry) (h : DeferredSound s) : DeferredSound (discardEntry s x) := by
  have removed := h.steady (removeEntry_steady x.slot s)
  unfold discardEntry
  split
  · rename_i v hv
    exact passOver_deferredSound removed (by simpa using hv)
  · exact removed

theorem resumeTimeline_deferredSound {s : State} (m : ResumeMode) (h : DeferredSound s) :
    DeferredSound (resumeTimeline m s) := by
  have all : ∀ (l : List Entry) (u : State), DeferredSound u → DeferredSound (l.foldl discardEntry u) := by
    intro l
    induction l with
    | nil => exact fun _ hu => hu
    | cons x l ih => exact fun u hu => ih _ (discardEntry_deferredSound x hu)
  cases m with
  | catchup => exact h.steady (.frame rfl rfl rfl)
  | discard => exact all _ _ h

theorem workMatched_steady (x : Item) (n : Tick) (s : State) : Steady s (workMatched x n s) :=
  (countPass_steady _ _ (arm x.slot n s)).after (arm_steady _ _ _)

theorem dropStarted_steady (s : State) : Steady s (dropStarted s) := .frame rfl rfl rfl

theorem workUnmatched_deferredSound {s : State} {x : Item} {e : Event} (h : DeferredSound s)
    (he : s.slots[x.slot].event = some e) : DeferredSound (workUnmatched x e.defn.ring s) := by
  have dormant : Steady s (dropStarted (enterDormant x.slot s)) :=
    (enterDormant_steady x.slot s).trans (dropStarted_steady _)
  have offered := offerFiring_deferredSound (x.noMatchReport s.time.timebase) (h.steady dormant) (dormant.ring he)
  unfold workUnmatched
  exact (offered.steady (countPass_steady _ _ _)).steady (settle_steady _)

theorem endWork_deferredSound {s : State} (x : Item) (h : DeferredSound s) : DeferredSound (endWork x s) := by
  unfold endWork
  split
  · rename_i e he
    split
    · split
      · exact h.steady (workMatched_steady _ _ _)
      · exact workUnmatched_deferredSound h he
    · exact h
  · exact h

/-! ### Samples -/

theorem reportEdge_deferredSound {s : State} (c : CaptureId) (v : Level) (ts : Tick) (h : DeferredSound s) :
    DeferredSound (reportEdge c v ts s) := by
  unfold reportEdge
  split
  · split
    · rename_i held
      obtain ⟨x, hx⟩ := Option.isSome_iff_exists.mp held
      refine { h with held := fun k l => ?_, lost := fun l hl => ?_ }
      · rw [setCapture_get]
        split
        · rename_i hl
          subst hl
          exact h.held k l
        · exact h.held k l
      · rw [setCapture_get] at hl ⊢
        split at hl
        · rw [hx] at hl
          cases hl
        · rename_i hc
          rw [if_neg hc]
          exact h.lost l hl
    · rename_i free
      exact offerEdge_deferredSound v ts h (by simpa using free)
  · exact h

theorem acceptEdge_deferredSound {s : State} (c : CaptureId) (v : Level) (ts : Tick) (h : DeferredSound s) :
    DeferredSound (acceptEdge c v ts s) := by
  have counted : DeferredSound
      (setCapture c { s.capture.lines[c] with edgeSequence := s.capture.lines[c].edgeSequence + 1 } s) :=
    h.steady (setCapture_steady rfl rfl)
  unfold acceptEdge
  exact (reportEdge_deferredSound c v ts counted).steady (trigger_steady _ _ _)

theorem takeSample_deferredSound {s : State} (c : CaptureId) (p : Sampling) (v : Level) (h : DeferredSound s) :
    DeferredSound (takeSample c p v s) := by
  have sampled : ∀ r, DeferredSound (setCapture c { s.capture.lines[c] with sampling := r } s) := fun r =>
    h.steady (setCapture_steady rfl rfl)
  unfold takeSample
  dsimp only
  split
  · split
    · exact acceptEdge_deferredSound c v _ (sampled _)
    · exact sampled _
  · exact sampled _

/-! ### Commands -/

theorem checked_deferredSound {s : State} {hd : Header} {f : Event → State × Answer} (h : DeferredSound s)
    (hf : ∀ e, s.slots[hd.slot].event = some e → DeferredSound (f e).1) : DeferredSound (checked hd s f).1 := by
  unfold checked
  split
  · exact h
  · rename_i e he
    split
    · exact hf e he
    · exact h

/-- A slot that is not pending and stays so may be loaded or freed. -/
theorem setSlot_deferredSound {s : State} {i : SlotId} {x : Slot} (h : DeferredSound s)
    (before : s.slots[i].noticePending = false) (after : x.noticePending = false) : DeferredSound (setSlot i x s) := by
  refine h.kept (fun j => ?_) (fun j hp => ?_) (fun k => by simp) (fun c => by simp) fun c => by simp
  · rw [setSlot_get]
    split
    · rename_i hj
      rw [hj, before, after]
    · rfl
  · rw [setSlot_get]
    split
    · rename_i hj
      rw [hj, before] at hp
      cases hp
    · rfl

theorem takeLoad_deferredSound {s : State} (hd : Header) (d : LoadFields) (h : DeferredSound s) :
    DeferredSound (takeLoad hd d s).1 := by
  unfold takeLoad
  split
  · exact h
  · rename_i free
    split
    · exact h
    · rw [answerSlot_fst]
      refine setSlot_deferredSound h (Bool.eq_false_iff.mpr fun hp => free ?_) rfl
      obtain ⟨k, hk⟩ := (h.pending hd.slot).mp hp
      obtain ⟨e, he, -⟩ := h.home k hd.slot hk
      rw [he]
      rfl

theorem retime_ring (f : RetimeFields) (d : Definition) : (d.retime f).ring = d.ring := by
  unfold Definition.retime
  split <;> rfl

theorem retimed_deferredSound {s : State} {i : SlotId} {e : Event} (f : RetimeFields) (h : DeferredSound s)
    (he : s.slots[i].event = some e) : DeferredSound (setEvent i { e with defn := e.defn.retime f } s) := by
  refine h.kept (fun j => ?_) (fun j _ => ?_) (fun k => by simp) (fun c => by simp) fun c => by simp
  · rw [setEvent, setSlot_get]
    split
    · rename_i hj
      rw [hj]
    · rfl
  · rw [setEvent, setSlot_get]
    split
    · rename_i hj
      rw [hj]
      simp [Slot.ring?, retime_ring, he, -Fin.getElem_fin]
    · rfl

theorem takeRetime_deferredSound {s : State} (hd : Header) (f : RetimeFields) (h : DeferredSound s) :
    DeferredSound (takeRetime hd f s).1 := by
  refine checked_deferredSound h fun e he => ?_
  split
  · exact h
  · split
    · have set := retimed_deferredSound f h he
      unfold retimeSlot
      dsimp only
      split
      · dsimp only
        exact set.steady ((arm_steady _ _ _).after (removeEntry_steady _ _))
      all_goals exact set
    · exact h

theorem takeUnload_deferredSound {s : State} (hd : Header) (h : DeferredSound s) :
    DeferredSound (takeUnload hd s).1 := by
  refine checked_deferredSound h fun e _ => ?_
  split
  · exact h
  · split
    · exact h
    · rename_i pending
      have quiet : s.slots[hd.slot].noticePending = false := by simpa using pending
      exact setSlot_deferredSound h quiet quiet

theorem checked_steady {s : State} {hd : Header} {f : Event → State × Answer}
    (hf : ∀ e, s.slots[hd.slot].event = some e → Steady s (f e).1) : Steady s (checked hd s f).1 := by
  unfold checked
  split
  · exact .refl s
  · rename_i e he
    split
    · exact hf e he
    · exact .refl s

/-- LOAD, RETIME and UNLOAD apart, a command loads, frees and defines no slot. -/
theorem takeCommand_steady {s : State} {m : Command} (c : CommandRef) (hd : Header) (load : ∀ d, m ≠ .load d)
    (retime : ∀ f, m ≠ .retime f) (unload : m ≠ .unload) : Steady s (takeCommand c hd m s).1 := by
  cases m with
  | load d => exact absurd rfl (load d)
  | retime f => exact absurd rfl (retime f)
  | unload => exact absurd rfl unload
  | start =>
    refine checked_steady fun e he => ?_
    split
    · exact .refl s
    · split
      · exact .refl s
      · rw [answerSlot_fst]
        exact startSlot_steady _ he
  | stop =>
    refine checked_steady fun e _ => ?_
    split
    · exact .refl s
    · rw [answerSlot_fst]
      exact stopSlot_steady _ _ _
  | query => exact checked_steady fun _ _ => .refl s
  | wait n =>
    refine checked_steady fun e _ => ?_
    split
    · exact .refl s
    · split
      · exact .refl s
      · exact setRing_steady _ _ _
  | nop => exact .refl s
  | readTime => exact .refl s
  | trimRate v =>
    show Steady s (takeTrimRate c v s).1
    unfold takeTrimRate
    split
    · exact .refl s
    · split
      · exact .refl s
      · exact .frame rfl rfl rfl
  | stepTimebase d =>
    show Steady s (takeStepTimebase d s).1
    unfold takeStepTimebase
    split
    · exact stepTime_steady d s
    · exact .refl s
  | setCalendar f => exact takeSetCalendar_steady c f s
  | lineSetup f =>
    show Steady s (takeLineSetup f s).1
    unfold takeLineSetup
    split
    · exact .refl s
    · exact .frame rfl rfl rfl
  | lineForce w =>
    show Steady s (takeLineForce w s).1
    unfold takeLineForce
    split
    · exact .refl s
    · split
      · exact .refl s
      · split
        · exact .frame (by simp) (by simp) (by simp)
        · exact .refl s
  | captureSetup f v =>
    show Steady s (takeCaptureSetup f v s).1
    unfold takeCaptureSetup
    split
    · exact .refl s
    · exact setCapture_steady rfl rfl

theorem takeCommand_deferredSound {s : State} (c : CommandRef) (hd : Header) (m : Command) (h : DeferredSound s) :
    DeferredSound (takeCommand c hd m s).1 := by
  cases m with
  | load d => exact takeLoad_deferredSound hd d h
  | retime f => exact takeRetime_deferredSound hd f h
  | unload => exact takeUnload_deferredSound hd h
  | _ => exact h.steady (takeCommand_steady c hd (by simp) (by simp) (by simp))

theorem takeFetched_deferredSound {s : State} (hd : Header) (m : Option Command) (r : CommandRingId)
    (h : DeferredSound s) : DeferredSound (takeFetched hd m r s) := by
  have advanced := h.steady (advanceTake_steady r s)
  cases m with
  | none => exact advanced.steady (answerCommand_steady _ (.complete .badCommand .zero) _)
  | some m => exact (takeCommand_deferredSound _ hd m advanced).steady (answerCommand_steady _ _ _)

/-! ### Halt, faults and resets -/

theorem enterHalted_deferredSound {s : State} (h : DeferredSound s) : DeferredSound (enterHalted s) :=
  offerSystem_deferredSound _ (h.steady ⟨fun _ => rfl, fun _ => rfl, fun _ => rfl, fun _ => rfl⟩)

theorem latch_deferredSound {s : State} (f : Control → Control) (h : DeferredSound s) : DeferredSound (latch f s) := by
  unfold latch
  split
  · exact enterHalted_deferredSound (h.steady (.frame rfl rfl rfl))
  · exact h.steady (.frame rfl rfl rfl)

theorem leaveHalted_deferredSound {s : State} (m : ResumeMode) (h : DeferredSound s) : DeferredSound (leaveHalted m s) := by
  have offered := offerSystem_deferredSound (.resumed m) (h.steady (t := clearCauses s) (.frame rfl rfl rfl))
  exact (resumeTimeline_deferredSound m offered).steady ⟨fun _ => rfl, fun _ => rfl, fun _ => rfl, fun _ => rfl⟩

theorem setFault_deferredSound {s : State} (h : DeferredSound s) : DeferredSound (setFault s) :=
  h.steady (.frame rfl rfl rfl)

theorem faultFetch_deferredSound {s : State} (r : CommandRingId) (h : DeferredSound s) : DeferredSound (faultFetch r s) := by
  unfold faultFetch
  refine offerSystem_deferredSound _ (setFault_deferredSound ?_)
  have cleared := h.steady (setRing_steady r { s.intake.rings[r] with fetch := none, state := .faulted } s)
  split
  · exact returnReservations_deferredSound _ _ cleared
  · exact cleared

theorem faultNotices_deferredSound {s : State} (k : NoticeRingId) (h : DeferredSound s) :
    DeferredSound (faultNotices k s) := by
  have faulted : DeferredSound (setNotice k s.notices[k].faultWrite s) := h.steady (setNotice_steady rfl)
  have bound : DeferredSound (faultBound k (setNotice k s.notices[k].faultWrite s)) := faulted.steady (.frame rfl rfl rfl)
  unfold faultNotices
  dsimp only
  refine DeferredSound.steady ?_ (settle_steady _)
  split
  · exact offerSystem_deferredSound _ (setFault_deferredSound bound)
  · exact setFault_deferredSound bound

theorem endWriteInMemory_steady (q : Queued) (e : WriteEnd) (s : State) : Steady s (endWriteInMemory q e s) :=
  .frame (by simp) (by simp) (by simp)

theorem cascadeReset_steady (k : NoticeRingId) (r : CommandRingId) (s : State) : Steady s (cascadeReset k s r) := by
  unfold cascadeReset
  split
  · unfold resetCommandRing
    split
    · exact clearRing_steady _ _ _
    · exact .refl s
  · exact .refl s

/-- The reset of ring `k` empties its list, and with it what was pending or held for it (R137). -/
theorem resetNoticeRing_deferredSound {s : State} (k : NoticeRingId) (h : DeferredSound s) :
    DeferredSound (resetNoticeRing k s) := by
  have discarded : DeferredSound
      (s.notices[k].deferred.foldl discardSource (setNotice k (s.notices[k].fresh s.notices[k].config) s)) := by
    have notices : (s.notices[k].deferred.foldl discardSource
        (setNotice k (s.notices[k].fresh s.notices[k].config) s)).notices =
          (setNotice k (s.notices[k].fresh s.notices[k].config) s).notices := by rw [discardSources_blocks]
    refine h.drop (gone := s.notices[k].deferred) (k := k) ?_ (fun j hj => ?_) (fun i => ?_) fun c => ?_
    · rw [notices, setNotice_get, if_pos rfl]
      exact (List.append_nil _).symm
    · rw [notices, setNotice_get, if_neg hj]
    · exact discardSources_slots _ _ i
    · exact discardSources_lines _ _ c
  have cascade := discarded.steady ((cascadeReset_steady k 3 _).after ((cascadeReset_steady k 2 _).after
    ((cascadeReset_steady k 1 _).after (cascadeReset_steady k 0 _))))
  unfold resetNoticeRing
  simp only [List.foldl]
  split
  · exact offerSystem_deferredSound _ cascade
  · exact cascade

theorem controlReset_deferredSound (s : State) : DeferredSound (controlReset s) :=
  deferredSound_of_empty (fun i => by simp [controlReset, Slot.reset])
    (fun k => by simp [controlReset, NoticeRing.fresh, NoticeRing.reset])
    fun c => by simp [controlReset, CaptureUnit.reset, CaptureLine.reset]

theorem loadSetup_deferredSound {s : State} (b : SetupConfig) (h : AllIdle s) : DeferredSound (loadSetup b s) := by
  have configured : DeferredSound (configure b s) := by
    refine deferredSound_of_empty (fun i => ?_) (fun k => ?_) fun c => ?_
    · show s.slots[i].noticePending = false
      rw [h.slots]
      rfl
    · simp [configure, NoticeRing.fresh, NoticeRing.reset]
    · show s.capture.lines[c].held = none ∧ s.capture.lines[c].lost = 0
      rw [h.capture]
      exact ⟨rfl, rfl⟩
  unfold loadSetup
  refine DeferredSound.steady ?_ (settle_steady _)
  split
  · exact enterHalted_deferredSound configured
  · exact configured

theorem rejectIndex_deferredSound {s : State} (o : Nat) (h : DeferredSound s) : DeferredSound (rejectIndex o s) := by
  have set : DeferredSound { s with control := { s.control with badIndex := true } } := h.steady (.frame rfl rfl rfl)
  unfold rejectIndex
  exact offerSystem_deferredSound _ set

theorem dropHead_steady (s : State) : Steady s (dropHead s) := .frame rfl rfl rfl

/-! ### Every move -/

theorem move_deferredSound {c : Instr} {s t : State} (m : Move c s t) (g : SetupSound s) (idle : IdleOutsideRunning s)
    (h : DeferredSound s) : DeferredSound t := by
  cases m with
  | settle => exact h.steady (settle_steady s)
  | dropFetch r => exact h.steady (setRing_steady r _ s)
  | stallIfFaulted r => exact h.steady (stallIfFaulted_steady r s)
  | fetched => exact takeFetched_deferredSound _ _ _ h
  | unknown => exact takeFetched_deferredSound _ none _ h
  | faulted => exact faultFetch_deferredSound _ h
  | control alike => exact h.steady (.frame rfl rfl rfl)
  | start off =>
    rw [controlStart, if_pos off]
    exact h.steady (.frame rfl rfl rfl)
  | halt => exact latch_deferredSound _ h
  | haltIn => exact latch_deferredSound _ h
  | clearCauses => exact h.steady (.frame rfl rfl rfl)
  | leaveHalted => exact leaveHalted_deferredSound _ h
  | reset => exact controlReset_deferredSound s
  | fullReset b => exact (controlReset_deferredSound _).steady (.frame rfl rfl rfl)
  | release => exact h.steady (.frame rfl rfl rfl)
  | post r n => exact h.steady (setRing_steady r _ s)
  | rejectIndex o => exact rejectIndex_deferredSound o h
  | releaseIndex =>
    refine DeferredSound.steady ?_ (evalReady_steady _ _)
    exact serve_deferredSound _ (h.steady (setNotice_steady rfl))
  | resetRing => exact resetCommandRing_deferredSound _ _ h
  | resetNotice => exact resetNoticeRing_deferredSound _ h
  | pulseEnd => exact h.steady (.frame rfl rfl rfl)
  | clock => exact h.steady (.frame rfl rfl rfl)
  | period => exact h.steady (.frame rfl rfl rfl)
  | fire due event => exact fire_deferredSound (h.steady (dropHead_steady s)) event
  | dropHead => exact h.steady (.frame rfl rfl rfl)
  | boundary l n => exact h.steady ((applyTrim_steady _ _).after (.frame rfl rfl rfl))
  | sample => exact takeSample_deferredSound _ _ _ h
  | evalReady k => exact h.steady (evalReady_steady k s)
  | endWait => exact h.steady (endWait_steady _ _ _ _)
  | endStale => exact h.steady ((endWriteInMemory_steady _ _ _).after (setNotice_steady rfl))
  | @endHead k q l e =>
    have written := h.steady (endWriteInMemory_steady q e s)
    cases e with
    | good => exact written.steady ((evalReady_steady _ _).after (setNotice_steady rfl))
    | busError => exact faultNotices_deferredSound k written
  | dropRead => exact h.steady (.frame rfl rfl rfl)
  | loadSetup read live =>
    have loading := g.loading_of_live read live
    have all := (idleOutsideRunning_iff s).mp idle (by rw [loading]; decide)
    exact loadSetup_deferredSound _ (all.rings_only all.rings all.notices rfl rfl rfl rfl rfl rfl)
  | failSetup => exact h.steady (.frame rfl rfl rfl)
  | take => exact h.steady (.frame rfl rfl rfl)
  | dropWork => exact h.steady (.frame rfl rfl rfl)
  | endWork => exact endWork_deferredSound _ (h.steady (.frame rfl rfl rfl))

/-- Settles O60, with the sound setup reads and the idle blocks outside RUNNING kept beside it. -/
theorem stepKeepsTheDeferredListsSound : Obligations.StepKeepsTheDeferredListsSound := by
  intro s t hr hi hs h
  exact (step_keeps (P := fun u => SetupSound u ∧ IdleOutsideRunning u ∧ DeferredSound u)
    (fun _ _ hu => ⟨hu.1.frame rfl, { hu.2.1 with }, hu.2.2.steady (.frame rfl rfl rfl)⟩)
    (fun m hu => ⟨move_setupSound m hu.1, move_idle m hu.1 hu.2.1, move_deferredSound m hu.1 hu.2.1 hu.2.2⟩)
    ⟨hr, hi, hs⟩ h).2.2

end Sys2Proof.Machine
end

section
/-! The state after power-on meets every invariant (O53). -/

namespace Sys2Proof.Machine

open Sys2Proof

/-! ### The records of the reset state -/

theorem reset_ring (r : CommandRingId) : State.reset.intake.rings[r] = CommandRing.reset := by
  simp [State.reset, Intake.reset]

theorem reset_notice (k : NoticeRingId) : State.reset.notices[k] = NoticeRing.reset := by simp [State.reset]

theorem reset_slot (i : SlotId) : State.reset.slots[i] = Slot.reset := by simp [State.reset]

theorem reset_line (l : LineId) : State.reset.lines[l] = Line.reset := by simp [State.reset]

theorem reset_captureLine (c : CaptureId) : State.reset.capture.lines[c] = CaptureLine.reset := by
  simp [State.reset, CaptureUnit.reset]

/-! ### The invariants -/

theorem reset_idle : AllIdle State.reset where
  rings r := by
    rw [reset_ring]
    exact ⟨rfl, rfl, fun f hf => absurd hf (Option.some_ne_none f).symm, rfl, rfl, rfl, rfl⟩
  notices k := by rw [reset_notice]; rfl
  slots := reset_slot
  timeline := rfl
  resolver := rfl
  lines := reset_line
  capture := reset_captureLine
  trim := rfl

theorem reset_spaceLaw : SpaceLaw State.reset where
  bound k := by rw [reset_notice]; exact Nat.le_refl 0
  account k := by
    rw [reset_notice, reservationsOn]
    simp only [reset_ring]
    exact (List.sum_eq_zero (by simp [CommandRing.reset, CommandRing.bound?])).symm
  unbound r _ := by rw [reset_ring]; rfl
  once k := by rw [reset_notice]; exact List.nodup_nil
  waiting k r hr := by rw [reset_notice] at hr; cases hr
  blocked r hr := by rw [reset_ring] at hr; cases hr

theorem reset_fetchPathServed : FetchPathServed State.reset where
  one r q hr _ := by rw [reset_ring] at hr; cases hr
  served _ r := by rw [reset_ring]; rfl
  turn running := by cases running

theorem reset_anchored : Anchored State.reset :=
  ⟨Nat.le_refl _, by decide, fun b hb => absurd hb List.not_mem_nil, List.Pairwise.nil, by decide⟩

theorem reset_setupSound : SetupSound State.reset :=
  .of_abandoned (fun _ hx => absurd hx List.not_mem_nil) fun _ => rfl

theorem reset_collected : Collected State.reset :=
  collected_of_reset reset_slot rfl rfl fun c => by rw [reset_captureLine]; rfl

theorem reset_deferredSound : DeferredSound State.reset :=
  deferredSound_of_empty (fun i => by rw [reset_slot]; rfl) (fun k => by rw [reset_notice]; rfl) fun c => by
    rw [reset_captureLine]
    exact ⟨rfl, rfl⟩

/-- Settles O53, invariant by invariant. -/
theorem resetMeetsTheInvariants : Obligations.ResetMeetsTheInvariants :=
  ⟨⟨List.Pairwise.nil, fun _ he => absurd he List.not_mem_nil⟩, reset_setupSound, .of_not rfl,
    (idleOutsideRunning_iff _).mpr fun _ => reset_idle, reset_spaceLaw, reset_fetchPathServed, reset_anchored,
    (collectionsSound_iff _).mpr reset_collected, reset_deferredSound, List.Pairwise.nil⟩

end Sys2Proof.Machine
end

section
/-! The slot commands: what each answers, and that the fetch that brings it leaves the rest to the arbiter (R8 to R20,
R176). -/

namespace Sys2Proof.Machine

open Sys2Proof

/-! ### A command that completes at once -/

/-- The fetch of a command changes the intake alone before the command is taken (R146). -/
theorem advanceTake_eq (r : CommandRingId) (s : State) :
    advanceTake r s = { s with intake := (advanceTake r s).intake } := by
  unfold advanceTake countTurn
  split <;> rfl

/-- A command that does `op` outside the intake and the notice unit, and completes at once. -/
theorem answered_of_op {s : State} {r : CommandRingId} {k : NoticeRingId} {h : Header} {m : Command} {st : Status}
    {result : Result} (op : State → State) (hf : Fetching s r k)
    (intake : ∀ x, op { s with intake := x } = { op s with intake := x }) (notices : (op s).notices = s.notices)
    (take : ∀ c x, takeCommand c h m { s with intake := x } = (op { s with intake := x }, .complete st result)) :
    ∃ t, (Host.Outcome.next (commandFetched h m s) : Host.Outcome State Fault Refusal) = .next t ∧
      Answered s (op s) t r k (completionOf s r h st result) := by
  have taken := take { ring := r, ident := h.ident, takeIndex := s.intake.rings[r].nextTake } (advanceTake r s).intake
  rw [← advanceTake_eq] at taken
  have done : op (advanceTake r s) = { op s with intake := (advanceTake r s).intake } := by
    conv_lhs => rw [advanceTake_eq]
    exact intake _
  refine answered_of_take hf taken ?_ ?_ ?_ <;> rw [done]
  exact notices

/-- A slot command that does `op`, and completes with the slot as it leaves it (R8). -/
theorem answered_of_slot {s : State} {r : CommandRingId} {k : NoticeRingId} {h : Header} {m : Command} {st : Status}
    (op : State → State) (hf : Fetching s r k) (intake : ∀ x, op { s with intake := x } = { op s with intake := x })
    (notices : (op s).notices = s.notices)
    (take : ∀ c x, takeCommand c h m { s with intake := x } = answerSlot h.slot st (op { s with intake := x })) :
    ∃ t, (Host.Outcome.next (commandFetched h m s) : Host.Outcome State Fault Refusal) = .next t ∧
      Answered s (op s) t r k (completionOf s r h st ((op s).slots[h.slot].result false)) :=
  answered_of_op op hf intake notices fun c x => (take c x).trans (by rw [intake]; rfl)

/-- A command that is refused, and completes with the slot as it stands (R8). -/
theorem answered_of_refusal {s : State} {r : CommandRingId} {k : NoticeRingId} {h : Header} {m : Command} {st : Status}
    (hf : Fetching s r k)
    (take : ∀ c x, takeCommand c h m { s with intake := x } = answerSlot h.slot st { s with intake := x }) :
    ∃ t, (Host.Outcome.next (commandFetched h m s) : Host.Outcome State Fault Refusal) = .next t ∧
      Answered s s t r k (completionOf s r h st (s.slots[h.slot].result false)) :=
  answered_of_slot id hf (fun _ => rfl) rfl take

/-! ### The checks -/

theorem checked_free {s : State} {h : Header} (f : Event → State × Answer) (free : s.slots[h.slot].event = none) :
    checked h s f = answerSlot h.slot .notLoaded s := by simp only [checked, free]

theorem checked_stale {s : State} {h : Header} {e : Event} (f : Event → State × Answer)
    (he : s.slots[h.slot].event = some e) (stale : s.slots[h.slot].generation ≠ h.generation) :
    checked h s f = answerSlot h.slot .stale s := by simp only [checked, he, if_neg stale]

theorem checked_loaded {s : State} {h : Header} {e : Event} (f : Event → State × Answer)
    (he : s.slots[h.slot].event = some e) (hg : s.slots[h.slot].generation = h.generation) :
    checked h s f = f e := by simp only [checked, he, if_pos hg]

theorem isCalendar_calendar {d : Definition} {p : Pattern} (h : d.timing = .calendar p) : d.isCalendar = true := by
  simp only [Definition.isCalendar, h]

theorem isCalendar_tick {d : Definition} {m : StartMode} {x : Tick} {n : Nat} (h : d.timing = .tick m x n) :
    d.isCalendar = false := by simp only [Definition.isCalendar, h]

theorem calendarFull_iff {e : Event} {s : State} :
    calendarFull e s = true ↔ e.defn.isCalendar = true ∧ 32 ≤ s.resolver.started := by
  rw [calendarFull, Bool.and_eq_true, decide_eq_true_iff]
  exact Iff.rfl

theorem startAccepted_iff (m : StartMode) (x : Tick) : startAccepted m x = true ↔ startAllowed m x := by
  have span : decide (x.toNat ≤ Config.maxSpan) = true ↔ x.toNat ≤ 2 ^ 40 := decide_eq_true_iff
  cases m with
  | absolute => simp [startAccepted, startAllowed]
  | relative => rw [startAccepted, span]; simp [startAllowed]
  | trigger c m => rw [startAccepted, span]; simp [startAllowed]

theorem periodAccepted_iff (p n : Nat) : periodAccepted p n = true ↔ periodAllowed p n := by
  simp only [periodAccepted, periodAllowed, Bool.or_eq_true, Bool.and_eq_true, decide_eq_true_eq]
  exact Iff.rfl

theorem retimeAccepted_iff (m : StartMode) (n : Nat) (f : RetimeFields) :
    retimeAccepted m n f = true ↔ retimeAllowed f m n := by
  unfold retimeAccepted retimeAllowed
  rw [Bool.and_eq_true]
  refine and_congr ?_ ?_
  · cases f.start with
    | none => simp
    | some x => simp [startAccepted_iff]
  · cases f.period with
    | none => simp
    | some p => simp [periodAccepted_iff]

/-! ### What each command does with a loaded slot of its generation -/

section Loaded

variable {s : State} {h : Header} {e : Event} (he : s.slots[h.slot].event = some e)
  (hg : s.slots[h.slot].generation = h.generation)

include he hg

theorem takeStart_notDormant (run : e.run ≠ .dormant) : takeStart h s = answerSlot h.slot .notDormant s := by
  rw [takeStart, checked_loaded _ he hg, if_pos run]

theorem takeStart_full (run : e.run = .dormant) (full : calendarFull e s = true) :
    takeStart h s = answerSlot h.slot .calendarFull s := by
  rw [takeStart, checked_loaded _ he hg, if_neg (not_not.mpr run), if_pos full]

theorem takeStart_ok (run : e.run = .dormant) (room : calendarFull e s = false) :
    takeStart h s = answerSlot h.slot .ok (startSlot h.slot e s.time.timebase s) := by
  rw [takeStart, checked_loaded _ he hg, if_neg (not_not.mpr run), room, if_neg Bool.false_ne_true]

theorem takeStop_dormant (run : e.run = .dormant) : takeStop h s = answerSlot h.slot .alreadyStopped s := by
  rw [takeStop, checked_loaded _ he hg, if_pos run]

theorem takeStop_ok (run : e.run ≠ .dormant) : takeStop h s = answerSlot h.slot .ok (stopSlot h.slot e s) := by
  rw [takeStop, checked_loaded _ he hg, if_neg run]

theorem takeRetime_calendar {p : Pattern} (f : RetimeFields) (timing : e.defn.timing = .calendar p) :
    takeRetime h f s = answerSlot h.slot .wrongKind s := by
  rw [takeRetime, checked_loaded _ he hg]
  simp only [timing]

theorem takeRetime_refused {m : StartMode} {x : Tick} {n : Nat} {f : RetimeFields} (timing : e.defn.timing = .tick m x n)
    (bad : ¬retimeAllowed f m e.defn.repeatCount) : takeRetime h f s = answerSlot h.slot .badParam s := by
  rw [takeRetime, checked_loaded _ he hg]
  simp only [timing]
  rw [if_neg (mt (retimeAccepted_iff _ _ _).mp bad)]

theorem takeRetime_ok {m : StartMode} {x : Tick} {n : Nat} {f : RetimeFields} (timing : e.defn.timing = .tick m x n)
    (good : retimeAllowed f m e.defn.repeatCount) : takeRetime h f s = retimeSlot h.slot e f s := by
  rw [takeRetime, checked_loaded _ he hg]
  simp only [timing]
  rw [if_pos ((retimeAccepted_iff _ _ _).mpr good)]

theorem takeUnload_notDormant (run : e.run ≠ .dormant) : takeUnload h s = answerSlot h.slot .notDormant s := by
  rw [takeUnload, checked_loaded _ he hg, if_pos run]

theorem takeUnload_pending (run : e.run = .dormant) (pending : s.slots[h.slot].noticePending = true) :
    takeUnload h s = answerSlot h.slot .noticePending s := by
  rw [takeUnload, checked_loaded _ he hg, if_neg (not_not.mpr run), if_pos pending]

theorem takeUnload_ok (run : e.run = .dormant) (quiet : s.slots[h.slot].noticePending = false) :
    takeUnload h s = answerSlot h.slot .ok (setSlot h.slot { s.slots[h.slot] with event := none } s) := by
  rw [takeUnload, checked_loaded _ he hg, if_neg (not_not.mpr run), quiet, if_neg Bool.false_ne_true]

theorem takeQuery_ok : takeQuery h s = answerSlot h.slot .ok s := by rw [takeQuery, checked_loaded _ he hg]

end Loaded

theorem takeLoad_busy {s : State} {h : Header} {e : Event} (d : LoadFields) (he : s.slots[h.slot].event = some e) :
    takeLoad h d s = answerSlot h.slot .slotBusy s := by simp only [takeLoad, he, Option.isSome_some, if_true]

theorem takeLoad_invalid {s : State} {h : Header} {d : LoadFields} (free : s.slots[h.slot].event = none)
    (bad : definitionOf d = none) : takeLoad h d s = answerSlot h.slot .badParam s := by
  simp only [takeLoad, free, bad, Option.isSome_none, Bool.false_eq_true, if_false]

theorem takeLoad_ok {s : State} {h : Header} {d : LoadFields} {v : Definition} (free : s.slots[h.slot].event = none)
    (good : definitionOf d = some v) :
    takeLoad h d s = answerSlot h.slot .ok (setSlot h.slot (s.slots[h.slot].load v) s) := by
  simp only [takeLoad, free, good, Option.isSome_none, Bool.false_eq_true, if_false]

/-! ### Refusals -/

/-- Settles O1, each refusal by the equation of its command. -/
theorem refusedSlotCommandsChangeNoSlot : Obligations.RefusedSlotCommandsChangeNoSlot := by
  intro c h s r k st hf
  rintro (⟨d, e, rfl, he, rfl⟩ | ⟨d, rfl, free, bad, rfl⟩ | ⟨command, ⟨free, rfl⟩ | ⟨e, he, stale, rfl⟩⟩ |
    ⟨e, he, hg, command⟩)
  · exact answered_of_refusal hf fun _ x => takeLoad_busy (s := { s with intake := x }) d he
  · exact answered_of_refusal hf fun _ x => takeLoad_invalid (s := { s with intake := x }) free bad
  · obtain rfl | rfl | ⟨f, rfl⟩ | rfl | rfl := command
    all_goals exact answered_of_refusal hf fun _ x => checked_free (s := { s with intake := x }) _ free
  · obtain rfl | rfl | ⟨f, rfl⟩ | rfl | rfl := command
    all_goals exact answered_of_refusal hf fun _ x => checked_stale (s := { s with intake := x }) _ he stale
  · obtain ⟨rfl, run, rfl⟩ | ⟨rfl, run, ⟨p, timing⟩, full, rfl⟩ | ⟨rfl, run, rfl⟩ | ⟨f, p, rfl, timing, rfl⟩ |
      ⟨f, m, x, n, rfl, timing, bad, rfl⟩ | ⟨rfl, run, rfl⟩ | ⟨rfl, run, pending, rfl⟩ := command
    · exact answered_of_refusal hf fun _ x => takeStart_notDormant (s := { s with intake := x }) he hg run
    · exact answered_of_refusal hf fun _ x => takeStart_full (s := { s with intake := x }) he hg run
        (calendarFull_iff.mpr ⟨isCalendar_calendar timing, full⟩)
    · exact answered_of_refusal hf fun _ x => takeStop_dormant (s := { s with intake := x }) he hg run
    · exact answered_of_refusal hf fun _ x => takeRetime_calendar (s := { s with intake := x }) he hg f timing
    · exact answered_of_refusal hf fun _ x => takeRetime_refused (s := { s with intake := x }) he hg timing bad
    · exact answered_of_refusal hf fun _ x => takeUnload_notDormant (s := { s with intake := x }) he hg run
    · exact answered_of_refusal hf fun _ x => takeUnload_pending (s := { s with intake := x }) he hg run pending

end Sys2Proof.Machine
end

section
/-! START, RETIME, UNLOAD and QUERY of a loaded slot, in the words of their rules (R13, R18 to R20, R176). -/

namespace Sys2Proof.Machine

open Sys2Proof

/-! ### The slot row -/

theorem result_free {x : Slot} (h : x.event = none) (b : Bool) :
    x.result b =
      .slot
        { state := 0, generation := x.generation, remaining := none, expiry := none, noticePending := x.noticePending
          expiryApplied := b, triggerLine := none, calendarKind := false, firingsDone := 0 } := by
  simp [Slot.result, Slot.row, Slot.stateCode, Slot.expiry?, Slot.triggerLine?, h]

theorem stateCode_of_event {x : Slot} {e : Event} (h : x.event = some e) :
    x.stateCode = match e.run with
      | .dormant => 1
      | .waiting => 2
      | .resolving => 3
      | .armed _ _ => 4 := by
  obtain ⟨g, p, o⟩ := x
  have loaded : o = some e := h
  subst loaded
  rfl

theorem expiry_of_event {x : Slot} {e : Event} (h : x.event = some e) :
    x.expiry? = match e.run with
      | .armed t _ => some t
      | .dormant | .waiting | .resolving => none := by
  obtain ⟨g, p, o⟩ := x
  have loaded : o = some e := h
  subst loaded
  cases hr : e.run <;> simp only [Slot.expiry?, hr]

/-- The slot row of a loaded slot. -/
theorem result_loaded (x : Slot) (e : Event) (b : Bool) :
    Slot.result { x with event := some e } b =
      .slot
        { state := match e.run with
            | .dormant => 1
            | .waiting => 2
            | .resolving => 3
            | .armed _ _ => 4
          generation := x.generation, remaining := e.remaining
          expiry := match e.run with
            | .armed t _ => some t
            | .dormant | .waiting | .resolving => none
          noticePending := x.noticePending, expiryApplied := b, triggerLine := e.defn.triggerLine
          calendarKind := e.defn.isCalendar, firingsDone := e.firingsDone } := by
  have he : ({ x with event := some e } : Slot).event = some e := rfl
  rw [result_of_event he, stateCode_of_event he, expiry_of_event he]

/-! ### Writing one slot twice -/

theorem setSlot_setSlot (i : SlotId) (x y : Slot) (s : State) : setSlot i x (setSlot i y s) = setSlot i x s := by
  simp [setSlot]

theorem setSlot_own (i : SlotId) (x : Slot) (s : State) : (setSlot i x s).slots[i] = x := by
  rw [setSlot_get, if_pos rfl]

theorem setEvent_own (i : SlotId) (e : Event) (s : State) :
    (setEvent i e s).slots[i] = { s.slots[i] with event := some e } := setSlot_own i _ s

theorem setRun_setEvent (i : SlotId) (e : Event) (r : Run) (s : State) :
    setRun i r (setEvent i e s) = setEvent i { e with run := r } s := by
  have he : (setEvent i e s).slots[i].event = some e := by rw [setEvent_own]
  rw [setRun_event he, setEvent_own]
  exact setSlot_setSlot i _ _ s

theorem arm_setEvent (i : SlotId) (e : Event) (x : Tick) (s : State) : arm i x (setEvent i e s) = armedAt i e x s := by
  have he : (setEvent i e s).slots[i].event = some e := by rw [setEvent_own]
  rw [arm_armedAt he]
  unfold armedAt
  rw [setEvent_own, setEvent, setSlot_setSlot]
  rfl

theorem armedAt_own (i : SlotId) (e : Event) (x : Tick) (s : State) :
    (armedAt i e x s).slots[i] =
      { s.slots[i] with event := some { e with run := .armed x s.timeline.nextSequence } } := setSlot_own i _ s

/-! ### START -/

/-- A DORMANT slot with a tick to be ARMED at is put in the timeline there. -/
theorem start_armedAt (i : SlotId) (e : Event) (x : Tick) (s : State) :
    arm i x (setEvent i e.begin s) = armedAt i (e.started .dormant) x s := by
  rw [arm_setEvent]
  rfl

/-- The state with a DORMANT slot of start mode TRIGGER made WAITING, at the tail of its line's waiting list (R13). -/
def waitingAt (c : CaptureId) (i : SlotId) (e : Event) (s : State) : State :=
  setCapture c { s.capture.lines[c] with waiting := (s.capture.lines[c].waiting.filter fun j => j ≠ i) ++ [i] }
    (setSlot i { s.slots[i] with event := some (e.started .waiting) } s)

theorem waitingAt_own (c : CaptureId) (i : SlotId) (e : Event) (s : State) :
    (waitingAt c i e s).slots[i] = { s.slots[i] with event := some (e.started .waiting) } := setSlot_own i _ s

theorem start_waiting (i : SlotId) (e : Event) (c : CaptureId) (s : State) :
    joinWaiting c i (setRun i .waiting (setEvent i e.begin s)) = waitingAt c i e s := by
  rw [setRun_setEvent]
  rfl

/-- The state with a DORMANT CALENDAR slot made RESOLVING (R13, R88, R89). -/
def resolvingAt (i : SlotId) (e : Event) (n : Nat) (s : State) : State :=
  { setSlot i { s.slots[i] with event := some (e.started .resolving) } s with
    resolver :=
      { s.resolver with
        started := s.resolver.started + 1
        queue := s.resolver.queue ++
          [{ slot := i, base := (s.time.anchorSecond + n) % 12622780800
             beginTick := BitVec.ofNat 64 (s.time.anchorTick.toNat + n * 100000000), member := false }] } }

theorem resolvingAt_own (i : SlotId) (e : Event) (n : Nat) (s : State) :
    (resolvingAt i e n s).slots[i] = { s.slots[i] with event := some (e.started .resolving) } := setSlot_own i _ s

theorem start_resolving (i : SlotId) (e : Event) (s : State) :
    pushItem i false (setRun i .resolving (raiseStarted (setEvent i e.begin s))) =
      resolvingAt i e ((s.time.timebase.toNat - s.time.anchorTick.toNat) / 100000000) s := by
  show pushItem i false (setRun i .resolving (setEvent i e.begin (raiseStarted s))) = _
  rw [setRun_setEvent]
  rfl

theorem not_full {e : Event} (calendar : e.defn.isCalendar = false) (s : State) : calendarFull e s = false :=
  Bool.eq_false_iff.mpr fun full => Bool.false_ne_true (calendar.symm.trans (calendarFull_iff.mp full).1)

theorem triggerLine_tick {d : Definition} {m : StartMode} {x : Tick} {n : Nat} (h : d.timing = .tick m x n)
    (plain : m = .absolute ∨ m = .relative) : d.triggerLine = none := by
  obtain rfl | rfl := plain <;> simp only [Definition.triggerLine, h]

/-- A START that makes its slot ARMED at `x`. -/
theorem start_armed_answered {s : State} {r : CommandRingId} {k : NoticeRingId} {h : Header} {e : Event} {x : Tick}
    (hf : Fetching s r k) (he : s.slots[h.slot].event = some e) (hg : s.slots[h.slot].generation = h.generation)
    (run : e.run = .dormant) (calendar : e.defn.isCalendar = false) (line : e.defn.triggerLine = none)
    (start : ∀ u : State, u.time = s.time →
      startSlot h.slot e u.time.timebase u = armedAt h.slot (e.started .dormant) x u) :
    ∃ t, exec (.start h) s = .next t ∧
      Answered s (armedAt h.slot (e.started .dormant) x s) t r k
        (completionOf s r h .ok
          (.slot
            { state := 4, generation := h.generation, expiry := some x, noticePending := s.slots[h.slot].noticePending,
              remaining := if e.defn.repeatCount = 0 then none else some e.defn.repeatCount, expiryApplied := false,
              triggerLine := none, calendarKind := false, firingsDone := 0 })) := by
  have answered := answered_of_slot (h := h) (m := .start) (st := .ok) (armedAt h.slot (e.started .dormant) x) hf
    (fun _ => rfl) rfl fun _ y =>
      (takeStart_ok (s := { s with intake := y }) he hg run (not_full calendar _)).trans
        (congrArg (answerSlot h.slot .ok) (start _ rfl))
  rw [armedAt_own, result_loaded, hg] at answered
  simp only [Event.started, line, calendar] at answered
  exact answered

/-- A START that makes its slot WAITING on line `c`. -/
theorem start_waiting_answered {s : State} {r : CommandRingId} {k : NoticeRingId} {h : Header} {e : Event}
    {c : CaptureId} {tm : TriggerMode} {x : Tick} {n : Nat} (hf : Fetching s r k)
    (he : s.slots[h.slot].event = some e) (hg : s.slots[h.slot].generation = h.generation) (run : e.run = .dormant)
    (timing : e.defn.timing = .tick (.trigger c tm) x n) :
    ∃ t, exec (.start h) s = .next t ∧
      Answered s (waitingAt c h.slot e s) t r k
        (completionOf s r h .ok
          (.slot
            { state := 2, generation := h.generation, expiry := none, noticePending := s.slots[h.slot].noticePending,
              remaining := if e.defn.repeatCount = 0 then none else some e.defn.repeatCount, expiryApplied := false,
              triggerLine := some c, calendarKind := false, firingsDone := 0 })) := by
  have line : e.defn.triggerLine = some c := by simp only [Definition.triggerLine, timing]
  have answered := answered_of_slot (h := h) (m := .start) (st := .ok) (waitingAt c h.slot e) hf (fun _ => rfl) rfl
    fun _ y =>
      (takeStart_ok (s := { s with intake := y }) he hg run (not_full (isCalendar_tick timing) _)).trans
        (congrArg (answerSlot h.slot .ok) ((startSlot_trigger timing _ _ _).trans (start_waiting _ _ _ _)))
  rw [waitingAt_own, result_loaded, hg] at answered
  simp only [Event.started, line, isCalendar_tick timing] at answered
  exact answered

/-- A START that makes its slot RESOLVING. -/
theorem start_resolving_answered {s : State} {r : CommandRingId} {k : NoticeRingId} {h : Header} {e : Event} {p : Pattern}
    (hf : Fetching s r k) (he : s.slots[h.slot].event = some e) (hg : s.slots[h.slot].generation = h.generation)
    (run : e.run = .dormant) (timing : e.defn.timing = .calendar p) (room : s.resolver.started < 32) :
    ∃ t, exec (.start h) s = .next t ∧
      Answered s
        (resolvingAt h.slot e ((s.time.timebase.toNat - s.time.anchorTick.toNat) / 100000000) s) t r k
        (completionOf s r h .ok
          (.slot
            { state := 3, generation := h.generation, expiry := none, noticePending := s.slots[h.slot].noticePending,
              remaining := if e.defn.repeatCount = 0 then none else some e.defn.repeatCount, expiryApplied := false,
              triggerLine := none, calendarKind := true, firingsDone := 0 })) := by
  have notFull : calendarFull e s = false := Bool.eq_false_iff.mpr fun full =>
    absurd (calendarFull_iff.mp full).2 (Nat.not_le.mpr room)
  have answered := answered_of_slot (h := h) (m := .start) (st := .ok)
    (resolvingAt h.slot e ((s.time.timebase.toNat - s.time.anchorTick.toNat) / 100000000)) hf (fun _ => rfl) rfl
    fun _ y =>
      (takeStart_ok (s := { s with intake := y }) he hg run notFull).trans
        (congrArg (answerSlot h.slot .ok) ((startSlot_calendar timing _ _ _).trans (start_resolving _ _ _)))
  rw [resolvingAt_own, result_loaded, hg] at answered
  simp only [Event.started, isCalendar_calendar timing, (isCalendar_lines (isCalendar_calendar timing)).1] at answered
  exact answered

/-- Settles O3, start mode by start mode. -/
theorem startBeginsARun : Obligations.StartBeginsARun := by
  refine ⟨fun h s r k e m x n hf he hg run timing => ⟨fun y mode => ?_, fun c tm hm => ?_⟩,
    fun h s r k e p n hf he hg run timing room hn => ?_⟩
  · have calendar := isCalendar_tick timing
    obtain ⟨rfl, rfl⟩ | ⟨rfl, rfl⟩ := mode
    · exact start_armed_answered hf he hg run calendar (triggerLine_tick timing (.inl rfl)) fun u _ =>
        (startSlot_absolute timing _ _ _).trans (start_armedAt _ _ _ _)
    · exact start_armed_answered hf he hg run calendar (triggerLine_tick timing (.inr rfl)) fun u hu =>
        (startSlot_relative timing _ _ _).trans ((start_armedAt _ _ _ _).trans (by rw [hu]))
  · subst hm
    exact start_waiting_answered hf he hg run timing
  · subst hn
    exact start_resolving_answered hf he hg run timing room

/-! ### RETIME -/

/-- An event with the timing values that a RETIME carries (R18). -/
theorem retime_timing {d : Definition} {m : StartMode} {x : Tick} {n : Nat} (f : RetimeFields)
    (timing : d.timing = .tick m x n) :
    d.retime f = { d with timing := .tick m (f.start.getD x) ((f.period.map BitVec.toNat).getD n) } := by
  simp only [Definition.retime, timing]
  cases f.period <;> rfl

theorem retimeSlot_kept {e : Event} {f : RetimeFields} (kept : f.expiry = none ∨ e.run.isArmed = false) (i : SlotId)
    (s : State) :
    retimeSlot i e f s = answerSlot i .ok (setEvent i { e with defn := e.defn.retime f } s) := by
  unfold retimeSlot
  split
  · rename_i run expiry
    obtain none | unarmed := kept
    · rw [none] at expiry
      cases expiry
    · rw [run] at unarmed
      cases unarmed
  all_goals rfl

theorem retimeSlot_moved {e : Event} {f : RetimeFields} {x : Tick} (armed : e.run.isArmed = true)
    (expiry : f.expiry = some x) (i : SlotId) (s : State) :
    retimeSlot i e f s =
      (arm i x (removeEntry i (setEvent i { e with defn := e.defn.retime f } s)),
        .complete .ok
          ((arm i x (removeEntry i (setEvent i { e with defn := e.defn.retime f } s))).slots[i].result true)) := by
  unfold retimeSlot
  split
  · rename_i y q z _ hz
    rw [expiry] at hz
    cases hz
    rfl
  · rename_i hz
    rw [expiry] at hz
    cases hz
  all_goals
    rename_i run
    rw [run] at armed
    cases armed

/-- Settles O4: the timing is replaced, and an ARMED slot with a new expiry is inserted again. -/
theorem retimeReplacesTiming : Obligations.RetimeReplacesTiming := by
  intro h f s r k e e' m x n hf he hg timing good he'
  have defn : { e with defn := e.defn.retime f } = e' := by rw [he', retime_timing f timing]
  refine ⟨fun kept => ?_, fun y expiry armed => ?_⟩
  · have answered := answered_of_slot (h := h) (m := .retime f) (st := .ok) (setEvent h.slot e') hf (fun _ => rfl) rfl
      fun _ y =>
        (takeRetime_ok (s := { s with intake := y }) he hg timing good).trans
          ((retimeSlot_kept kept _ _).trans (by rw [defn]))
    rw [setEvent_own] at answered
    exact answered
  · have moved : ∀ u : State, arm h.slot y (removeEntry h.slot (setEvent h.slot e' u)) =
        armedAt h.slot e' y (removeEntry h.slot u) := fun u => arm_setEvent h.slot e' y (removeEntry h.slot u)
    have row := result_loaded s.slots[h.slot] { e' with run := .armed y s.timeline.nextSequence } true
    have answered := answered_of_op (h := h) (m := .retime f) (st := .ok)
      (fun u => armedAt h.slot e' y (removeEntry h.slot u)) hf (fun _ => rfl) rfl fun _ z =>
        (takeRetime_ok (s := { s with intake := z }) he hg timing good).trans
          ((retimeSlot_moved armed expiry _ _).trans (by rw [defn, moved, armedAt_own]; exact congrArg _ (congrArg _ row)))
    have line : e'.defn.triggerLine = e.defn.triggerLine ∧ e'.defn.isCalendar = false := by
      rw [← defn]
      exact ⟨(retime_lines f e.defn).2.1, (retime_lines f e.defn).1.trans (isCalendar_tick timing)⟩
    have fields : e'.remaining = e.remaining ∧ e'.firingsDone = e.firingsDone := by
      rw [he']
      exact ⟨rfl, rfl⟩
    simp only [line, fields, hg] at answered
    exact answered

/-! ### UNLOAD and QUERY -/

/-- Settles O5. -/
theorem unloadFreesAndQueryReports : Obligations.UnloadFreesAndQueryReports := by
  refine ⟨fun h s r k e hf he hg => ⟨fun run quiet => ?_, ?_⟩, fun x b => ⟨fun free => result_free free b, fun e he => ?_⟩⟩
  · have answered := answered_of_slot (h := h) (m := .unload) (st := .ok)
      (setSlot h.slot { s.slots[h.slot] with event := none }) hf (fun _ => rfl) rfl fun _ y =>
        takeUnload_ok (s := { s with intake := y }) he hg run quiet
    rw [setSlot_own, result_free rfl] at answered
    simp only [hg, quiet] at answered
    exact answered
  · have answered := answered_of_refusal (h := h) (m := .query) (st := .ok) hf fun _ y =>
      takeQuery_ok (s := { s with intake := y }) he hg
    rw [result_of_event he, stateCode_of_event he, expiry_of_event he, hg] at answered
    exact answered
  · rw [result_of_event he, stateCode_of_event he, expiry_of_event he, Definition.triggerLine, Definition.isCalendar] <;> rfl

end Sys2Proof.Machine
end

section
/-! LOAD: which definitions and action words are valid, and what a valid one does (R9 to R11). -/

namespace Sys2Proof.Machine

open Sys2Proof

/-! ### Codes -/

theorem toNat_eq_iff {w : Nat} {x : BitVec w} {n : Nat} (h : n < 2 ^ w) : x.toNat = n ↔ x = BitVec.ofNat w n := by
  rw [BitVec.toNat_eq, BitVec.toNat_ofNat, Nat.mod_eq_of_lt h]

theorem lineOf_iff (b : Byte) (l : LineId) : lineOf b = some l ↔ b.toNat = l.val := by
  unfold lineOf
  split
  · rw [Option.some_inj, Fin.ext_iff]
  · rename_i h
    exact ⟨fun hn => absurd hn (Option.some_ne_none _).symm, fun hn => absurd (hn ▸ l.isLt) h⟩

theorem levelOf_iff (b : Byte) (v : Level) : levelOf b = some v ↔ b = if v = .high then 1 else 0 := by
  unfold levelOf
  split
  · rename_i h
    subst h
    cases v <;> decide
  · rename_i h0
    split
    · rename_i h
      subst h
      cases v <;> decide
    · rename_i h1
      cases v
      · simpa using h0
      · simpa using h1

theorem widthOf_iff (v : BitVec 32) (n : Nat) : widthOf v = some n ↔ v.toNat = n ∧ 1 ≤ n ∧ n ≤ 2 ^ 24 := by
  unfold widthOf
  split
  · rename_i h
    rw [Option.some_inj]
    exact ⟨fun hn => ⟨hn, hn ▸ h⟩, And.left⟩
  · rename_i h
    exact ⟨fun hn => absurd hn (Option.some_ne_none _).symm, fun ⟨hn, bounds⟩ => absurd (hn ▸ bounds) h⟩

theorem densityOf_iff (v : BitVec 32) (c : Byte) (d : Density) :
    densityOf v c = some d ↔ v.toNat = d.value ∧ d.value ≤ 65536 ∧ c.toNat = d.code.val := by
  unfold densityOf
  split
  · rename_i h
    rw [Option.some_inj]
    refine ⟨fun hd => hd ▸ ⟨rfl, h.1, rfl⟩, fun ⟨hv, _, hc⟩ => ?_⟩
    cases d
    simp only [Density.mk.injEq, Fin.ext_iff]
    exact ⟨hv, hc⟩
  · rename_i h
    exact ⟨fun hn => absurd hn (Option.some_ne_none _).symm, fun ⟨hv, bound, hc⟩ => absurd ⟨hv ▸ bound, hc ▸ d.code.isLt⟩ h⟩

theorem slotOf_iff (b : Byte) (i : SlotId) : slotOf b = i ↔ b.toNat = i.val := by
  rw [Fin.ext_iff]
  rfl

/-! ### Action words -/

theorem actionOf_iff (w : ActionWord) (a : Action) : actionOf w = some a ↔
    match a with
    | .drive l v => w.kind = 1 ∧ w.target.toNat = l.val ∧ w.level = if v = .high then 1 else 0
    | .toggle l => w.kind = 2 ∧ w.target.toNat = l.val
    | .pulse l v n =>
      w.kind = 3 ∧ w.target.toNat = l.val ∧ (w.level = if v = .high then 1 else 0) ∧ w.value.toNat = n ∧ 1 ≤ n ∧
        n ≤ 2 ^ 24
    | .density l d =>
      w.kind = 4 ∧ w.target.toNat = l.val ∧ w.value.toNat = d.value ∧ d.value ≤ 65536 ∧ w.divider.toNat = d.code.val
    | .start i => w.kind = 5 ∧ w.target.toNat = i.val
    | .stop i => w.kind = 6 ∧ w.target.toNat = i.val
    | .mark => w.kind = 7 := by
  have kind : ∀ n : Nat, n < 2 ^ 8 → w.kind.toNat = n → w.kind = BitVec.ofNat 8 n := fun n hn => (toNat_eq_iff hn).mp
  unfold actionOf
  split
  case h_1 h => rw [kind 1 (by decide) h]; cases a <;> simp [Option.bind_eq_some_iff, lineOf_iff, levelOf_iff]
  case h_2 h => rw [kind 2 (by decide) h]; cases a <;> simp [lineOf_iff]
  case h_3 h =>
    rw [kind 3 (by decide) h]
    cases a <;> simp [Option.bind_eq_some_iff, lineOf_iff, levelOf_iff, widthOf_iff]
    exact fun _ _ => ⟨fun ⟨range, hn⟩ => ⟨hn, hn ▸ range⟩, fun ⟨hn, range⟩ => ⟨hn ▸ range, hn⟩⟩
  case h_4 h => rw [kind 4 (by decide) h]; cases a <;> simp [Option.bind_eq_some_iff, lineOf_iff, densityOf_iff]
  case h_5 h => rw [kind 5 (by decide) h]; cases a <;> simp [slotOf_iff]
  case h_6 h => rw [kind 6 (by decide) h]; cases a <;> simp [slotOf_iff]
  case h_7 h => rw [kind 7 (by decide) h]; cases a <;> simp
  case h_8 h1 h2 h3 h4 h5 h6 h7 =>
    have other : ∀ n : Nat, n < 2 ^ 8 → (w.kind.toNat = n → False) → w.kind ≠ BitVec.ofNat 8 n :=
      fun n hn h hk => h ((toNat_eq_iff hn).mpr hk)
    refine ⟨fun hn => absurd hn (Option.some_ne_none a).symm, fun ha => ?_⟩
    cases a with
    | drive l v => exact absurd ha.1 (other 1 (by decide) h1)
    | toggle l => exact absurd ha.1 (other 2 (by decide) h2)
    | pulse l v n => exact absurd ha.1 (other 3 (by decide) h3)
    | density l d => exact absurd ha.1 (other 4 (by decide) h4)
    | start i => exact absurd ha.1 (other 5 (by decide) h5)
    | stop i => exact absurd ha.1 (other 6 (by decide) h6)
    | mark => exact absurd ha (other 7 (by decide) h7)

theorem actionsOf_iff (l : List ActionWord) (as : List Action) :
    actionsOf l = some as ↔ l.map actionOf = as.map some := by
  induction l generalizing as with
  | nil => cases as <;> simp [actionsOf]
  | cons w l ih => cases as <;> simp [actionsOf, Option.bind_eq_some_iff, ih]

/-! ### Patterns and timing -/

theorem patternField_iff (area : BitVec 64) (i lo hi : Nat) (bound : hi < 255) (v : Option Nat) :
    patternField area i lo hi = some v ↔ patternByte area i lo hi v := by
  have field : (area.extractLsb' (8 * i) 8).toNat = recordField area i 1 := by
    simp [recordField, BitVec.extractLsb'_toNat, Nat.shiftRight_eq_div_pow]
  unfold patternField patternByte
  simp only [field]
  split
  · rename_i absent
    simp only [absent, true_and, Option.some_inj]
    exact ⟨fun h => .inl h.symm, fun h => h.elim Eq.symm fun hn => absurd hn.2.1 (Nat.not_le.mpr bound)⟩
  · rename_i present
    split
    · rename_i range
      simp only [present, range, true_and, false_and, false_or, Option.some_inj]
      exact eq_comm
    · rename_i range
      refine ⟨fun h => absurd h (Option.some_ne_none v).symm, fun h => ?_⟩
      obtain ⟨absent, -⟩ | ⟨low, high, -⟩ := h
      · exact absurd absent present
      · exact absurd ⟨low, high⟩ range

theorem patternOf_iff (area : BitVec 64) (p : Pattern) : patternOf area = some p ↔
    patternByte area 0 0 59 p.second ∧ patternByte area 1 0 59 p.minute ∧ patternByte area 2 0 23 p.hour ∧
      patternByte area 3 1 31 p.day ∧ patternByte area 4 1 12 p.month ∧ patternByte area 5 1 7 p.weekday := by
  simp only [← patternField_iff area _ _ _ (show 59 < 255 by decide), ← patternField_iff area _ _ _ (show 23 < 255 by decide),
    ← patternField_iff area _ _ _ (show 31 < 255 by decide), ← patternField_iff area _ _ _ (show 12 < 255 by decide),
    ← patternField_iff area _ _ _ (show 7 < 255 by decide)]
  obtain ⟨second, minute, hour, day, month, weekday⟩ := p
  unfold patternOf
  simp only [Option.bind_eq_some_iff, Option.map_eq_some_iff, Pattern.mk.injEq]
  constructor
  · rintro ⟨a, ha, b, hb, c, hc, d, hd, e, he, f, hf, rfl, rfl, rfl, rfl, rfl, rfl⟩
    exact ⟨ha, hb, hc, hd, he, hf⟩
  · rintro ⟨ha, hb, hc, hd, he, hf⟩
    exact ⟨_, ha, _, hb, _, hc, _, hd, _, he, _, hf, rfl, rfl, rfl, rfl, rfl, rfl⟩

theorem startModeOf_iff (d : LoadFields) (m : StartMode) : startModeOf d = some m ↔
    match m with
    | .absolute => d.startMode = 0
    | .relative => d.startMode = 1
    | .trigger c m => d.startMode = 2 ∧ c.val = d.triggerLine.toNat ∧ d.triggerMode = if m = .once then 0 else 1 := by
  have mode : ∀ n : Nat, n < 2 ^ 2 → d.startMode.toNat = n → d.startMode = BitVec.ofNat 2 n :=
    fun n hn => (toNat_eq_iff hn).mp
  unfold startModeOf
  split
  case h_1 h => rw [mode 0 (by decide) h]; cases m <;> simp
  case h_2 h => rw [mode 1 (by decide) h]; cases m <;> simp
  case h_3 h =>
    rw [mode 2 (by decide) h]
    cases m with
    | absolute => simp
    | relative => simp
    | trigger c tm =>
      have bit : d.triggerMode = 0 ∨ d.triggerMode = 1 := by
        have := d.triggerMode.isLt
        rcases (show d.triggerMode.toNat = 0 ∨ d.triggerMode.toNat = 1 by omega) with h | h
        · exact .inl ((toNat_eq_iff (by decide)).mp h)
        · exact .inr ((toNat_eq_iff (by decide)).mp h)
      have line : d.triggerLine.toFin = c ↔ c.val = d.triggerLine.toNat := by
        rw [Fin.ext_iff, eq_comm]
        rfl
      have two : (2#2 = 2) ↔ True := ⟨fun _ => trivial, fun _ => rfl⟩
      simp only [Option.some_inj, StartMode.trigger.injEq, line, two, true_and]
      refine and_congr_right fun _ => ?_
      obtain hb | hb := bit <;> rw [hb] <;> cases tm <;> decide
  case h_4 h0 h1 h2 =>
    have other : ∀ n : Nat, n < 2 ^ 2 → (d.startMode.toNat = n → False) → d.startMode ≠ BitVec.ofNat 2 n :=
      fun n hn h hk => h ((toNat_eq_iff hn).mpr hk)
    refine ⟨fun hn => absurd hn (Option.some_ne_none m).symm, fun hm => ?_⟩
    cases m with
    | absolute => exact absurd hm (other 0 (by decide) h0)
    | relative => exact absurd hm (other 1 (by decide) h1)
    | trigger c tm => exact absurd hm.1 (other 2 (by decide) h2)

theorem timingOf_iff (d : LoadFields) (t : Timing) : timingOf d = some t ↔
    match t with
    | .tick mode start period =>
      d.kind = 0 ∧ start = d.area ∧ period = d.period.toNat ∧ startAllowed mode d.area ∧
      periodAllowed d.period.toNat d.repeatCount.toNat ∧ startModeOf d = some mode
    | .calendar p => d.kind = 1 ∧ d.period = 0 ∧ patternOf d.area = some p := by
  have kind : ∀ n : Nat, n < 2 ^ 2 → d.kind.toNat = n → d.kind = BitVec.ofNat 2 n := fun n hn => (toNat_eq_iff hn).mp
  unfold timingOf
  split
  case h_1 h =>
    rw [kind 0 (by decide) h]
    simp only [Option.bind_eq_some_iff, Option.ite_none_right_eq_some, Bool.and_eq_true, startAccepted_iff,
      periodAccepted_iff, Option.some_inj]
    cases t with
    | tick m x n =>
      simp only [Timing.tick.injEq]
      constructor
      · rintro ⟨a, ha, ⟨start, period⟩, rfl, rfl, rfl⟩
        exact ⟨rfl, rfl, rfl, start, period, ha⟩
      · rintro ⟨-, rfl, rfl, start, period, hm⟩
        exact ⟨m, hm, ⟨start, period⟩, rfl, rfl, rfl⟩
    | calendar p => simp
  case h_2 h =>
    rw [kind 1 (by decide) h]
    simp only [Option.ite_none_right_eq_some, Option.map_eq_some_iff]
    cases t with
    | tick m x n => simp
    | calendar p => simp
  case h_3 h0 h1 =>
    refine ⟨fun hn => absurd hn (Option.some_ne_none t).symm, fun ht => ?_⟩
    cases t with
    | tick m x n => exact absurd ((toNat_eq_iff (by decide)).mpr ht.1) h0
    | calendar p => exact absurd ((toNat_eq_iff (by decide)).mpr ht.1) h1

theorem policyOf_iff (c : BitVec 2) (p : NotifyPolicy) : policyOf c = some p ↔
    match p with
    | .every => c = 0
    | .last => c = 1
    | .none => c = 2 := by
  revert c
  cases p <;> decide

/-! ### Definitions -/

theorem definitionOf_iff (d : LoadFields) (v : Definition) : definitionOf d = some v ↔
    v.repeatCount = d.repeatCount.toNat ∧ v.ring.val = d.ring.toNat ∧ v.tag = d.tag ∧ policyOf d.policy = some v.policy ∧
      d.actionCount.toNat ≤ 4 ∧ (d.words.toList.take d.actionCount.toNat).map actionOf = v.actions.map some ∧
      timingOf d = some v.timing := by
  have ring : d.ring.toFin = v.ring ↔ v.ring.val = d.ring.toNat := by
    rw [Fin.ext_iff, eq_comm]
    rfl
  obtain ⟨timing, count, policy, k, tag, actions⟩ := v
  unfold definitionOf
  simp only [Option.ite_none_right_eq_some, Option.bind_eq_some_iff, Option.map_eq_some_iff, Definition.mk.injEq,
    actionsOf_iff]
  constructor
  · rintro ⟨four, a, ha, p, hp, l, hl, rfl, rfl, rfl, rfl, rfl, rfl⟩
    exact ⟨rfl, rfl, rfl, hp, four, hl, ha⟩
  · rintro ⟨rfl, hk, rfl, hp, four, hl, ha⟩
    exact ⟨four, _, ha, _, hp, _, hl, rfl, rfl, rfl, ring.mpr hk, rfl, rfl⟩

/-! ### LOAD -/

theorem load_answered {s : State} {r : CommandRingId} {k : NoticeRingId} {h : Header} {d : LoadFields} {v : Definition}
    (hf : Fetching s r k) (free : s.slots[h.slot].event = none) (good : definitionOf d = some v) :
    ∃ t, exec (.load h d) s = .next t ∧
      Answered s (setSlot h.slot (s.slots[h.slot].load v) s) t r k
        (completionOf s r h .ok
          (.slot
            { state := 1, generation := s.slots[h.slot].generation + 1, remaining := none, expiry := none,
              noticePending := false, expiryApplied := false, triggerLine := v.triggerLine, calendarKind := v.isCalendar,
              firingsDone := 0 })) := by
  have answered := answered_of_slot (h := h) (m := .load d) (st := .ok) (setSlot h.slot (s.slots[h.slot].load v)) hf
    (fun _ => rfl) rfl fun _ x => takeLoad_ok (s := { s with intake := x }) free good
  rw [setSlot_own, Slot.load] at answered
  exact answered

/-- Settles O2: what a LOAD does, the definitions it may carry, and the actions its words may spell. -/
theorem loadFillsAFreeSlot : Obligations.LoadFillsAFreeSlot := by
  refine ⟨fun h d s r k v hf free good => load_answered hf free good, fun d v => ?_, actionOf_iff⟩
  rw [definitionOf_iff, policyOf_iff]
  refine and_congr_right fun _ => and_congr_right fun _ => and_congr_right fun _ => and_congr ?_ (and_congr_right fun _ =>
    and_congr_right fun _ => ?_)
  · cases v.policy <;> exact Iff.rfl
  · rw [timingOf_iff]
    cases v.timing with
    | tick m x n =>
      simp only [startModeOf_iff] <;> cases m <;> exact Iff.rfl
    | calendar p => simp only [patternOf_iff]

end Sys2Proof.Machine
end

section
/-! Dormancy in the words of its rules, and the conclusion of a firing (R7, R35, R153). -/

namespace Sys2Proof.Machine

open Sys2Proof

/-- A slot made DORMANT is reported so (R7, R153). -/
theorem enterDormant_eq {s : State} {i : SlotId} {e : Event} (he : s.slots[i].event = some e) :
    enterDormant i s =
      reported i (stoppedResult i e s) (setSlot i { s.slots[i] with event := some { e with run := .dormant } } s) := by
  rw [enterDormant, reportDormant_eq, setRun_event he, setSlot_own]
  rfl

theorem reported_waits (i : SlotId) (x : Result) (s : State) : WaitsOver i s (reported i x s) := by
  intro r
  have ring : (reported i x s).intake.rings[r] = s.intake.rings[r].reported i (s.boundFaulted r) := by simp [reported]
  rw [ring]
  unfold CommandRing.reported
  cases hw : s.intake.rings[r].wait with
  | none => exact hw
  | some w =>
    dsimp only
    by_cases hi : w.slot = i
    · rw [if_pos hi, Option.filter_some]
      exact (if_neg (by simp [hi])).symm
    · rw [if_neg hi, hw, Option.filter_some, if_pos (by simp [hi])]

/-! ### The conclusion of a firing -/

theorem conclude_armed {c : Continuation} {x : Tick} (on : c.last = false) (next : c.next = some x) (i : SlotId)
    (d : Definition) (s : State) : conclude i d c s = arm i x s := by
  rw [conclude, on, if_neg Bool.false_ne_true]
  simp only [next]

theorem conclude_resolving {c : Continuation} (on : c.last = false) (next : c.next = none) (i : SlotId)
    (d : Definition) (s : State) : conclude i d c s = pushItem i false (setRun i .resolving s) := by
  rw [conclude, on, if_neg Bool.false_ne_true]
  simp only [next]

theorem conclude_waiting {c : Continuation} {d : Definition} {l : CaptureId} (last : c.last = true)
    (line : d.retriggerLine = some l) (i : SlotId) (s : State) :
    conclude i d c s = joinWaiting l i (setRun i .waiting s) := by
  rw [conclude, if_pos last]
  simp only [line]

theorem conclude_dormant {c : Continuation} {d : Definition} (last : c.last = true) (line : d.retriggerLine = none)
    (i : SlotId) (s : State) : conclude i d c s = enterDormant i (if d.isCalendar then dropStarted s else s) := by
  rw [conclude, if_pos last]
  simp only [line]

/-- The state with a slot made DORMANT and the started count lowered where the slot counts. -/
theorem conclude_dormant_eq {s : State} {i : SlotId} {e : Event} {c : Continuation} (he : s.slots[i].event = some e)
    (last : c.last = true) (line : e.defn.retriggerLine = none) :
    conclude i e.defn c s =
      reported i (stoppedResult i e s)
        { s with
          slots := s.slots.set i { s.slots[i] with event := some { e with run := .dormant } }
          resolver :=
            if e.defn.isCalendar = true then { s.resolver with started := s.resolver.started - 1 } else s.resolver } := by
  rw [conclude_dormant last line]
  by_cases calendar : e.defn.isCalendar = true
  · rw [if_pos calendar, if_pos calendar]
    exact enterDormant_eq (s := dropStarted s) he
  · rw [if_neg calendar, if_neg calendar]
    exact enterDormant_eq he

/-- Settles O33, outcome by outcome. -/
theorem conclusionOfAFiring : Obligations.ConclusionOfAFiring := by
  intro s i e c he
  refine ⟨fun x on next => ?_, fun n on next hn => ?_, fun d last line => ?_, fun last line => ⟨?_, ?_⟩⟩
  · rw [conclude_armed on next, arm_armedAt he]
  · subst hn
    rw [conclude_resolving on next, setRun_event he]
    rfl
  · rw [conclude_waiting last line, setRun_event he]
    rfl
  · exact conclude_dormant_eq he last line
  · rw [conclude_dormant_eq he last line]
    exact fun r => reported_waits i _ _ r

end Sys2Proof.Machine
end

section
/-! A slot stopped: what it leaves, the pass it counts in, and the WAITs on it (R15, R96, R98, R153). -/

namespace Sys2Proof.Machine

open Sys2Proof

/-! ### The pass -/

/-- The pass in flight once the end of an item is counted: over with its last item (R98). -/
def passAfter (member : Bool) (count : Pass → Pass) (o : Option Pass) : Option Pass :=
  o.bind fun p =>
    if member then
      if (count p).placed ≤ (count p).matched + (count p).noMatch + (count p).stopped then none else some (count p)
    else some p

theorem countPass_pass (m : Bool) (f : Pass → Pass) (s : State) :
    (countPass m f s).resolver = { s.resolver with pass := passAfter m f s.resolver.pass } := by
  rw [countPass_eq]
  unfold itemEnded passAfter
  split
  · rename_i p hp
    rw [hp, Option.bind_some]
    split
    · split <;> rfl
    · rw [← hp]
  · rename_i hp
    rw [hp, Option.bind_none, ← hp]

/-- The completion of a pass that ends with the item is handed, and no other. -/
theorem countPass_rings {m : Bool} {s u t : State} (intake : u.intake = s.intake) (notices : u.notices = s.notices)
    (pass : u.resolver.pass = s.resolver.pass) (after : t.resolver.pass = passAfter m Pass.stopOne s.resolver.pass) :
    (countPass m Pass.stopOne u).intake = (passStopped s t).intake ∧
      (countPass m Pass.stopOne u).notices = (passStopped s t).notices := by
  rw [countPass_eq, itemEnded, passStopped, pass, after]
  cases s.resolver.pass with
  | none => exact ⟨intake, notices⟩
  | some p =>
    simp only [passAfter, Option.bind_some]
    cases m with
    | false => exact ⟨intake, notices⟩
    | true =>
      simp only [if_true]
      split
      · simp only [passEnded, owedEnded, intake, notices, and_self]
      · exact ⟨intake, notices⟩

/-! ### The item of a RESOLVING slot -/

theorem dropItem_queued {i : SlotId} {s : State} {x : Item}
    (queued : (s.resolver.queue.find? fun y => y.slot = i) = some x) :
    dropItem i s =
      countPass x.member Pass.stopOne
        { s with resolver := { s.resolver with queue := s.resolver.queue.filter fun y => y.slot ≠ i } } := by
  unfold dropItem
  rw [queued]
  rfl

theorem dropItem_worked {i : SlotId} {s : State} {w : Work}
    (absent : (s.resolver.queue.find? fun y => y.slot = i) = none) (work : s.resolver.work = some w)
    (live : w.abandoned = false) (slot : w.item.slot = i) :
    dropItem i s =
      countPass w.item.member Pass.stopOne
        { s with resolver := { s.resolver with work := some { w with abandoned := true } } } := by
  unfold dropItem
  rw [absent, work]
  simp only [slot, live, decide_true, Bool.not_false, Bool.and_self, if_true]
  rfl

theorem dropItem_none {i : SlotId} {s : State} (absent : (s.resolver.queue.find? fun y => y.slot = i) = none)
    (none : ∀ w, s.resolver.work = some w → w.abandoned = false → w.item.slot ≠ i) : dropItem i s = s := by
  unfold dropItem
  rw [absent]
  dsimp only
  split
  · rename_i w hw
    have idle : (decide (w.item.slot = i) && !w.abandoned) = false := by
      have := none w hw
      cases hl : w.abandoned <;> simp_all
    rw [idle, if_neg Bool.false_ne_true]
  · rfl

/-- A slot with a queued item, one with the work in progress, or neither. -/
theorem item_cases (i : SlotId) (s : State) :
    (∃ x, (s.resolver.queue.find? fun y => y.slot = i) = some x) ∨
    ((s.resolver.queue.find? fun y => y.slot = i) = none ∧
      ((∃ w, s.resolver.work = some w ∧ w.abandoned = false ∧ w.item.slot = i) ∨
        ∀ w, s.resolver.work = some w → w.abandoned = false → w.item.slot ≠ i)) := by
  cases (s.resolver.queue.find? fun y => y.slot = i) with
  | some x => exact .inl ⟨x, rfl⟩
  | none =>
    refine .inr ⟨rfl, ?_⟩
    by_cases h : ∃ w, s.resolver.work = some w ∧ w.abandoned = false ∧ w.item.slot = i
    · exact .inl h
    · exact .inr fun w hw hl hs => h ⟨w, hw, hl, hs⟩

/-! ### A slot out of its collections -/

theorem leaveCollections_timeline (i : SlotId) (e : Event) (s : State) :
    (leaveCollections i e s).timeline =
      { s.timeline with
        entries := if e.run.isArmed then s.timeline.entries.filter fun y => y.slot ≠ i else s.timeline.entries } := by
  cases hr : e.run with
  | dormant => rw [leaveCollections_dormant hr]; rfl
  | waiting =>
    cases hc : e.defn.triggerLine with
    | none => simp [leaveCollections, hr, hc]
    | some c => rw [leaveCollections_waiting hr hc]; rfl
  | resolving => simp [leaveCollections_resolving hr]
  | armed x q =>
    cases hc : e.defn.retriggerLine with
    | none =>
      rw [leaveCollections_armed hr hc]
      split <;> rfl
    | some c => rw [leaveCollections_retrigger hr hc]; rfl

theorem leaveWaiting_lines (c l : CaptureId) (i : SlotId) (s : State) :
    (leaveWaiting c i s).capture.lines[l] =
      if c = l then { s.capture.lines[l] with waiting := s.capture.lines[l].waiting.filter fun j => j ≠ i }
      else s.capture.lines[l] := by
  rw [leaveWaiting, setCapture_get]
  by_cases hl : l = c
  · rw [if_pos hl, if_pos hl.symm, hl]
  · rw [if_neg hl, if_neg (Ne.symm hl)]

theorem leaveCollections_lines (i : SlotId) (e : Event) (s : State) (l : CaptureId) :
    (leaveCollections i e s).capture.lines[l] =
      if (e.run = .waiting ∧ e.defn.triggerLine = some l) ∨ (e.run.isArmed = true ∧ e.defn.retriggerLine = some l) then
        { s.capture.lines[l] with waiting := s.capture.lines[l].waiting.filter fun j => j ≠ i }
      else s.capture.lines[l] := by
  cases hr : e.run with
  | dormant => simp [leaveCollections_dormant hr]
  | waiting =>
    cases hc : e.defn.triggerLine with
    | none => simp [leaveCollections, hr, hc]
    | some c =>
      rw [leaveCollections_waiting hr hc, leaveWaiting_lines]
      simp [-Fin.getElem_fin]
  | resolving => simp [leaveCollections_resolving hr]
  | armed x q =>
    cases hc : e.defn.retriggerLine with
    | none =>
      rw [leaveCollections_armed hr hc]
      split <;> simp
    | some c =>
      rw [leaveCollections_retrigger hr hc, leaveWaiting_lines]
      simp [-Fin.getElem_fin]

/-- A slot that is not RESOLVING leaves the started count at most, of the resolver. -/
theorem leaveCollections_resolver {e : Event} (run : e.run ≠ .resolving) (i : SlotId) (s : State) :
    (leaveCollections i e s).resolver =
      { s.resolver with
        started :=
          if e.run.isArmed = true ∧ e.defn.isCalendar = true then s.resolver.started - 1 else s.resolver.started } := by
  cases hr : e.run with
  | dormant => simp [leaveCollections_dormant hr]
  | waiting =>
    cases hc : e.defn.triggerLine with
    | none => simp [leaveCollections, hr, hc]
    | some c => simp [leaveCollections_waiting hr hc]
  | resolving => exact absurd hr run
  | armed x q =>
    cases hc : e.defn.retriggerLine with
    | none =>
      rw [leaveCollections_armed hr hc]
      by_cases calendar : e.defn.isCalendar = true
      · simp [calendar, dropStarted]
      · simp [calendar]
    | some c =>
      have tick : e.defn.isCalendar = false :=
        Bool.eq_false_iff.mpr fun calendar => by simp [(isCalendar_lines calendar).2] at hc
      simp [leaveCollections_retrigger hr hc, tick]

/-- A slot that is not RESOLVING leaves the rings alone. -/
theorem leaveCollections_rings {e : Event} (run : e.run ≠ .resolving) (i : SlotId) (s : State) :
    (leaveCollections i e s).intake = s.intake ∧ (leaveCollections i e s).notices = s.notices := by
  cases hr : e.run with
  | dormant => simp [leaveCollections_dormant hr]
  | waiting =>
    cases hc : e.defn.triggerLine with
    | none => simp [leaveCollections, hr, hc]
    | some c => simp [leaveCollections_waiting hr hc]
  | resolving => exact absurd hr run
  | armed x q =>
    cases hc : e.defn.retriggerLine with
    | none =>
      rw [leaveCollections_armed hr hc]
      split <;> simp
    | some c => simp [leaveCollections_retrigger hr hc]

theorem passStopped_same {s t : State} (pass : t.resolver.pass = s.resolver.pass) : passStopped s t = s := by
  rw [passStopped, pass]
  cases s.resolver.pass <;> rfl

/-- Out of its collections, a slot has brought the completion of the pass that its item ends, and no other. -/
theorem leaveCollections_completions {s t : State} {i : SlotId} {e : Event}
    (pass : t.resolver.pass = (leaveCollections i e s).resolver.pass) :
    (leaveCollections i e s).intake = (passStopped s t).intake ∧
      (leaveCollections i e s).notices = (passStopped s t).notices := by
  by_cases run : e.run = .resolving
  · rw [leaveCollections_resolving run] at pass ⊢
    rw [(dropStarted_frame _).2.1, (dropStarted_frame _).2.2.2.2.2.2.2.1]
    have dropped : t.resolver.pass = (dropItem i s).resolver.pass := pass
    obtain ⟨x, hx⟩ | ⟨absent, ⟨w, work, live, slot⟩ | none⟩ := item_cases i s
    · rw [dropItem_queued hx] at dropped ⊢
      exact countPass_rings rfl rfl rfl (by rw [dropped, countPass_pass])
    · rw [dropItem_worked absent work live slot] at dropped ⊢
      exact countPass_rings rfl rfl rfl (by rw [dropped, countPass_pass])
    · rw [dropItem_none absent none] at dropped ⊢
      rw [passStopped_same dropped]
      exact ⟨rfl, rfl⟩
  · rw [leaveCollections_resolver run] at pass
    rw [passStopped_same pass]
    exact leaveCollections_rings run i s

/-! ### A slot stopped -/

theorem stopSlot_eq {s : State} {i : SlotId} {e : Event} (he : s.slots[i].event = some e) :
    stopSlot i e s =
      reported i (stoppedResult i e s)
        (setSlot i { s.slots[i] with event := some { e with run := .dormant } } (leaveCollections i e s)) := by
  have slots : (leaveCollections i e s).slots = s.slots := by simp
  have loaded : (leaveCollections i e s).slots[i].event = some e := by rw [slots, he]
  rw [stopSlot, enterDormant_eq loaded]
  simp only [stoppedResult, slots]

/-- What the stop of a slot does to a RESOLVING slot's item and pass. -/
theorem stopped_item {s : State} {i : SlotId} {e : Event} (run : e.run = .resolving) :
    (∀ x, (s.resolver.queue.find? fun y => y.slot = i) = some x →
      (leaveCollections i e s).resolver =
        { queue := s.resolver.queue.filter fun y => y.slot ≠ i, work := s.resolver.work,
          started := s.resolver.started - 1, pass := passAfter x.member Pass.stopOne s.resolver.pass }) ∧
    (∀ w, (s.resolver.queue.find? fun y => y.slot = i) = none → s.resolver.work = some w → w.abandoned = false →
      w.item.slot = i →
      (leaveCollections i e s).resolver =
        { queue := s.resolver.queue, work := some { w with abandoned := true }, started := s.resolver.started - 1,
          pass := passAfter w.item.member Pass.stopOne s.resolver.pass }) := by
  rw [leaveCollections_resolving run]
  refine ⟨fun x hx => ?_, fun w hn hw hl hs => ?_⟩
  · rw [dropItem_queued hx, dropStarted, countPass_pass]
  · rw [dropItem_worked hn hw hl hs, dropStarted, countPass_pass]

theorem find_none_iff {l : List Item} {i : SlotId} : (l.find? fun y => y.slot = i) = none ↔ ∀ y ∈ l, y.slot ≠ i := by
  simp [List.find?_eq_none]

theorem passAfter_false (f : Pass → Pass) (o : Option Pass) : passAfter false f o = o := by cases o <;> rfl

/-- A stopped slot leaves its collections and is DORMANT; the pass counts its item (R15, R96, R98). -/
theorem stopSlot_stopped {s : State} {i : SlotId} {e : Event} (he : s.slots[i].event = some e) :
    StoppedSlot i e s (stopSlot i e s) := by
  have resolver : (stopSlot i e s).resolver = (leaveCollections i e s).resolver := by rw [stopSlot_eq he]; rfl
  have capture : (stopSlot i e s).capture = (leaveCollections i e s).capture := by rw [stopSlot_eq he]; rfl
  have timeline : (stopSlot i e s).timeline = (leaveCollections i e s).timeline := by rw [stopSlot_eq he]; rfl
  have slots : (stopSlot i e s).slots = s.slots.set i { s.slots[i] with event := some { e with run := .dormant } } := by
    have left : (leaveCollections i e s).slots = s.slots := by simp
    rw [stopSlot_eq he]
    show (leaveCollections i e s).slots.set i _ = _
    rw [left]
  have item := stopped_item (s := s) (i := i) (e := e)
  refine
    { blocks := ?_, timeline := ?_, waiting := fun c => ?_, suppressed := ?_, started := ?_, elsewhere := fun run => ?_
      queued := fun x run hx => ?_, worked := fun w run absent work live slot => ?_, member := fun x p run pass hx mem => ?_ }
  · ext1
    case slots => exact slots
    all_goals simp
  · rw [timeline, leaveCollections_timeline]
  · rw [capture, leaveCollections_lines]
  · rw [capture, leaveCollections_suppressed]
  · rw [resolver]
    by_cases run : e.run = .resolving
    · rw [if_pos (.inl run), leaveCollections_resolving run]
      exact congrArg (· - 1) (dropItem_started i s)
    · rw [leaveCollections_resolver run]
      simp [run]
  · rw [resolver, leaveCollections_resolver run]
  · rw [resolver, (item run).1 x hx]
    exact ⟨rfl, rfl, fun other => by rw [other, passAfter_false]⟩
  · rw [resolver, (item run).2 w (find_none_iff.mpr absent) work live slot]
    exact ⟨rfl, rfl, fun other => by rw [other, passAfter_false]⟩
  · have after : (stopSlot i e s).resolver.pass = passAfter true Pass.stopOne s.resolver.pass := by
      rw [resolver, ← mem]
      obtain hx | ⟨absent, work, slot⟩ := hx
      · rw [(item run).1 x hx]
      · rw [(item run).2 _ (find_none_iff.mpr absent) work rfl slot]
    rw [after, pass]
    rfl

/-- The completions that a stop brings: of the pass that ends, then of the WAITs on the slot (log entry 24). -/
theorem stopSlot_rings {s t : State} {i : SlotId} {e : Event} (he : s.slots[i].event = some e)
    (pass : t.resolver.pass = (stopSlot i e s).resolver.pass) :
    (stopSlot i e s).intake = (reported i (stoppedResult i e s) (passStopped s t)).intake ∧
      (stopSlot i e s).notices = (reported i (stoppedResult i e s) (passStopped s t)).notices := by
  have resolver : (stopSlot i e s).resolver = (leaveCollections i e s).resolver := by rw [stopSlot_eq he]; rfl
  rw [resolver] at pass
  have left := leaveCollections_completions pass
  rw [stopSlot_eq he]
  simp only [reported, State.boundFaulted, waitCompletions, setSlot_frame, left, and_self]

theorem countPass_wait (m : Bool) (f : Pass → Pass) (s : State) (r : CommandRingId) :
    (countPass m f s).intake.rings[r].wait = s.intake.rings[r].wait := by
  unfold countPass
  split
  · split
    · unfold notePass
      split
      · exact completeOwed_wait _ _ _ _ _ _
      · rfl
    · rfl
  · rfl

theorem leaveCollections_wait (i : SlotId) (e : Event) (s : State) (r : CommandRingId) :
    (leaveCollections i e s).intake.rings[r].wait = s.intake.rings[r].wait := by
  by_cases run : e.run = .resolving
  · rw [leaveCollections_resolving run, (dropStarted_frame _).2.1]
    obtain ⟨x, hx⟩ | ⟨absent, ⟨w, work, live, slot⟩ | none⟩ := item_cases i s
    · rw [dropItem_queued hx, countPass_wait]
    · rw [dropItem_worked absent work live slot, countPass_wait]
    · rw [dropItem_none absent none]
  · rw [(leaveCollections_rings run i s).1]

theorem stopSlot_waits {s : State} {i : SlotId} {e : Event} (he : s.slots[i].event = some e) :
    WaitsOver i s (stopSlot i e s) := by
  intro r
  rw [stopSlot_eq he, ← leaveCollections_wait i e s r]
  exact reported_waits i _ _ r

/-! ### The actions of a firing on slots -/

theorem startAction_ok {s : State} {i : SlotId} {e : Event} (he : s.slots[i].event = some e) (run : e.run = .dormant)
    (room : calendarFull e s = false) (z : Tick) : startAction i z s = (startSlot i e z s, false) := by
  simp only [startAction, he, run, room]
  rfl

theorem startAction_failed {s : State} {i : SlotId} {e : Event} (he : s.slots[i].event = some e)
    (bad : e.run ≠ .dormant ∨ calendarFull e s = true) (z : Tick) : startAction i z s = (s, true) := by
  have failed : (e.run ≠ .dormant || calendarFull e s) = true := by
    simpa only [Bool.or_eq_true, decide_eq_true_eq] using bad
  simp only [startAction, he]
  rw [if_pos failed]

theorem stopAction_dormant {s : State} {i : SlotId} {e : Event} (he : s.slots[i].event = some e)
    (run : e.run = .dormant) : stopAction i s = (s, false) := by
  simp only [stopAction, he, if_pos run]

theorem stopAction_started {s : State} {i : SlotId} {e : Event} (he : s.slots[i].event = some e)
    (run : e.run ≠ .dormant) : stopAction i s = (stopSlot i e s, false) := by
  simp only [stopAction, he, if_neg run]

/-- Settles O34, with the equations of START and STOP that the commands have. -/
theorem slotActionsOfAFiring : Obligations.SlotActionsOfAFiring := by
  refine ⟨fun s i z => ⟨fun free => ⟨?_, ?_⟩, rfl⟩,
    fun s i z e he => ⟨fun bad => ?_, fun run => ⟨?_, ?_, ?_, ?_, ?_⟩, fun run => ?_⟩⟩
  · show startAction i z s = _
    simp only [startAction, free]
  · show stopAction i s = _
    simp only [stopAction, free]
  · exact startAction_failed he (bad.imp_right calendarFull_iff.mpr) z
  · exact stopAction_dormant he run
  · intro x n timing
    refine (startAction_ok he run (not_full (isCalendar_tick timing) s) z).trans ?_
    rw [startSlot_absolute timing, start_armedAt]
  · intro d n timing
    refine (startAction_ok he run (not_full (isCalendar_tick timing) s) z).trans ?_
    rw [startSlot_relative timing, start_armedAt]
  · intro c m d n timing
    refine (startAction_ok he run (not_full (isCalendar_tick timing) s) z).trans ?_
    rw [startSlot_trigger timing, start_waiting]
    rfl
  · intro p n timing room hn
    have notFull : calendarFull e s = false :=
      Bool.eq_false_iff.mpr fun full => absurd (calendarFull_iff.mp full).2 (Nat.not_le.mpr room)
    subst hn
    refine (startAction_ok he run notFull z).trans ?_
    rw [startSlot_calendar timing, start_resolving]
    rfl
  · exact ⟨stopSlot i e s, _, stopAction_started he run, stopSlot_stopped he, stopSlot_waits he, rfl,
      stopSlot_rings he rfl⟩

end Sys2Proof.Machine
end

section
/-! STOP: the end of the fetch that brings it, around the stop of the slot (R15, R146, R153). -/

namespace Sys2Proof.Machine

open Sys2Proof

/-! ### A fetch taken around the ends of completions -/

/-- An operation outside the intake leaves the fetch to be taken. -/
theorem advanceTake_comm {r : CommandRingId} {s : State} (op : State → State)
    (intake : ∀ x, op { s with intake := x } = { op s with intake := x }) (same : (op s).intake = s.intake) :
    op (advanceTake r s) = advanceTake r (op s) := by
  have moved : (advanceTake r (op s)).intake = (advanceTake r s).intake := by
    rw [advanceTake_intake, advanceTake_intake, same]
  rw [advanceTake_eq r (op s), moved, ← intake]
  exact congrArg op (advanceTake_eq r s)

/-- States that differ in command rings and notice rings alone, and not there. -/
theorem state_eq_of_rings {s t : State} (blocks : t = { s with intake := t.intake, notices := t.notices })
    (turn : t.intake.turn = s.intake.turn) (count : t.intake.count = s.intake.count)
    (ended : t.intake.turnOver = s.intake.turnOver) (rings : ∀ q : CommandRingId, t.intake.rings[q] = s.intake.rings[q])
    (notices : ∀ k : NoticeRingId, t.notices[k] = s.notices[k]) : t = s := by
  have hi : t.intake = s.intake := Intake.ext (Vector.ext fun i hi => rings ⟨i, hi⟩) turn count ended
  have hn : t.notices = s.notices := Vector.ext fun i hi => notices ⟨i, hi⟩
  rw [blocks, hn, hi]

theorem advanceTake_turn (r : CommandRingId) (s : State) :
    (advanceTake r s).intake.turn = s.intake.turn ∧
      (advanceTake r s).intake.count = (if r = s.intake.turn then s.intake.count + 1 else s.intake.count) ∧
      (advanceTake r s).intake.turnOver = s.intake.turnOver := by
  rw [advanceTake_intake]
  exact ⟨rfl, rfl, rfl⟩

/-- A command ring that has moved on by one record. -/
def CommandRing.advanced (x : CommandRing) : CommandRing := { x with take := x.nextTake, fetch := none }

theorem advanceTake_rings (r q : CommandRingId) (s : State) :
    (advanceTake r s).intake.rings[q] = if q = r then (s.intake.rings[q]).advanced else s.intake.rings[q] := by
  rw [advanceTake_ring]
  split
  · rename_i h
    subst h
    rfl
  · rfl

theorem advanceTake_notices (r : CommandRingId) (s : State) : (advanceTake r s).notices = s.notices := by
  rw [advanceTake_eq]

/-- What the ends of completions read and change of a command ring is not its place or its fetch. -/
theorem owedEnded_advanceTake (r q : CommandRingId) (o : Owed) (n : Notice) (s : State) :
    owedEnded q o n (advanceTake r s) = advanceTake r (owedEnded q o n s) := by
  have ring : ∀ (u : State) (j : CommandRingId), (owedEnded q o n u).intake.rings[j] =
      if j = q then { u.intake.rings[q] with outstanding := u.intake.rings[q].outstanding.erase o } else u.intake.rings[j] :=
    fun u j => setRing_get q j _ u
  have notice : ∀ (u : State) (j : NoticeRingId), (owedEnded q o n u).notices[j] =
      if o ∈ u.intake.rings[q].outstanding ∧ u.intake.rings[q].bound? = some j then u.notices[j].answered n
      else u.notices[j] := fun u j => by simp [owedEnded]
  obtain ⟨turn, count, ended⟩ := advanceTake_turn r s
  obtain ⟨turn', count', ended'⟩ := advanceTake_turn r (owedEnded q o n s)
  refine state_eq_of_rings ?_ (turn.trans turn'.symm) (count.trans count'.symm) (ended.trans ended'.symm) (fun j => ?_)
    fun j => ?_
  · rw [advanceTake_eq r (owedEnded q o n s), advanceTake_eq r s]
    rfl
  · rw [ring, advanceTake_rings, advanceTake_rings, advanceTake_rings, ring]
    by_cases hj : j = q
    · subst hj
      simp only [if_true]
      split <;> rfl
    · simp only [if_neg hj]
  · rw [notice, advanceTake_notices, advanceTake_notices, notice, advanceTake_rings]
    split <;> rfl

theorem reported_ring (i : SlotId) (x : Result) (s : State) (r : CommandRingId) :
    (reported i x s).intake.rings[r] = s.intake.rings[r].reported i (s.boundFaulted r) := by simp [reported]

theorem reported_notice (i : SlotId) (x : Result) (s : State) (k : NoticeRingId) :
    (reported i x s).notices[k] = s.notices[k].handed (waitCompletions i x s k) := by simp [reported]

theorem reported_advanced (i : SlotId) (b : Bool) (x : CommandRing) :
    (x.advanced).reported i b = (x.reported i b).advanced := by
  obtain ⟨_, _, _, _, _, _, _, wait, _⟩ := x
  cases wait with
  | none => rfl
  | some w =>
    by_cases hi : w.slot = i
    · simp only [CommandRing.reported, CommandRing.advanced, if_pos hi]
      rfl
    · simp only [CommandRing.reported, CommandRing.advanced, if_neg hi]

theorem boundFaulted_advanceTake (r q : CommandRingId) (s : State) :
    (advanceTake r s).boundFaulted q = s.boundFaulted q := by
  rw [State.boundFaulted, advanceTake_notices, advanceTake_rings]
  split <;> rfl

theorem waitCompletions_advanceTake (r : CommandRingId) (i : SlotId) (x : Result) (s : State) (k : NoticeRingId) :
    waitCompletions i x (advanceTake r s) k = waitCompletions i x s k := by
  unfold waitCompletions
  refine congrArg (fun f => (List.finRange 4).filterMap f) (funext fun q => ?_)
  rw [advanceTake_rings]
  split <;> rfl

theorem reported_advanceTake (r : CommandRingId) (i : SlotId) (x : Result) (s : State) :
    reported i x (advanceTake r s) = advanceTake r (reported i x s) := by
  obtain ⟨turn, count, ended⟩ := advanceTake_turn r s
  obtain ⟨turn', count', ended'⟩ := advanceTake_turn r (reported i x s)
  refine state_eq_of_rings ?_ (turn.trans turn'.symm) (count.trans count'.symm) (ended.trans ended'.symm) (fun j => ?_)
    fun j => ?_
  · rw [advanceTake_eq r (reported i x s), advanceTake_eq r s]
    rfl
  · rw [reported_ring, boundFaulted_advanceTake, advanceTake_rings, advanceTake_rings, reported_ring]
    split
    · exact reported_advanced _ _ _
    · rfl
  · rw [reported_notice, waitCompletions_advanceTake, advanceTake_notices, advanceTake_notices, reported_notice]

theorem countPass_advanceTake (r : CommandRingId) (m : Bool) (f : Pass → Pass) (s : State) :
    countPass m f (advanceTake r s) = advanceTake r (countPass m f s) := by
  have pass : (advanceTake r s).resolver.pass = s.resolver.pass := by rw [advanceTake_eq]
  have set : ∀ o, { advanceTake r s with resolver := { (advanceTake r s).resolver with pass := o } } =
      advanceTake r { s with resolver := { s.resolver with pass := o } } := fun o =>
    advanceTake_comm (fun u => { u with resolver := { u.resolver with pass := o } }) (fun _ => rfl) rfl
  rw [countPass_eq, countPass_eq]
  unfold itemEnded
  rw [pass]
  split
  · split
    · split
      · rw [passEnded, set, owedEnded_advanceTake]
        rfl
      · exact set _
    · rfl
  · rfl

theorem dropItem_advanceTake (r : CommandRingId) (i : SlotId) (s : State) :
    dropItem i (advanceTake r s) = advanceTake r (dropItem i s) := by
  have resolver : (advanceTake r s).resolver = s.resolver := by rw [advanceTake_eq]
  obtain ⟨x, hx⟩ | ⟨absent, ⟨w, work, live, slot⟩ | none⟩ := item_cases i s
  · rw [dropItem_queued hx, dropItem_queued (by rw [resolver]; exact hx), ← countPass_advanceTake]
    exact congrArg (countPass x.member Pass.stopOne) (advanceTake_comm
      (fun u => { u with resolver := { u.resolver with queue := u.resolver.queue.filter fun y => y.slot ≠ i } })
      (fun _ => rfl) rfl)
  · rw [dropItem_worked absent work live slot,
      dropItem_worked (by rw [resolver]; exact absent) (by rw [resolver]; exact work) live slot, ← countPass_advanceTake]
    exact congrArg (countPass w.item.member Pass.stopOne) (advanceTake_comm
      (fun u => { u with resolver := { u.resolver with work := some { w with abandoned := true } } }) (fun _ => rfl) rfl)
  · rw [dropItem_none absent none, dropItem_none (by rw [resolver]; exact absent) (by rw [resolver]; exact none)]

theorem leaveCollections_advanceTake (r : CommandRingId) (i : SlotId) (e : Event) (s : State) :
    leaveCollections i e (advanceTake r s) = advanceTake r (leaveCollections i e s) := by
  cases hr : e.run with
  | dormant => rw [leaveCollections_dormant hr, leaveCollections_dormant hr]
  | waiting =>
    cases hc : e.defn.triggerLine with
    | none => simp only [leaveCollections, hr, hc]
    | some c =>
      rw [leaveCollections_waiting hr hc, leaveCollections_waiting hr hc]
      exact advanceTake_comm (leaveWaiting c i) (fun _ => rfl) rfl
  | resolving =>
    rw [leaveCollections_resolving hr, leaveCollections_resolving hr, dropItem_advanceTake]
    exact advanceTake_comm dropStarted (fun _ => rfl) rfl
  | armed x q =>
    cases hc : e.defn.retriggerLine with
    | none =>
      rw [leaveCollections_armed hr hc, leaveCollections_armed hr hc]
      split
      · exact advanceTake_comm (fun u => dropStarted (removeEntry i u)) (fun _ => rfl) rfl
      · exact advanceTake_comm (removeEntry i) (fun _ => rfl) rfl
    | some c =>
      rw [leaveCollections_retrigger hr hc, leaveCollections_retrigger hr hc]
      exact advanceTake_comm (fun u => leaveWaiting c i (removeEntry i u)) (fun _ => rfl) rfl

theorem stopSlot_advanceTake {s : State} {i : SlotId} {e : Event} (he : s.slots[i].event = some e) (r : CommandRingId) :
    stopSlot i e (advanceTake r s) = advanceTake r (stopSlot i e s) := by
  have slots : (advanceTake r s).slots = s.slots := by rw [advanceTake_eq]
  rw [stopSlot_eq he, stopSlot_eq (by rw [slots]; exact he), leaveCollections_advanceTake, ← reported_advanceTake]
  have result : stoppedResult i e (advanceTake r s) = stoppedResult i e s := by simp only [stoppedResult, slots]
  have set := advanceTake_comm (r := r) (s := leaveCollections i e s)
    (setSlot i { s.slots[i] with event := some { e with run := .dormant } }) (fun _ => rfl) rfl
  rw [result, ← set]
  simp only [slots]

/-! ### STOP -/

/-- A command that its owner completes at once, whatever it does elsewhere: the owner leaves `w` with the fetch
taken. -/
theorem commandFetched_completed {s w : State} {r : CommandRingId} {k : NoticeRingId} {h : Header} {m : Command}
    {st : Status} {x : Result} (hf : Fetching s r k)
    (take : takeCommand { ring := r, ident := h.ident, takeIndex := s.intake.rings[r].nextTake } h m (advanceTake r s) =
      (advanceTake r w, .complete st x))
    (bound : w.intake.rings[r].bound? = some k) :
    commandFetched h m s = settle (afterTake r k [completionOf s r h st x] w) := by
  have taken : takeFetched h (some m) r s = useReservation k (completionOf s r h st x) (advanceTake r w) := by
    have same : (advanceTake r w).intake.rings[r].bound? = some k := by
      rw [advanceTake_rings, if_pos rfl]
      exact bound
    simp only [takeFetched]
    rw [take]
    simp only [answerCommand, handCompletion]
    rw [same]
    rfl
  rw [commandFetched, endFetch_live hf, taken]
  refine congrArg settle (stallIfFaulted_afterTake bound ?_)
  rw [useReservation_notices, advanceTake_notices, advanceTake_eq r w, advanceTake_intake]

/-- What stands outside the intake and the notice unit, the end of a take and the arbiter's choice leave. -/
theorem settle_afterTake_blocks (r : CommandRingId) (k : NoticeRingId) (l : List Notice) (w : State) :
    settle (afterTake r k l w) = { w with intake := (settle (afterTake r k l w)).intake
                                          notices := (settle (afterTake r k l w)).notices } :=
  (settle_arbiterOnly (afterTake r k l w)).blocks

theorem ArbiterRing.wait {x y : CommandRing} (h : ArbiterRing x y) : y.wait = x.wait := by
  obtain rfl | rfl | rfl := h <;> rfl

/-- The end of a take and the arbiter's choice end no WAIT. -/
theorem settle_afterTake_wait (r q : CommandRingId) (k : NoticeRingId) (l : List Notice) (w : State) :
    (settle (afterTake r k l w)).intake.rings[q].wait = w.intake.rings[q].wait := by
  rw [((settle_cases (afterTake r k l w)).rings q).ring.wait, afterTake_ring]
  split
  · rename_i h
    subst h
    rfl
  · rfl

/-- What is said of a stop holds of every state that differs in the intake and the notice unit alone. -/
theorem StoppedSlot.of_blocks {i : SlotId} {e : Event} {s w t : State} (h : StoppedSlot i e s w)
    (blocks : t = { w with intake := t.intake, notices := t.notices }) : StoppedSlot i e s t := by
  generalize t.intake = x, t.notices = y at blocks
  subst blocks
  refine { h with blocks := ?_ }
  rw [h.blocks]

/-- The rings of the stop, put back into a state that differs from it there alone. -/
theorem stopSlot_restored {s t : State} {i : SlotId} {e : Event} (he : s.slots[i].event = some e)
    (blocks : t = { stopSlot i e s with intake := t.intake, notices := t.notices }) :
    { t with intake := (reported i (stoppedResult i e s) (passStopped s t)).intake
             notices := (reported i (stoppedResult i e s) (passStopped s t)).notices } = stopSlot i e s := by
  obtain ⟨intake, notices⟩ := stopSlot_rings (t := t) he (by rw [blocks])
  rw [← intake, ← notices, blocks]

/-- Settles O6: the stop of the slot, with its completions, stands between the take and the STOP's own completion. -/
theorem stopReturnsToDormant : Obligations.StopReturnsToDormant := by
  intro h s r k e hf he hg run
  have slots : (advanceTake r s).slots = s.slots := by rw [advanceTake_eq]
  have result : (stopSlot h.slot e s).slots[h.slot].result false = stoppedResult h.slot e s := by
    rw [(stopSlot_stopped he).blocks]
    simp [stoppedResult]
  have take : takeCommand { ring := r, ident := h.ident, takeIndex := s.intake.rings[r].nextTake } h .stop
      (advanceTake r s) = (advanceTake r (stopSlot h.slot e s), .complete .ok (stoppedResult h.slot e s)) := by
    have loaded : (advanceTake r s).slots[h.slot].event = some e := by rw [slots, he]
    have own : (advanceTake r (stopSlot h.slot e s)).slots = (stopSlot h.slot e s).slots := by rw [advanceTake_eq]
    refine (takeStop_ok loaded (by rw [slots, hg]) run).trans ?_
    rw [stopSlot_advanceTake he, answerSlot, own, result]
  have bound : (stopSlot h.slot e s).intake.rings[r].bound? = some k := by
    have same := ((completedRing_iff _ _).mp ((stopSlot_completed h.slot e s).rings r)).1
    rw [CommandRing.bound?, same]
    exact hf.bound
  have done := commandFetched_completed hf take bound
  have blocks := settle_afterTake_blocks r k [completionOf s r h .ok (stoppedResult h.slot e s)] (stopSlot h.slot e s)
  refine ⟨_, _, congrArg Host.Outcome.next done, (stopSlot_stopped he).of_blocks blocks, fun q => ?_, rfl, ?_⟩
  · rw [settle_afterTake_wait]
    exact stopSlot_waits he q
  · exact congrArg (fun w => settle (afterTake r k _ w)) (stopSlot_restored he blocks).symm

end Sys2Proof.Machine
end

section
/-! A work that ends with no match (R95, R98, R100). -/

namespace Sys2Proof.Machine

open Sys2Proof

theorem Item.expiry_none {x : Item} {p : Pattern}
    (h : p.resolve x.base = none ∨ ∃ d, p.resolve x.base = some d ∧ 2 ^ 64 ≤ x.beginTick.toNat + d * second) :
    x.expiry p = none := by
  obtain h | ⟨d, h, far⟩ := h
  · simp only [Item.expiry, h]
  · simp only [Item.expiry, h]
    exact if_neg fun near => absurd (Nat.lt_of_lt_of_le (Nat.lt_succ_of_le near) far) (lt_irrefl _)

theorem workEnd_unmatched {s : State} {x : Item} {e : Event} {p : Pattern}
    (work : s.resolver.work = some { item := x, abandoned := false }) (he : s.slots[x.slot].event = some e)
    (timing : e.defn.timing = .calendar p) (unmatched : x.expiry p = none) :
    execWorkEnd s = .next (workUnmatched x e.defn.ring { s with resolver := { s.resolver with work := none } }) := by
  simp only [execWorkEnd, work, Bool.false_eq_true, if_false, endWork, he, timing, unmatched]

/-- The firing offer in the words of its rules: posted, or on the deferred list with the slot's notice pending (R125,
R126). -/
theorem offerFiring_eq (k : NoticeRingId) (i : SlotId) (p : FiringReport) (s : State) :
    offerFiring k i p s =
      if s.notices[k].takesOffer then setNotice k (s.notices[k].takePlace (firingNotice i p s)) s
      else
        setSlot i { s.slots[i] with noticePending := true }
          (setNotice k { s.notices[k] with deferred := deferFiring i p s.notices[k].deferred } s) := rfl

theorem offerFiring_intake (k : NoticeRingId) (i : SlotId) (p : FiringReport) (s : State) :
    (offerFiring k i p s).intake = s.intake := by
  rw [offerFiring_eq]
  split <;> rfl

theorem settle_wait (s : State) (r : CommandRingId) : (settle s).intake.rings[r].wait = s.intake.rings[r].wait :=
  ((settle_cases s).rings r).ring.wait

/-- Settles O22: the dormancy report, the offer, the count of the pass, the arbiter's choice. -/
theorem noMatchReturnsToDormant : Obligations.NoMatchReturnsToDormant := by
  intro s u v x e p report work he timing unmatched hu hreport hv
  have dormant : dropStarted (enterDormant x.slot { s with resolver := { s.resolver with work := none } }) = u := by
    rw [hu, enterDormant_eq (s := { s with resolver := { s.resolver with work := none } }) he]
    rfl
  have slot : u.slots[x.slot] = { s.slots[x.slot] with event := some { e with run := .dormant } } := by
    rw [hu]
    simp [reported]
  have offered : offerFiring e.defn.ring x.slot (x.noMatchReport s.time.timebase) u = v := by
    rw [hv, hreport, offerFiring_eq, firingNotice, slot]
    rfl
  have ended : execWorkEnd s =
      .next (settle (itemEnded x.member (fun a => { a with noMatch := a.noMatch + 1 }) v)) := by
    rw [workEnd_unmatched work he timing (Item.expiry_none unmatched), workUnmatched, countPass_eq, dormant]
    exact congrArg (fun w => Host.Outcome.next (settle (itemEnded _ _ w))) offered
  refine ⟨_, ended, rfl, fun r => ?_⟩
  have reports : u.intake.rings[r].wait = s.intake.rings[r].wait.filter fun w => w.slot ≠ x.slot := by
    rw [hu]
    exact reported_waits x.slot _ _ r
  rw [settle_wait, ← countPass_eq, countPass_wait, ← offered, offerFiring_intake, reports]

end Sys2Proof.Machine
end

section
/-! Offers in the words of their rules: posted, deferred, merged or counted (R121, R125 to R129). -/

namespace Sys2Proof.Machine

open Sys2Proof

/-! ### Rings that take an offer -/

theorem takesOffer_iff (x : NoticeRing) :
    x.takesOffer = true ↔ x.state = .active ∧ x.occupied + x.reserved < x.size ∧ x.deferred = [] := by
  simp [NoticeRing.takesOffer, NoticeRing.hasRoom, and_assoc]

theorem takesOffer_false_iff (x : NoticeRing) :
    x.takesOffer = false ↔ x.state ≠ .active ∨ x.size ≤ x.occupied + x.reserved ∨ x.deferred ≠ [] := by
  rw [← Bool.not_eq_true, takesOffer_iff, not_and_or, not_and_or, Nat.not_lt]

/-! ### Deferred lists -/

theorem deferFiring_new {i : SlotId} {l : List Deferred} (p : FiringReport) (h : i ∉ l.filterMap Deferred.slot?) :
    deferFiring i p l = l ++ [.slot i p] := by
  induction l with
  | nil => rfl
  | cons d l ih =>
    cases d with
    | slot j q =>
      have other : j ≠ i ∧ i ∉ l.filterMap Deferred.slot? := by
        simpa [-List.mem_filterMap, Deferred.slot?, eq_comm] using h
      rw [deferFiring, if_neg other.1, ih other.2]
      rfl
    | line c => exact congrArg (Deferred.line c :: ·) (ih h)
    | system n k => exact congrArg (Deferred.system n k :: ·) (ih h)

theorem deferFiring_listed {i : SlotId} {a : List Deferred} (p q : FiringReport) (b : List Deferred)
    (h : i ∉ a.filterMap Deferred.slot?) :
    deferFiring i p (a ++ .slot i q :: b) = a ++ .slot i (q.merge p) :: b := by
  induction a with
  | nil => exact if_pos rfl
  | cons d l ih =>
    cases d with
    | slot j x =>
      have other : j ≠ i ∧ i ∉ l.filterMap Deferred.slot? := by
        simpa [-List.mem_filterMap, Deferred.slot?, eq_comm] using h
      rw [List.cons_append, deferFiring, if_neg other.1, ih other.2]
      rfl
    | line c => exact congrArg (Deferred.line c :: ·) (ih h)
    | system n k => exact congrArg (Deferred.system n k :: ·) (ih h)

theorem deferSystem_new (n : SystemNotice) {l : List Deferred} (h : ∀ d ∈ l, d.isSystem = false) :
    deferSystem n l = l ++ [.system n 0] := by
  induction l with
  | nil => rfl
  | cons d l ih =>
    have rest := ih fun x hx => h x (List.mem_cons_of_mem _ hx)
    cases d with
    | slot j p => exact congrArg (Deferred.slot j p :: ·) rest
    | line c => exact congrArg (Deferred.line c :: ·) rest
    | system m k => exact absurd (h _ List.mem_cons_self) (by decide : ¬true = false)

theorem deferSystem_listed (n kept : SystemNotice) {a : List Deferred} (b : List Deferred) (lost : Nat)
    (h : ∀ d ∈ a, d.isSystem = false) :
    deferSystem n (a ++ .system kept lost :: b) = a ++ .system kept (min (lost + 1) 255) :: b := by
  induction a with
  | nil => rfl
  | cons d l ih =>
    have rest := ih fun x hx => h x (List.mem_cons_of_mem _ hx)
    cases d with
    | slot j p => exact congrArg (Deferred.slot j p :: ·) rest
    | line c => exact congrArg (Deferred.line c :: ·) rest
    | system m k => exact absurd (h _ List.mem_cons_self) (by decide : ¬true = false)

/-! ### Firing offers -/

theorem firingNotice_loaded {s : State} {i : SlotId} {e : Event} (p : FiringReport) (he : s.slots[i].event = some e) :
    firingNotice i p s = .firing i s.slots[i].generation e.defn.tag p := by
  rw [firingNotice, he]
  rfl

theorem offerFiring_posted {s : State} {k : NoticeRingId} {i : SlotId} {e : Event} (p : FiringReport)
    (he : s.slots[i].event = some e) (takes : s.notices[k].takesOffer = true) :
    offerFiring k i p s = setNotice k (s.notices[k].takePlace (.firing i s.slots[i].generation e.defn.tag p)) s := by
  rw [offerFiring_eq, if_pos takes, firingNotice_loaded p he]

theorem offerFiring_deferred {s : State} {k : NoticeRingId} (i : SlotId) (p : FiringReport)
    (takes : s.notices[k].takesOffer = false) :
    offerFiring k i p s =
      setSlot i { s.slots[i] with noticePending := true }
        (setNotice k { s.notices[k] with deferred := deferFiring i p s.notices[k].deferred } s) := by
  rw [offerFiring_eq, takes, if_neg Bool.false_ne_true]

/-! ### System offers -/

theorem offerSystem_posted (b : SystemBody) {s : State} (on : s.control.core = .running)
    (takes : s.notices[(0 : NoticeRingId)].takesOffer = true) :
    offerSystem b s =
      setNotice 0
        (s.notices[(0 : NoticeRingId)].takePlace (.system (atPosting { body := b, tick := s.time.timebase } s) 0)) s := by
  rw [offerSystem, if_pos on, if_pos takes]
  rfl

theorem offerSystem_deferred (b : SystemBody) {s : State} (on : s.control.core = .running)
    (takes : s.notices[(0 : NoticeRingId)].takesOffer = false) :
    offerSystem b s =
      setNotice 0
        { s.notices[(0 : NoticeRingId)] with
          deferred := deferSystem { body := b, tick := s.time.timebase } s.notices[(0 : NoticeRingId)].deferred } s := by
  rw [offerSystem, if_pos on, takes, if_neg Bool.false_ne_true]

/-- A QUEUE_FAULT naming NR1 carries the count as it stands; every other notice is posted as it was offered (R132). -/
theorem atPosting_cases (b : SystemBody) (t : Tick) (s : State) :
    atPosting { body := b, tick := t } s =
      match b with
      | .noticeFault 1 _ => { body := .noticeFault 1 s.notices[(1 : NoticeRingId)].lostRecords, tick := t }
      | .noticeFault 0 _ | .commandFault _ | .badIndex _ | .halted _ _ | .resumed _ => { body := b, tick := t } := by
  cases b with
  | noticeFault k lost =>
    match k with
    | 0 => rfl
    | 1 => rfl
  | commandFault r => rfl
  | badIndex o => rfl
  | halted a b => rfl
  | resumed m => rfl

/-! ### Places -/

/-- A place taken, with the wrap of the write index as a remainder (R121). -/
theorem takePlace_configured {x : NoticeRing} {c : NoticeConfig} (n : Notice) (config : x.config = some c)
    (inside : x.writeIndex < c.size) :
    x.takePlace n =
      { x with
        writeIndex := (x.writeIndex + 1) % c.size
        phase := if x.writeIndex + 1 = c.size then !x.phase else x.phase
        occupied := x.occupied + 1
        queue := x.queue ++
          [{ place := x.writeIndex, address := c.base.toNat + 32 * x.writeIndex, phase := x.phase, notice := n
             released := false }] } := by
  have size : x.size = c.size := by rw [NoticeRing.size, config]; rfl
  rw [NoticeRing.takePlace, size, config]
  by_cases last : x.writeIndex + 1 = c.size
  · rw [if_neg (by omega), if_neg (by omega), if_pos last, last, Nat.mod_self]
    rfl
  · have next : x.writeIndex + 1 < c.size := by omega
    rw [if_pos next, if_pos next, if_neg last, Nat.mod_eq_of_lt next]
    rfl

/-- Settles O38, by the ring that takes the offer and the ring that does not. -/
theorem offersArePostedOrDeferred : Obligations.OffersArePostedOrDeferred := by
  refine ⟨fun k i e p s he => ⟨fun active room empty => ?_, fun refused => ?_⟩,
    ⟨takesOffer_iff, fun n _ h => deferSystem_new n h, fun n kept _ b lost h => deferSystem_listed n kept b lost h, ?_⟩,
    fun x c n config inside => takePlace_configured n config inside⟩
  · exact offerFiring_posted p he ((takesOffer_iff _).mpr ⟨active, room, empty⟩)
  · have deferred := offerFiring_deferred i p ((takesOffer_false_iff _).mpr refused)
    refine ⟨fun fresh => ?_, fun a b q list first => ?_⟩
    · rw [deferred, deferFiring_new p fresh]
    · rw [deferred, list, deferFiring_listed p q b first]
      rfl
  · rintro b s n m x rfl rfl hm
    have posted : atPosting { body := b, tick := s.time.timebase } s = m := hm ▸ atPosting_cases b s.time.timebase s
    refine ⟨offerSystem_idle b, fun on active room empty => ?_, fun on refused => ?_⟩
    · rw [offerSystem_posted b on ((takesOffer_iff _).mpr ⟨active, room, empty⟩), posted]
    · rw [offerSystem_deferred b on ((takesOffer_false_iff _).mpr refused)]

end Sys2Proof.Machine
end

section
/-! What the resets of the core leave (R168, R169). -/

namespace Sys2Proof.Machine

open Sys2Proof

/-! ### The rings of a core reset -/

theorem controlReset_ring (s : State) (r : CommandRingId) :
    (controlReset s).intake.rings[r] =
      { CommandRing.reset with fetch := s.intake.rings[r].fetch.map fun f => { f with discarded := true } } :=
  Vector.getElem_map _ r.isLt

theorem controlReset_notice (s : State) (k : NoticeRingId) :
    (controlReset s).notices[k] =
      { NoticeRing.reset with
        stale := if s.notices[k].stale = none then s.notices[k].queue.head? else s.notices[k].stale } := by
  have fresh : (controlReset s).notices[k] = s.notices[k].fresh none := Vector.getElem_map _ k.isLt
  rw [fresh, NoticeRing.fresh, NoticeRing.inFlight]
  cases s.notices[k].stale <;> rfl

/-- No ring shows in STATUS or in INT_STATUS after a core reset. -/
theorem controlReset_quiet (s : State) :
    (∀ r : CommandRingId, (controlReset s).intake.rings[r].state = .disabled) ∧
      ∀ k : NoticeRingId, (controlReset s).notices[k].state = .disabled ∧ (controlReset s).notices[k].ready = false :=
  ⟨fun r => by rw [controlReset_ring]; rfl, fun k => by rw [controlReset_notice]; exact ⟨rfl, rfl⟩⟩

theorem controlReset_intBits (s : State) : (controlReset s).intBits = 0 := by
  have off : (controlReset s).halted = false := rfl
  have clear : (controlReset s).control.fault = false := rfl
  simp only [State.intBits, (controlReset_quiet s).2, off, clear]
  rfl

theorem controlReset_intr (s : State) : (controlReset s).intr = false := by
  rw [State.intr, controlReset_intBits]
  simp

/-- STATUS with nothing but the level of HALT_IN to show (R171). -/
theorem statusWord_quiet {s : State} (rings : ∀ r : CommandRingId, s.intake.rings[r].state = .disabled)
    (notices : ∀ k : NoticeRingId, s.notices[k].state = .disabled) (core : s.control.core = .off)
    (causes : s.control.causeLatched = false)
    (flags : (s.control.badIndex || s.control.startIgnored || s.control.resumeRefused) = false) :
    s.statusWord = if s.control.haltIn then 0x10#32 else 0#32 := by
  simp only [Control.causeLatched, Bool.or_eq_false_iff] at causes flags
  simp only [State.statusWord, rings, notices, core, causes, flags]
  cases s.control.haltIn <;> rfl

/-! ### Power-on and RESET_N -/

theorem fullReset_statusWord {s : State} (reset : s.control.resetAsserted = true) :
    (fullReset s).statusWord = if s.control.haltIn then 0x10#32 else 0#32 := by
  refine statusWord_quiet (controlReset_quiet s).1 (fun k => ((controlReset_quiet s).2 k).1) rfl ?_ rfl
  show (false || (s.control.haltIn && !s.control.resetAsserted)) = false
  rw [reset]
  simp

/-- A power-on is a core reset with the time and the setup address at 0, whatever the level of RESET_N. -/
theorem powerOn_of_coreReset {s v : State}
    (h : exec .coreReset { s with control := { s.control with resetAsserted := false } } = .next v) :
    fullReset s = { v with time := TimeUnit.reset
                           control := { v.control with setupAddress := 0, pin := (fullReset s).control.pin
                                                       resetAsserted := s.control.resetAsserted } } := by
  have hv : controlReset { s with control := { s.control with resetAsserted := false } } = v := Host.Outcome.next.inj h
  rw [← hv]
  rfl

/-- Settles O43, block by block. -/
theorem resetValues : Obligations.ResetValues := by
  refine ⟨fun s live => ?_, ⟨fun s => ?_, fun s reset => ?_⟩, reset_slot, rfl, reset_line, rfl, rfl, reset_captureLine, rfl,
    reset_notice, rfl, reset_ring, rfl, rfl, rfl, rfl⟩
  · refine ⟨controlReset s, ?_, ?_, rfl, rfl, rfl, rfl, rfl, rfl, rfl, rfl, rfl, controlReset_ring s,
      controlReset_notice s, rfl, controlReset_intr s, controlReset_intBits s⟩
    · show execCoreReset s = _
      rw [execCoreReset, hostWrite, live, if_neg Bool.false_ne_true]
    · show s.control.coreReset = _
      rw [Control.coreReset, live, Bool.not_false, Bool.and_true]
      rfl
  · have pin : (fullReset { s with control := { s.control with resetAsserted := true } }).control.pin = false :=
      Bool.and_false _
    refine ⟨fullReset s, fullReset { s with control := { s.control with resetAsserted := true } }, rfl, rfl, rfl, rfl,
      rfl, rfl, rfl, rfl, rfl, rfl, rfl, pin, rfl, rfl, rfl, ?_, fun v => powerOn_of_coreReset, fullReset_statusWord rfl⟩
    rw [← pin]
    rfl
  · show execResetNRelease s = _
    rw [execResetNRelease, if_pos reset]

end Sys2Proof.Machine
end

section
/-! The reset of a notice ring, with its command rings and its QUEUE_FAULT (R137, R138, R170). -/

namespace Sys2Proof.Machine

open Sys2Proof

/-! ### Command rings reset by cascade -/

/-- A command ring after the reset of notice ring `k`: at its reset values where it is bound to it (R137 step 6). -/
def CommandRing.cascaded (k : NoticeRingId) (x : CommandRing) : CommandRing :=
  if x.bound? = some k then x.fresh x.config else x

theorem fresh_not_eligible (x : CommandRing) (c : Option CommandConfig) : (x.fresh c).eligible = false := by
  cases c <;> simp [CommandRing.eligible, CommandRing.pendingCount, CommandRing.fresh, CommandRing.reset]

theorem cascaded_cascaded (k : NoticeRingId) (x : CommandRing) : (x.cascaded k).cascaded k = x.cascaded k := by
  unfold CommandRing.cascaded
  by_cases h : x.bound? = some k
  · have bound : (x.fresh x.config).bound? = some k := h
    rw [if_pos h, if_pos bound]
    simp [CommandRing.fresh, Function.comp_def]
  · rw [if_neg h, if_neg h]

/-- `t` is `s` with the command rings of `l` reset by cascade from notice ring `k`; a turn that is marked over is that
of a ring so reset. -/
structure Cascaded (k : NoticeRingId) (l : List CommandRingId) (s t : State) : Prop where
  blocks : t = { s with intake := { s.intake with rings := t.intake.rings, turnOver := t.intake.turnOver } }
  rings : ∀ r : CommandRingId, t.intake.rings[r] = if r ∈ l then s.intake.rings[r].cascaded k else s.intake.rings[r]
  ended : t.intake.turnOver = s.intake.turnOver ∨
    t.intake.turnOver = true ∧ ∃ r : CommandRingId, r = s.intake.turn ∧ t.intake.rings[r].eligible = false

theorem cascadeReset_bound {k : NoticeRingId} {r : CommandRingId} {s : State} (quiet : s.notices[k].requests = [])
    (bound : s.intake.rings[r].bound? = some k) :
    cascadeReset k s r =
      if r = s.intake.turn then endTurn (setRing r (s.intake.rings[r].cascaded k) s)
      else setRing r (s.intake.rings[r].cascaded k) s := by
  have requests : { s.notices[k] with requests := s.notices[k].requests.filter fun q => q ≠ r } = s.notices[k] := by
    rw [quiet]
    exact NoticeRing.ext rfl rfl rfl rfl rfl rfl rfl rfl rfl rfl quiet.symm rfl rfl rfl
  have same : ∀ x : CommandRing, setNotice k s.notices[k] (setRing r x s) = setRing r x s := fun x =>
    state_eq_of_rings rfl rfl rfl rfl (fun q => rfl) fun j => by
      rw [setNotice_get]
      split
      · rename_i hj
        rw [hj]
        rfl
      · rfl
  rw [cascadeReset, if_pos bound, resetCommandRing, bound]
  simp only [if_true]
  rw [clearRing, requests, same, CommandRing.cascaded, if_pos bound]

theorem cascadeReset_cascaded {k : NoticeRingId} {s : State} (r : CommandRingId) (quiet : s.notices[k].requests = []) :
    Cascaded k [r] s (cascadeReset k s r) := by
  have rings : ∀ (x : CommandRing) (q : CommandRingId), x = s.intake.rings[r].cascaded k →
      (setRing r x s).intake.rings[q] = if q ∈ [r] then s.intake.rings[q].cascaded k else s.intake.rings[q] := by
    rintro x q rfl
    rw [setRing_get]
    by_cases hq : q = r
    · rw [if_pos hq, if_pos (List.mem_singleton.mpr hq), hq]
    · rw [if_neg hq, if_neg (mt List.mem_singleton.mp hq)]
  by_cases bound : s.intake.rings[r].bound? = some k
  · rw [cascadeReset_bound quiet bound]
    by_cases turn : r = s.intake.turn
    · rw [if_pos turn]
      refine ⟨rfl, fun q => rings _ q rfl, .inr ⟨rfl, r, turn, ?_⟩⟩
      rw [endTurn_rings, setRing_get, if_pos rfl, CommandRing.cascaded, if_pos bound]
      exact fresh_not_eligible _ _
    · rw [if_neg turn]
      exact ⟨rfl, fun q => rings _ q rfl, .inl rfl⟩
  · have unbound : s.intake.rings[r].cascaded k = s.intake.rings[r] := if_neg bound
    rw [cascadeReset, if_neg bound]
    refine ⟨rfl, fun q => ?_, .inl rfl⟩
    split
    · rename_i hq
      rw [List.mem_singleton.mp hq, unbound]
    · rfl

theorem Cascaded.trans {k : NoticeRingId} {a b : List CommandRingId} {s t u : State} (h : Cascaded k a s t)
    (g : Cascaded k b t u) : Cascaded k (a ++ b) s u := by
  have turn : t.intake.turn = s.intake.turn := by rw [h.blocks]
  have rings : ∀ r : CommandRingId, u.intake.rings[r] =
      if r ∈ a ++ b then s.intake.rings[r].cascaded k else s.intake.rings[r] := fun r => by
    rw [g.rings, h.rings]
    by_cases ha : r ∈ a <;> by_cases hb : r ∈ b <;> simp only [ha, hb, if_true, if_false, List.mem_append, or_self,
      or_false, or_true, cascaded_cascaded]
  refine ⟨?_, rings, ?_⟩
  · have blocks := g.blocks
    rw [h.blocks] at blocks
    exact blocks
  · obtain same | ⟨marked, r, hr, idle⟩ := g.ended
    · obtain first | ⟨marked, r, hr, idle⟩ := h.ended
      · exact .inl (same.trans first)
      · refine .inr ⟨same.trans marked, r, hr, ?_⟩
        rw [g.rings]
        split
        · rw [CommandRing.cascaded]
          split
          · exact fresh_not_eligible _ _
          · exact idle
        · exact idle
    · exact .inr ⟨marked, r, hr.trans turn, idle⟩

/-- The four command rings, one after the other (R137 step 6). -/
theorem cascade_cascaded {k : NoticeRingId} {s : State} (l : List CommandRingId) (quiet : s.notices[k].requests = []) :
    Cascaded k l s (l.foldl (cascadeReset k) s) := by
  induction l generalizing s with
  | nil => exact ⟨rfl, fun _ => (if_neg List.not_mem_nil).symm, .inl rfl⟩
  | cons r l ih =>
    have first := cascadeReset_cascaded r quiet
    have notices : (cascadeReset k s r).notices = s.notices := by rw [first.blocks]
    exact first.trans (ih (by rw [notices]; exact quiet))

/-- The rings reset by cascade, but for the mark of the turn. -/
def cascadeRings (k : NoticeRingId) (s : State) : State :=
  { s with intake := { s.intake with rings := s.intake.rings.map (CommandRing.cascaded k) } }

/-- The mark of a turn whose ring is not eligible is the arbiter's own (R143). -/
theorem Cascaded.settle {k : NoticeRingId} {s t : State} (h : Cascaded k [0, 1, 2, 3] s t) (op : State → State)
    (intake : ∀ (u : State) (x : Intake), op { u with intake := x } = { op u with intake := x })
    (same : ∀ u, (op u).intake = u.intake) :
    settle (op t) = Machine.settle (op (cascadeRings k s)) := by
  have all : ∀ r : CommandRingId, r ∈ [(0 : CommandRingId), 1, 2, 3] := by decide
  have rings : t.intake.rings = (cascadeRings k s).intake.rings := Vector.ext fun i hi => by
    have := h.rings ⟨i, hi⟩
    rw [if_pos (all _)] at this
    exact this.trans (Vector.getElem_map _ hi).symm
  have marked : t = { cascadeRings k s with
      intake := { (cascadeRings k s).intake with turnOver := t.intake.turnOver } } := by
    conv_lhs => rw [h.blocks, rings]
    rfl
  obtain kept | ⟨mark, r, hr, idle⟩ := h.ended
  · rw [marked, kept]
    rfl
  · have ended : op t = endTurn (op (cascadeRings k s)) := by
      conv_lhs => rw [marked, mark, intake]
      rw [endTurn, same]
    have note : ∀ u : State, u.intake = (cascadeRings k s).intake → noteTurn u = endTurn u := fun u hu => by
      have idle' : u.intake.rings[u.intake.turn].eligible = false := by
        rw [rings] at idle
        subst hr
        simp only [hu]
        exact idle
      rw [noteTurn, idle', if_neg Bool.false_ne_true]
    have noted : noteTurn (endTurn (op (cascadeRings k s))) = endTurn (op (cascadeRings k s)) := by
      rw [noteTurn]
      split <;> rfl
    rw [Machine.settle, Machine.settle, ended, note _ (same _), noted]

end Sys2Proof.Machine
end

section
/-! A notice ring at its reset, and the obligation (R137, R138, R170). -/

namespace Sys2Proof.Machine

open Sys2Proof

/-- The sources of ring `k` discarded, and the ring afresh (R137 steps 3 to 5). -/
def discarded (k : NoticeRingId) (s : State) : State :=
  s.notices[k].deferred.foldl discardSource (setNotice k (s.notices[k].fresh s.notices[k].config) s)

theorem discarded_blocks (k : NoticeRingId) (s : State) :
    discarded k s =
      { setNotice k (s.notices[k].fresh s.notices[k].config) s with
        slots := (discarded k s).slots, capture := (discarded k s).capture } := by
  conv_lhs => rw [discarded, discardSources_blocks]
  have capture : (discarded k s).capture = { s.capture with lines := (discarded k s).capture.lines } := by
    conv_lhs => rw [discarded, discardSources_blocks]
    rfl
  rw [capture]
  rfl

theorem discarded_notice (k : NoticeRingId) (s : State) :
    (discarded k s).notices[k] = s.notices[k].fresh s.notices[k].config := by
  rw [discarded_blocks]
  exact (setNotice_get k k _ s).trans (if_pos rfl)

theorem discarded_suppressed (k : NoticeRingId) (s : State) :
    (discarded k s).capture.suppressed = s.capture.suppressed := by
  rw [discarded, discardSources_blocks]
  rfl

theorem discarded_cascaded (k : NoticeRingId) (s : State) :
    Cascaded k [0, 1, 2, 3] (discarded k s) ([0, 1, 2, 3].foldl (cascadeReset k) (discarded k s)) :=
  cascade_cascaded _ (by rw [discarded_notice]; rfl)

/-- Notice ring `k` put into the state that its reset leaves elsewhere. -/
theorem setNotice_discarded (k : NoticeRingId) (y : NoticeRing) (s : State) :
    setNotice k y (cascadeRings k (discarded k s)) =
      setNotice k y
        { s with
          slots := (discarded k s).slots, capture := (discarded k s).capture
          intake := { s.intake with rings := s.intake.rings.map (CommandRing.cascaded k) } } := by
  have notices : (setNotice k y (cascadeRings k (discarded k s))).notices = s.notices.set k y := by
    show (discarded k s).notices.set k y = _
    rw [discarded_blocks]
    exact Vector.set_set ..
  have intake : (discarded k s).intake = s.intake := by rw [discarded_blocks]; rfl
  ext1
  case notices => exact notices
  case intake => exact congrArg (fun x : Intake => { x with rings := x.rings.map (CommandRing.cascaded k) }) intake
  case slots => rfl
  case capture => rfl
  all_goals
    simp only [setNotice, cascadeRings]
    rw [discarded_blocks]
    rfl

/-- The reset of a ring that offers no QUEUE_FAULT. -/
theorem settle_resetNoticeRing {k : NoticeRingId} {s : State} (sound : ¬(k = 0 ∧ s.notices[k].state = .faulted)) :
    settle (resetNoticeRing k s) =
      settle (setNotice k (s.notices[k].fresh s.notices[k].config) (cascadeRings k (discarded k s))) := by
  have reset : resetNoticeRing k s = [0, 1, 2, 3].foldl (cascadeReset k) (discarded k s) := if_neg sound
  have same : setNotice k (s.notices[k].fresh s.notices[k].config) (cascadeRings k (discarded k s)) =
      cascadeRings k (discarded k s) :=
    state_eq_of_rings rfl rfl rfl rfl (fun _ => rfl) fun j => by
      rw [setNotice_get]
      split
      · rename_i hj
        subst hj
        exact (discarded_notice j s).symm
      · rfl
  rw [reset, same]
  exact (discarded_cascaded k s).settle id (fun _ _ => rfl) fun _ => rfl

/-- NR0 after its reset has offered a QUEUE_FAULT (R137 step 8): posted where the fresh ring takes it. -/
def NoticeRing.faultOffered (n : SystemNotice) (x : NoticeRing) : NoticeRing :=
  if x.takesOffer then x.takePlace (.system n 0) else { x with deferred := [.system n 0] }

/-- The reset of a FAULTED NR0, while RUNNING. -/
theorem settle_resetNoticeRing_faulted {s : State} (running : s.control.core = .running)
    (faulted : s.notices[(0 : NoticeRingId)].state = .faulted) :
    settle (resetNoticeRing 0 s) =
      settle (setNotice 0
        ((s.notices[(0 : NoticeRingId)].fresh s.notices[(0 : NoticeRingId)].config).faultOffered
          { body := .noticeFault 0 s.notices[(0 : NoticeRingId)].lostRecords, tick := s.time.timebase })
        (cascadeRings 0 (discarded 0 s))) := by
  have cascade := discarded_cascaded 0 s
  generalize ht : [0, 1, 2, 3].foldl (cascadeReset 0) (discarded 0 s) = t at cascade
  have reset : resetNoticeRing 0 s = offerSystem (.noticeFault 0 s.notices[(0 : NoticeRingId)].lostRecords) t := by
    rw [← ht]
    exact if_pos ⟨rfl, faulted⟩
  have core : t.control.core = .running := by rw [cascade.blocks, discarded_blocks]; exact running
  have tick : t.time.timebase = s.time.timebase := by rw [cascade.blocks, discarded_blocks]; rfl
  have ring : t.notices[(0 : NoticeRingId)] =
      s.notices[(0 : NoticeRingId)].fresh s.notices[(0 : NoticeRingId)].config := by
    rw [cascade.blocks]
    exact discarded_notice 0 s
  have offered : offerSystem (.noticeFault 0 s.notices[(0 : NoticeRingId)].lostRecords) t =
      setNotice 0
        ((s.notices[(0 : NoticeRingId)].fresh s.notices[(0 : NoticeRingId)].config).faultOffered
          { body := .noticeFault 0 s.notices[(0 : NoticeRingId)].lostRecords, tick := s.time.timebase }) t := by
    rw [NoticeRing.faultOffered, ← ring, ← tick]
    cases takes : t.notices[(0 : NoticeRingId)].takesOffer with
    | true =>
      rw [offerSystem_posted _ core takes, atPosting_cases, if_pos rfl]
    | false =>
      have empty : t.notices[(0 : NoticeRingId)].deferred = [] := by rw [ring]; rfl
      rw [offerSystem_deferred _ core takes, empty, if_neg Bool.false_ne_true]
      rfl
  rw [reset, offered]
  exact cascade.settle (setNotice 0 _) (fun _ _ => rfl) fun _ => rfl

/-- The ring that a reset leaves, in the words of its rules (R137 to R139). -/
theorem fresh_configured {x : NoticeRing} {c : NoticeConfig} (config : x.config = some c) :
    x.fresh x.config =
      { NoticeRing.reset with
        config := some c, state := if c.enabled then .active else .disabled
        stale := if x.stale = none then x.queue.head? else x.stale } := by
  rw [NoticeRing.fresh, NoticeRing.inFlight, config]
  cases x.stale <;> rfl

/-- A fresh ring takes an offer where it is enabled and has a place. -/
theorem fresh_takesOffer {x : NoticeRing} {c : NoticeConfig} (config : x.config = some c) :
    (x.fresh x.config).takesOffer = true ↔ c.enabled = true ∧ 1 ≤ c.size := by
  rw [takesOffer_iff, fresh_configured config]
  have size : ∀ y : NoticeRing, y.config = some c → y.size = c.size := fun y hy => by rw [NoticeRing.size, hy]; rfl
  rw [size _ rfl]
  cases c.enabled
  · refine ⟨fun h => ?_, fun h => absurd h.1 Bool.false_ne_true⟩
    cases h.1
  · exact ⟨fun h => ⟨rfl, h.2.1⟩, fun h => ⟨rfl, h.2, rfl⟩⟩

/-- A command ring reset by cascade, in the words of its rules (R137 step 6, R156). -/
theorem cascaded_eq (k : NoticeRingId) (y : CommandRing) :
    y.cascaded k =
      match y.config with
      | some b =>
        if b.bound = k then
          { CommandRing.reset with
            config := some b, state := if b.enabled then .active else .disabled
            fetch := y.fetch.map fun f => { f with discarded := true } }
        else y
      | none => y := by
  obtain ⟨config, _, _, _, _, _, _, _, _⟩ := y
  cases config with
  | none => rfl
  | some b =>
    by_cases h : b.bound = k
    · exact (if_pos (congrArg some h)).trans (if_pos h).symm
    · exact (if_neg fun hb => h (Option.some.inj hb)).trans (if_neg h).symm

/-- The ring that a reset of notice ring `k` leaves, with the QUEUE_FAULT that it may offer. -/
def NoticeRing.resetLeft (k : NoticeRingId) (n : SystemNotice) (x : NoticeRing) : NoticeRing :=
  if k = 0 ∧ x.state = .faulted then (x.fresh x.config).faultOffered n else x.fresh x.config

/-- NOTICE_RING_RESET while RUNNING, with the arbiter's choice. -/
theorem noticeRingReset_running {s : State} (k : NoticeRingId) (live : s.control.resetAsserted = false)
    (running : s.control.core = .running) :
    execNoticeRingReset k s =
      .next (settle (setNotice k
        (s.notices[k].resetLeft k
          { body := .noticeFault 0 s.notices[(0 : NoticeRingId)].lostRecords, tick := s.time.timebase })
        { s with
          slots := (discarded k s).slots, capture := (discarded k s).capture
          intake := { s.intake with rings := s.intake.rings.map (CommandRing.cascaded k) } })) := by
  rw [execNoticeRingReset, hostWrite, live, if_neg Bool.false_ne_true, whileRunning, if_pos running, ← setNotice_discarded,
    NoticeRing.resetLeft]
  by_cases fault : k = 0 ∧ s.notices[k].state = .faulted
  · obtain ⟨rfl, faulted⟩ := fault
    rw [if_pos ⟨rfl, faulted⟩]
    exact congrArg Host.Outcome.next (settle_resetNoticeRing_faulted running faulted)
  · rw [if_neg fault]
    exact congrArg Host.Outcome.next (settle_resetNoticeRing fault)

/-- The same, in the words of its rules, but for the ring itself. -/
theorem noticeRingReset_arbiterOnly {s : State} {k : NoticeRingId} (live : s.control.resetAsserted = false)
    (running : s.control.core = .running) {y : NoticeRing}
    (left : s.notices[k].resetLeft k
      { body := .noticeFault 0 s.notices[(0 : NoticeRingId)].lostRecords, tick := s.time.timebase } = y) :
    ∃ t, execNoticeRingReset k s = .next t ∧ t.slots = (discarded k s).slots ∧ t.capture = (discarded k s).capture ∧
      ArbiterOnly (setNotice k y
        { s with
          slots := t.slots, capture := t.capture
          intake := { s.intake with rings := s.intake.rings.map (CommandRing.cascaded k) } }) t := by
  have done := noticeRingReset_running k live running
  rw [left] at done
  generalize hw : setNotice k y
    { s with
      slots := (discarded k s).slots, capture := (discarded k s).capture
      intake := { s.intake with rings := s.intake.rings.map (CommandRing.cascaded k) } } = w at done
  have slots : (settle w).slots = (discarded k s).slots := by simp [← hw]
  have capture : (settle w).capture = (discarded k s).capture := by simp [← hw]
  refine ⟨settle w, done, slots, capture, ?_⟩
  rw [slots, capture, hw]
  exact settle_arbiterOnly w

theorem resetLeft_eq {k : NoticeRingId} {x : NoticeRing} {c : NoticeConfig} (n : SystemNotice)
    (config : x.config = some c) :
    x.resetLeft k n =
      if k = 0 ∧ x.state = .faulted then
        if c.enabled = true ∧ 1 ≤ c.size then (x.fresh x.config).takePlace (.system n 0)
        else { x.fresh x.config with deferred := [.system n 0] }
      else x.fresh x.config := by
  rw [NoticeRing.resetLeft, NoticeRing.faultOffered]
  simp only [fresh_takesOffer config]

/-- Settles O49: the ring afresh, its sources discarded, its command rings reset, the QUEUE_FAULT offered. -/
theorem noticeRingResetClearsTheRing : Obligations.NoticeRingResetClearsTheRing := by
  refine ⟨fun k s live => ⟨fun off => ?_, fun c x n running config hx hn => ?_⟩,
    fun s c live running config on room faulted => ?_⟩
  · show execNoticeRingReset k s = _
    rw [execNoticeRingReset, hostWrite, live, if_neg Bool.false_ne_true, whileRunning, if_neg off]
  · obtain ⟨t, done, slots, capture, arbiter⟩ := noticeRingReset_arbiterOnly (k := k) live running rfl
    rw [resetLeft_eq _ config, fresh_configured config, ← hx, ← hn] at arbiter
    refine ⟨t, done, ?_, ?_, fun i => ?_, fun l => ?_, ?_⟩
    · conv_lhs => rw [arbiter.blocks]
      rfl
    · rw [capture, discarded_suppressed]
    · rw [slots]
      exact discardSources_slots _ _ i
    · rw [capture]
      exact discardSources_lines _ _ l
    · rw [funext (cascaded_eq k)] at arbiter
      exact arbiter
  · obtain ⟨t, done, -, -, arbiter⟩ := noticeRingReset_arbiterOnly (k := 0) live running rfl
    rw [resetLeft_eq _ config, if_pos ⟨rfl, faulted⟩, if_pos ⟨on, room⟩, fresh_configured config, if_pos on] at arbiter
    obtain ⟨m, l, -, ring⟩ := arbiter.notices 0
    rw [setNotice_get, if_pos rfl] at ring
    refine ⟨t, done, ?_, ?_, ?_, ?_⟩
    · rw [arbiter.blocks]
      rfl
    all_goals
      rw [ring]
      rfl

end Sys2Proof.Machine
end

section
/-! The queue of commands, which no operation of a happening reads (log entry 1). -/

namespace Sys2Proof.Machine

open Sys2Proof

/-- `s` with the commands `l` waiting. -/
def State.queued (l : List Instr) (s : State) : State := { s with pending := l }

theorem queued_notices (l : List Instr) (s : State) : (s.queued l).notices = s.notices := rfl

/-- `f` does not read the queue, and leaves it as it is. -/
abbrev Blind (f : State → State) : Prop := ∀ (l : List Instr) (s : State), f (s.queued l) = (f s).queued l

theorem Blind.id : Blind fun s => s := fun _ _ => rfl

/-- A choice by what the queue is no part of. -/
theorem ite_queued {c d : Prop} [Decidable c] [Decidable d] {l : List Instr} {a b x y : State} (hc : c ↔ d)
    (hx : a = x.queued l) (hy : b = y.queued l) : (if c then a else b) = (if d then x else y).queued l := by
  by_cases h : d
  · rw [if_pos h, if_pos (hc.mpr h), hx]
  · rw [if_neg h, if_neg (mt hc.mp h), hy]

theorem Blind.foldl {α : Type} {f : State → α → State} (hf : ∀ a, Blind fun s => f s a) (as : List α) :
    Blind fun s => as.foldl f s := fun l s => by
  induction as generalizing s with
  | nil => rfl
  | cons a as ih => exact (congrArg (as.foldl f) (hf a l s)).trans (ih _)

/-! ### Slots, lists and lines -/

theorem setRun_blind (i : SlotId) (r : Run) : Blind (setRun i r) := fun l s => by
  have event : (s.queued l).slots[i].event = s.slots[i].event := rfl
  cases he : s.slots[i].event with
  | none => simp only [setRun, event, he]
  | some e =>
    simp only [setRun, event, he]
    rfl

theorem arm_blind (i : SlotId) (x : Tick) : Blind (arm i x) := fun l s => by
  simp only [arm, ← setRun_blind]
  rfl

theorem pushItem_blind (i : SlotId) (m : Bool) : Blind (pushItem i m) := fun _ _ => rfl

theorem joinWaiting_blind (c : CaptureId) (i : SlotId) : Blind (joinWaiting c i) := fun _ _ => rfl

theorem actOnLine_blind (n : LineId) (a : Action) : Blind (actOnLine n a) :=
  fun _ _ => ite_queued .rfl rfl rfl

/-! ### Offers and free places -/

theorem offerFiring_blind (k : NoticeRingId) (i : SlotId) (p : FiringReport) : Blind (offerFiring k i p) :=
  fun _ _ => ite_queued .rfl rfl rfl

theorem offerEdge_blind (c : CaptureId) (v : Level) (t : Tick) : Blind (offerEdge c v t) :=
  fun _ _ => ite_queued .rfl rfl rfl

theorem offerSystem_blind (b : SystemBody) : Blind (offerSystem b) :=
  fun _ _ => ite_queued .rfl (ite_queued .rfl rfl rfl) rfl

theorem postDeferred_blind (k : NoticeRingId) (d : Deferred) : Blind (postDeferred k d) := by
  cases d with
  | slot i p => exact fun _ _ => rfl
  | line c =>
    intro l s
    have held : (s.queued l).capture.lines[c].held = s.capture.lines[c].held := rfl
    cases h : s.capture.lines[c].held with
    | none => simp only [postDeferred, held, h]
    | some x =>
      simp only [postDeferred, held, h]
      rfl
  | system n k => exact fun _ _ => rfl

theorem serveDeferred_blind (k : NoticeRingId) (n : Nat) : Blind (serveDeferred k n) := by
  induction n with
  | zero => exact fun _ _ => rfl
  | succ n ih =>
    intro l s
    cases h : s.notices[k].deferred with
    | nil => simp only [serveDeferred, queued_notices, h]
    | cons d ds =>
      simp only [serveDeferred, queued_notices, h]
      refine ite_queued .rfl ?_ rfl
      simp only [← ih, ← postDeferred_blind]
      rfl

theorem serveRequests_blind (k : NoticeRingId) (n : Nat) : Blind (serveRequests k n) := by
  induction n with
  | zero => exact fun _ _ => rfl
  | succ n ih =>
    intro l s
    cases h : s.notices[k].requests with
    | nil => simp only [serveRequests, queued_notices, h]
    | cons r rs =>
      simp only [serveRequests, queued_notices, h]
      exact ite_queued .rfl (ih l (grantRequest k r rs s)) rfl

theorem serve_blind (k : NoticeRingId) : Blind (serve k) := fun l s => by
  simp only [serve, queued_notices, serveDeferred_blind, serveRequests_blind]

theorem returnReservations_blind (k : NoticeRingId) (n : Nat) : Blind (returnReservations k n) :=
  fun l s => by
  simp only [returnReservations, ← serve_blind]
  rfl

/-! ### Completions and dormancy -/

theorem useReservation_blind (k : NoticeRingId) (n : Notice) : Blind (useReservation k n) :=
  fun _ _ => ite_queued .rfl rfl rfl

theorem handCompletion_blind (r : CommandRingId) (d : BitVec 16) (n : Nat) (st : Status) (q : Result) :
    Blind (handCompletion r d n st q) := fun l s => by
  have bound : (s.queued l).intake.rings[r].bound? = s.intake.rings[r].bound? := rfl
  cases h : s.intake.rings[r].bound? with
  | none => simp only [handCompletion, bound, h]
  | some k =>
    simp only [handCompletion, bound, h]
    exact useReservation_blind _ _ l s

theorem completeOwed_blind (r : CommandRingId) (o : Owed) (st : Status) (q : Result) : Blind (completeOwed r o st q) :=
  fun l s => ite_queued .rfl (handCompletion_blind _ _ _ _ _ l (setRing r _ s)) rfl

theorem endWait_blind (r : CommandRingId) (w : WaitInFlight) (st : Status) : Blind (endWait r w st) := fun l s => by
  simp only [endWait, ← completeOwed_blind]
  rfl

theorem endWaitOn_blind (i : SlotId) (r : CommandRingId) : Blind fun s => endWaitOn i s r := fun l s => by
  have wait : (s.queued l).intake.rings[r].wait = s.intake.rings[r].wait := rfl
  cases h : s.intake.rings[r].wait with
  | none => simp only [endWaitOn, wait, h]
  | some w =>
    simp only [endWaitOn, wait, h]
    exact ite_queued .rfl (endWait_blind _ _ _ _ _) rfl

theorem enterDormant_blind (i : SlotId) : Blind (enterDormant i) := fun l s => by
  simp only [enterDormant, setRun_blind]
  exact Blind.foldl (endWaitOn_blind i) [0, 1, 2, 3] l _

/-! ### The arbiter -/

theorem choice_queued (l : List Instr) (s : State) :
    choice (s.queued l) = (choice s).map fun p => (p.1, p.2.queued l) := by
  unfold choice
  have goes : turnGoesOn (s.queued l) = turnGoesOn s := rfl
  have next : nextEligible (s.queued l) = nextEligible s := rfl
  rw [goes, next]
  cases turnGoesOn s with
  | true => rfl
  | false => cases nextEligible s <;> rfl

theorem arbitrate_blind (n : Nat) : Blind (arbitrate n) := by
  induction n with
  | zero => exact fun _ _ => rfl
  | succ n ih =>
    intro l s
    refine ite_queued .rfl rfl ?_
    rw [choice_queued]
    cases h : choice s with
    | none => rfl
    | some p =>
      obtain ⟨r, t⟩ := p
      refine ite_queued .rfl rfl ?_
      have bound : (t.queued l).intake.rings[r].bound? = t.intake.rings[r].bound? := rfl
      dsimp only
      rw [bound]
      cases t.intake.rings[r].bound? with
      | none => rfl
      | some k => exact ite_queued .rfl rfl (ih l (stallOnRequest k r t))

theorem noteTurn_blind : Blind noteTurn := fun _ _ => ite_queued .rfl rfl rfl

theorem settle_blind : Blind settle := fun l s => by simp only [settle, noteTurn_blind, arbitrate_blind]

/-! ### The resolver -/

theorem endPass_blind (p : Pass) (st : Status) : Blind (endPass p st) := fun l s => by
  simp only [endPass, ← completeOwed_blind]
  rfl

theorem notePass_blind (p : Pass) : Blind (notePass p) := fun l s => ite_queued .rfl (endPass_blind p .ok l s) rfl

theorem countPass_blind (m : Bool) (f : Pass → Pass) : Blind (countPass m f) := fun l s => by
  have pass : (s.queued l).resolver.pass = s.resolver.pass := rfl
  unfold countPass
  rw [pass]
  cases s.resolver.pass with
  | none => rfl
  | some p => exact ite_queued .rfl (notePass_blind (f p) l s) rfl

theorem dropItem_blind (i : SlotId) : Blind (dropItem i) := fun l s => by
  have resolver : (s.queued l).resolver = s.resolver := rfl
  unfold dropItem
  rw [resolver]
  cases s.resolver.queue.find? fun x => x.slot = i with
  | some x =>
    simp only [← countPass_blind]
    rfl
  | none =>
    cases s.resolver.work with
    | none => rfl
    | some w =>
      refine ite_queued .rfl ?_ rfl
      simp only [← countPass_blind]
      rfl

theorem supersede_blind : Blind supersede := fun l s => by
  have pass : (s.queued l).resolver.pass = s.resolver.pass := rfl
  unfold supersede
  rw [pass]
  cases s.resolver.pass with
  | none => rfl
  | some p => exact endPass_blind p .superseded l s

theorem rePlace_blind : Blind rePlace := fun l s =>
  Blind.foldl (f := fun t i => pushItem i true t) (fun i => pushItem_blind i true) (calendarResolving (takeBack s)) l
    (takeBack s)

theorem workMatched_blind (x : Item) (t : Tick) : Blind (workMatched x t) := fun l s => by
  simp only [workMatched, arm_blind, countPass_blind]

theorem workUnmatched_blind (x : Item) (k : NoticeRingId) : Blind (workUnmatched x k) := fun l s => by
  have drop : Blind dropStarted := fun _ _ => rfl
  have tick : (s.queued l).time = s.time := rfl
  simp only [workUnmatched, tick, enterDormant_blind, drop l, offerFiring_blind, countPass_blind, settle_blind]

theorem endWork_blind (x : Item) : Blind (endWork x) := fun l s => by
  have slots : (s.queued l).slots = s.slots := rfl
  unfold endWork
  rw [slots]
  cases s.slots[x.slot].event with
  | none => rfl
  | some e =>
    dsimp only
    cases e.defn.timing with
    | tick m y n => rfl
    | calendar p =>
      dsimp only
      cases x.expiry p with
      | none => exact workUnmatched_blind x e.defn.ring l s
      | some t => exact workMatched_blind x t l s

/-! ### Slots started and stopped -/

theorem startSlot_blind (i : SlotId) (e : Event) (o : Tick) : Blind (startSlot i e o) := fun l s => by
  cases ht : e.defn.timing with
  | calendar p =>
    rw [startSlot_calendar ht, startSlot_calendar ht, ← pushItem_blind, ← setRun_blind]
    rfl
  | tick m x n =>
    cases m with
    | absolute =>
      rw [startSlot_absolute ht, startSlot_absolute ht, ← arm_blind]
      rfl
    | relative =>
      rw [startSlot_relative ht, startSlot_relative ht, ← arm_blind]
      rfl
    | trigger c m =>
      rw [startSlot_trigger ht, startSlot_trigger ht, ← joinWaiting_blind, ← setRun_blind]
      rfl

theorem leaveCollections_blind (i : SlotId) (e : Event) : Blind (leaveCollections i e) := fun l s => by
  cases hr : e.run with
  | dormant => rw [leaveCollections_dormant hr, leaveCollections_dormant hr]
  | waiting =>
    cases hc : e.defn.triggerLine with
    | none => simp only [leaveCollections, hr, hc]
    | some c =>
      rw [leaveCollections_waiting hr hc, leaveCollections_waiting hr hc]
      rfl
  | resolving =>
    rw [leaveCollections_resolving hr, leaveCollections_resolving hr, dropItem_blind]
    rfl
  | armed x q =>
    cases hc : e.defn.retriggerLine with
    | none =>
      rw [leaveCollections_armed hr hc, leaveCollections_armed hr hc]
      exact ite_queued .rfl rfl rfl
    | some c =>
      rw [leaveCollections_retrigger hr hc, leaveCollections_retrigger hr hc]
      rfl

theorem stopSlot_blind (i : SlotId) (e : Event) : Blind (stopSlot i e) := fun l s => by
  simp only [stopSlot, leaveCollections_blind, enterDormant_blind]

theorem armByEdge_blind (i : SlotId) (e : Event) (x t : Tick) : Blind (armByEdge i e x t) := fun l s => by
  simp only [armByEdge, ← arm_blind]
  rfl

end Sys2Proof.Machine
end

section
/-! The queue of commands, which no command reads (log entry 1). -/

namespace Sys2Proof.Machine

open Sys2Proof

/-- A state that an operation leaves, with the commands `l` waiting, and what the operation answers. -/
def answerQueued {α : Type} (l : List Instr) (r : State × α) : State × α := (r.1.queued l, r.2)

/-- `f` does not read the queue, and leaves it as it is. -/
abbrev BlindAnswer {α : Type} (f : State → State × α) : Prop :=
  ∀ (l : List Instr) (s : State), f (s.queued l) = answerQueued l (f s)

theorem ite_answerQueued {α : Type} {c d : Prop} [Decidable c] [Decidable d] {l : List Instr} {a b x y : State × α}
    (hc : c ↔ d) (hx : a = answerQueued l x) (hy : b = answerQueued l y) :
    (if c then a else b) = answerQueued l (if d then x else y) := by
  by_cases h : d
  · rw [if_pos h, if_pos (hc.mpr h), hx]
  · rw [if_neg h, if_neg (mt hc.mp h), hy]

/-! ### The actions of a firing -/

theorem startAction_blind (i : SlotId) (o : Tick) : BlindAnswer (startAction i o) := fun l s => by
  have slots : (s.queued l).slots = s.slots := rfl
  unfold startAction
  rw [slots]
  cases s.slots[i].event with
  | none => rfl
  | some e => exact ite_answerQueued .rfl rfl (Prod.ext (startSlot_blind i e o l s) rfl)

theorem stopAction_blind (i : SlotId) : BlindAnswer (stopAction i) := fun l s => by
  have slots : (s.queued l).slots = s.slots := rfl
  unfold stopAction
  rw [slots]
  cases s.slots[i].event with
  | none => rfl
  | some e =>
    dsimp only
    rw [stopSlot_blind]
    by_cases dormant : e.run = .dormant
    · simp only [if_pos dormant, answerQueued]
    · simp only [if_neg dormant, answerQueued]

theorem applyAction_blind (o : Tick) (a : Action) : BlindAnswer (applyAction o a) := fun l s => by
  cases a with
  | drive n v => exact Prod.ext (actOnLine_blind n _ l s) rfl
  | toggle n => exact Prod.ext (actOnLine_blind n _ l s) rfl
  | pulse n v w => exact Prod.ext (actOnLine_blind n _ l s) rfl
  | density n d => exact Prod.ext (actOnLine_blind n _ l s) rfl
  | start i => exact startAction_blind i o l s
  | stop i => exact stopAction_blind i l s
  | mark => rfl

theorem applyActions_blind (o : Tick) (as : List Action) : BlindAnswer (applyActions o as) := by
  induction as with
  | nil => exact fun _ _ => rfl
  | cons a as ih =>
    intro l s
    simp only [applyActions, applyAction_blind o a l s, answerQueued, ih l]

/-! ### Firings -/

theorem conclude_blind (i : SlotId) (d : Definition) (c : Continuation) : Blind (conclude i d c) := fun l s => by
  cases hl : c.last with
  | false =>
    cases hn : c.next with
    | none =>
      rw [conclude_resolving hl hn, conclude_resolving hl hn, setRun_blind]
      rfl
    | some x => rw [conclude_armed hl hn, conclude_armed hl hn, arm_blind]
  | true =>
    cases hc : d.retriggerLine with
    | none =>
      have dropped : (if d.isCalendar then dropStarted (s.queued l) else s.queued l) =
          (if d.isCalendar then dropStarted s else s).queued l := ite_queued .rfl rfl rfl
      rw [conclude_dormant hl hc, conclude_dormant hl hc, dropped, enterDormant_blind]
    | some n =>
      rw [conclude_waiting hl hc, conclude_waiting hl hc, setRun_blind]
      rfl

theorem fireState_blind (x : Entry) (v : Event) : Blind (fireState x v) := fun l s => by
  simp only [fireState, ← conclude_blind]
  rfl

theorem fire_blind (x : Entry) (v : Event) : Blind (fire x v) := fun l s => by
  have acted := applyActions_blind x.expiry v.defn.actions l (fireState x v s)
  rw [← fireState_blind] at acted
  refine ite_queued .rfl ?_ (congrArg Prod.fst acted)
  rw [acted]
  exact offerFiring_blind _ _ _ _ _

theorem passOver_blind (x : Entry) (v : Event) : Blind (passOver x v) := fun l s => by
  have concluded := conclude_blind x.slot v.defn (v.continuationAt x s.time.timebase) l
    (setEvent x.slot (v.passedOver (v.continuationAt x s.time.timebase)) s)
  refine ite_queued .rfl ?_ concluded
  exact (congrArg (offerFiring _ _ _) concluded).trans (offerFiring_blind _ _ _ _ _)

theorem discardEntry_blind (x : Entry) : Blind fun s => discardEntry s x := fun l s => by
  have slots : (s.queued l).slots = s.slots := rfl
  dsimp only
  unfold discardEntry
  rw [slots]
  cases s.slots[x.slot].event with
  | none => rfl
  | some v => exact passOver_blind x v l (removeEntry x.slot s)

theorem resumeTimeline_blind (m : ResumeMode) : Blind (resumeTimeline m) := by
  cases m with
  | catchup => exact fun _ _ => rfl
  | discard =>
    exact fun l s =>
      Blind.foldl discardEntry_blind (s.timeline.entries.filter fun x => s.time.reached x.expiry) l s

/-! ### Samples -/

theorem triggerSlot_blind (c : CaptureId) (t : Tick) (i : SlotId) : Blind fun s => triggerSlot c t s i := fun l s => by
  have slots : (s.queued l).slots = s.slots := rfl
  dsimp only
  unfold triggerSlot
  rw [slots]
  cases s.slots[i].event with
  | none => rfl
  | some e =>
    dsimp only
    split
    · rw [armByEdge_blind]
      rfl
    · exact armByEdge_blind _ _ _ _ l s
    · exact armByEdge_blind _ _ _ _ l (removeEntry i s)
    · rfl

theorem trigger_blind (c : CaptureId) (t : Tick) : Blind (trigger c t) := fun l s =>
  ite_queued .rfl rfl (Blind.foldl (triggerSlot_blind c t) s.capture.lines[c].waiting l s)

theorem reportEdge_blind (c : CaptureId) (v : Level) (t : Tick) : Blind (reportEdge c v t) := fun l s =>
  ite_queued .rfl (ite_queued .rfl rfl (offerEdge_blind c v t l s)) rfl

theorem acceptEdge_blind (c : CaptureId) (v : Level) (t : Tick) : Blind (acceptEdge c v t) := fun l s => by
  simp only [acceptEdge, ← trigger_blind, ← reportEdge_blind]
  rfl

theorem takeSample_blind (c : CaptureId) (p : Sampling) (v : Level) : Blind (takeSample c p v) := fun l s => by
  have capture : (s.queued l).capture = s.capture := rfl
  have time : (s.queued l).time = s.time := rfl
  unfold takeSample
  dsimp only
  rw [capture, time]
  cases (p.afterSample s.capture.lines[c].interval s.capture.lines[c].qualify
    (p.sampleTick s.capture.lines[c].interval s.time.timebase) v).2 with
  | none => rfl
  | some t => exact ite_queued .rfl (acceptEdge_blind c v t l (setCapture c _ s)) rfl

/-! ### Time -/

theorem applyTrim_blind (n : Nat) : Blind (applyTrim n) := fun l s => by
  have time : (s.queued l).time = s.time := rfl
  unfold applyTrim
  rw [time]
  cases s.time.pendingTrim with
  | none => rfl
  | some p =>
    simp only [← completeOwed_blind]
    rfl

theorem stepTime_blind (d : BitVec 64) : Blind (stepTime d) := fun l s =>
  ite_queued .rfl
    (by
      simp only [← applyTrim_blind]
      rfl)
    rfl

/-! ### The commands of a record -/

theorem checked_blind {h : Header} {f : State → Event → State × Answer} (hf : ∀ e, BlindAnswer fun s => f s e) :
    BlindAnswer fun s => checked h s (f s) := fun l s => by
  have slots : (s.queued l).slots = s.slots := rfl
  dsimp only
  unfold checked
  rw [slots]
  cases s.slots[h.slot].event with
  | none => rfl
  | some e => exact ite_answerQueued .rfl (hf e l s) rfl

theorem answerSlot_blind {g : State → State} (hg : Blind g) (i : SlotId) (st : Status) :
    BlindAnswer fun s => answerSlot i st (g s) := fun l s => by
  simp only [answerSlot, hg l s]
  rfl

theorem takeLoad_blind (h : Header) (d : LoadFields) : BlindAnswer (takeLoad h d) := fun l s => by
  refine ite_answerQueued .rfl rfl ?_
  cases definitionOf d <;> rfl

theorem takeStart_blind (h : Header) : BlindAnswer (takeStart h) :=
  checked_blind fun e l s => ite_answerQueued .rfl rfl (ite_answerQueued .rfl rfl
    (answerSlot_blind (startSlot_blind h.slot e s.time.timebase) h.slot .ok l s))

theorem takeStop_blind (h : Header) : BlindAnswer (takeStop h) :=
  checked_blind fun e l s => ite_answerQueued .rfl rfl (answerSlot_blind (stopSlot_blind h.slot e) h.slot .ok l s)

theorem retimeSlot_blind (i : SlotId) (e : Event) (f : RetimeFields) : BlindAnswer (retimeSlot i e f) := fun l s => by
  unfold retimeSlot
  dsimp only
  split
  · have left : removeEntry i (setEvent i { e with defn := e.defn.retime f } (s.queued l)) =
        (removeEntry i (setEvent i { e with defn := e.defn.retime f } s)).queued l := rfl
    rw [left, arm_blind]
    rfl
  all_goals rfl

theorem takeRetime_blind (h : Header) (f : RetimeFields) : BlindAnswer (takeRetime h f) :=
  checked_blind fun e l s => by
    dsimp only
    cases e.defn.timing with
    | calendar p => rfl
    | tick m x n => exact ite_answerQueued .rfl (retimeSlot_blind h.slot e f l s) rfl

theorem takeUnload_blind (h : Header) : BlindAnswer (takeUnload h) :=
  checked_blind fun _ _ _ => ite_answerQueued .rfl rfl (ite_answerQueued .rfl rfl rfl)

theorem takeWait_blind (c : CommandRef) (h : Header) (n : BitVec 64) : BlindAnswer (takeWait c h n) :=
  checked_blind fun _ _ _ => ite_answerQueued .rfl rfl (ite_answerQueued .rfl rfl rfl)

theorem takeTrimRate_blind (c : CommandRef) (v : BitVec 32) : BlindAnswer (takeTrimRate c v) := fun l s => by
  unfold takeTrimRate
  cases trimOf v with
  | none => rfl
  | some x => exact ite_answerQueued .rfl rfl rfl

theorem takeSetCalendar_blind (c : CommandRef) (f : CalendarFields) : BlindAnswer (takeSetCalendar c f) := fun l s => by
  unfold takeSetCalendar
  cases calendarSecondOf f with
  | none => rfl
  | some x =>
    have placed : rePlace (setAnchor x (supersede (s.queued l))) = (rePlace (setAnchor x (supersede s))).queued l := by
      rw [supersede_blind, ← rePlace_blind]
      rfl
    dsimp only
    rw [placed]
    exact ite_answerQueued .rfl rfl rfl

theorem takeLineForce_blind (w : ActionWord) : BlindAnswer (takeLineForce w) := fun l s => by
  unfold takeLineForce
  cases forceOf w with
  | none => rfl
  | some p =>
    exact ite_answerQueued .rfl rfl (ite_answerQueued .rfl (Prod.ext (actOnLine_blind p.1 p.2 l s) rfl) rfl)

theorem takeCommand_blind (c : CommandRef) (h : Header) (m : Command) : BlindAnswer (takeCommand c h m) := fun l s => by
  cases m with
  | load d => exact takeLoad_blind h d l s
  | start => exact takeStart_blind h l s
  | stop => exact takeStop_blind h l s
  | retime f => exact takeRetime_blind h f l s
  | unload => exact takeUnload_blind h l s
  | query => exact checked_blind (f := fun s _ => answerSlot h.slot .ok s) (fun _ _ _ => rfl) l s
  | wait n => exact takeWait_blind c h n l s
  | nop => rfl
  | readTime => rfl
  | trimRate v => exact takeTrimRate_blind c v l s
  | stepTimebase d => exact ite_answerQueued .rfl (Prod.ext (stepTime_blind d l s) rfl) rfl
  | setCalendar f => exact takeSetCalendar_blind c f l s
  | lineSetup f =>
    show takeLineSetup f (s.queued l) = answerQueued l (takeLineSetup f s)
    unfold takeLineSetup
    cases lineSetupOf f <;> rfl
  | lineForce w => exact takeLineForce_blind w l s
  | captureSetup f v =>
    show takeCaptureSetup f v (s.queued l) = answerQueued l (takeCaptureSetup f v s)
    unfold takeCaptureSetup
    cases captureSetupOf f <;> rfl

/-! ### The end of a fetch -/

theorem answerCommand_blind (c : CommandRef) (a : Answer) : Blind (answerCommand c a) := by
  cases a with
  | complete st q => exact handCompletion_blind _ _ _ _ _
  | owe k => exact fun _ _ => rfl

theorem advanceTake_blind (r : CommandRingId) : Blind (advanceTake r) := fun _ _ => ite_queued .rfl rfl rfl

theorem takeFetched_blind (h : Header) (m : Option Command) (r : CommandRingId) : Blind (takeFetched h m r) := fun l s => by
  have intake : (s.queued l).intake = s.intake := rfl
  unfold takeFetched
  dsimp only
  rw [intake, advanceTake_blind]
  cases m with
  | none => exact answerCommand_blind _ _ l (advanceTake r s)
  | some m =>
    dsimp only
    rw [takeCommand_blind]
    exact answerCommand_blind _ _ l _

theorem offerSystem_setFault_blind (b : SystemBody) : Blind fun s => offerSystem b (setFault s) := fun l s =>
  offerSystem_blind b l (setFault s)

theorem faultFetch_blind (r : CommandRingId) : Blind (faultFetch r) := fun l s => by
  have intake : (s.queued l).intake = s.intake := rfl
  have faulted (x : CommandRing) : setRing r x (s.queued l) = (setRing r x s).queued l := rfl
  unfold faultFetch
  dsimp only
  rw [intake, faulted]
  cases s.intake.rings[r].bound? with
  | none => exact offerSystem_setFault_blind (.commandFault r) l _
  | some k =>
    dsimp only
    rw [returnReservations_blind]
    exact offerSystem_setFault_blind (.commandFault r) l _

theorem stallIfFaulted_blind (r : CommandRingId) : Blind (stallIfFaulted r) := fun _ _ => ite_queued .rfl rfl rfl

theorem endFetch_blind {f : CommandRingId → State → State} (hf : ∀ r, Blind (f r)) : Blind (endFetch f) := fun l s => by
  have path : (s.queued l).fetchingRing = s.fetchingRing := rfl
  unfold endFetch
  rw [path]
  cases s.fetchingRing with
  | none => rfl
  | some r =>
    have ended : (if (s.queued l).intake.rings[r].fetch.elim false Fetch.discarded then dropFetch r (s.queued l)
        else f r (s.queued l)) =
          (if s.intake.rings[r].fetch.elim false Fetch.discarded then dropFetch r s else f r s).queued l :=
      ite_queued .rfl rfl (hf r l s)
    dsimp only
    rw [ended, stallIfFaulted_blind, settle_blind]

theorem commandFetched_blind (h : Header) (m : Command) : Blind (commandFetched h m) :=
  endFetch_blind (takeFetched_blind h (some m))

end Sys2Proof.Machine
end

section
/-! Every command answers a next state, and reads no queue (log entry 1). -/

namespace Sys2Proof.Machine

open Sys2Proof

/-! ### Resets of rings -/

theorem clearRing_blind (k : NoticeRingId) (r : CommandRingId) : Blind (clearRing k r) := fun _ _ =>
  ite_queued .rfl rfl rfl

theorem resetCommandRing_blind (b : Bool) (r : CommandRingId) : Blind (resetCommandRing b r) := fun l s => by
  have intake : (s.queued l).intake = s.intake := rfl
  unfold resetCommandRing
  rw [intake]
  cases s.intake.rings[r].bound? with
  | none => rfl
  | some k =>
    refine ite_queued .rfl (clearRing_blind k r l s) ?_
    rw [clearRing_blind, returnReservations_blind]

theorem cascadeReset_blind (k : NoticeRingId) (r : CommandRingId) : Blind fun s => cascadeReset k s r := fun l s =>
  ite_queued .rfl (resetCommandRing_blind true r l s) rfl

theorem discardSource_blind (d : Deferred) : Blind fun s => discardSource s d := by
  cases d <;> exact fun _ _ => rfl

theorem resetNoticeRing_blind (k : NoticeRingId) : Blind (resetNoticeRing k) := fun l s => by
  have gone := Blind.foldl discardSource_blind s.notices[k].deferred l
    (setNotice k (s.notices[k].fresh s.notices[k].config) s)
  have cascade := (congrArg ([0, 1, 2, 3].foldl (cascadeReset k)) gone).trans
    (Blind.foldl (cascadeReset_blind k) [0, 1, 2, 3] l _)
  exact ite_queued .rfl ((congrArg (offerSystem _) cascade).trans (offerSystem_blind _ l _)) cascade

/-! ### Writes -/

theorem hostWrite_blind {f : State → State} (hf : Blind f) : Blind (hostWrite f) := fun l s =>
  ite_queued .rfl rfl (hf l s)

theorem whileRunning_blind {f : State → State} (hf : Blind f) : Blind (whileRunning f) := fun l s =>
  ite_queued .rfl (hf l s) rfl

theorem whenBit_blind {f : State → State} (hf : Blind f) (v : BitVec 32) (i : Nat) : Blind (whenBit v i f) := fun l s =>
  ite_queued .rfl (hf l s) rfl

theorem rejectIndex_blind (o : Nat) : Blind (rejectIndex o) := fun l s => by
  simp only [rejectIndex, ← offerSystem_blind]
  rfl

theorem writePost_blind (r : CommandRingId) (v : BitVec 32) : Blind (writePost r v) := fun l s =>
  ite_queued .rfl (settle_blind l (setRing r _ s)) (rejectIndex_blind _ l s)

theorem evalReady_blind (k : NoticeRingId) : Blind (evalReady k) := fun _ _ => rfl

theorem writeRelease_blind (k : NoticeRingId) (v : BitVec 32) : Blind (writeRelease k v) := fun l s => by
  have served := serve_blind k l (setNotice k (s.notices[k].release v.toNat) s)
  have ready := (congrArg (evalReady k) served).trans (evalReady_blind k l _)
  have settled := (congrArg settle ready).trans (settle_blind l _)
  exact ite_queued .rfl (ite_queued .rfl settled rfl) (rejectIndex_blind _ l s)

theorem endWriteInMemory_blind (q : Queued) (e : WriteEnd) : Blind (endWriteInMemory q e) := fun l s => by
  cases e <;> simp only [endWriteInMemory, State.queued]

theorem faultNotices_blind (k : NoticeRingId) : Blind (faultNotices k) := fun l s => by
  unfold faultNotices
  dsimp only
  rw [← settle_blind]
  exact congrArg settle (ite_queued .rfl (offerSystem_blind _ l (setFault (faultBound k (setNotice k _ s)))) rfl)

theorem endHeadWrite_blind (k : NoticeRingId) (q : Queued) (e : WriteEnd) : Blind (endHeadWrite k q e) := by
  cases e with
  | good => exact fun _ _ => rfl
  | busError => exact faultNotices_blind k

/-! ### Halt and resume -/

theorem enterHalted_blind : Blind enterHalted := fun l s => by
  simp only [enterHalted, ← offerSystem_blind]
  rfl

theorem latch_blind (f : Control → Control) : Blind (latch f) := fun l s =>
  ite_queued .rfl (enterHalted_blind l { s with control := f s.control }) rfl

theorem controlHalt_blind : Blind controlHalt := latch_blind _

theorem leaveHalted_blind (m : ResumeMode) : Blind (leaveHalted m) := fun l s => by
  have resumed := (congrArg (resumeTimeline m) (offerSystem_blind (.resumed m) l (clearCauses s))).trans
    (resumeTimeline_blind m l _)
  exact congrArg (fun t : State => { t with capture := { t.capture with suppressed := false } }) resumed

theorem controlResume_blind (m : ResumeMode) : Blind (controlResume m) := fun l s =>
  ite_queued .rfl rfl (ite_queued .rfl (leaveHalted_blind m l s) rfl)

theorem resumeAlone_blind (m : ResumeMode) : Blind (resumeAlone m) := fun l s => by
  refine ite_queued .rfl ?_ (controlResume_blind m l s)
  rw [controlResume_blind, settle_blind]

theorem controlStart_blind : Blind controlStart := fun _ _ => ite_queued .rfl rfl rfl

theorem loadSetup_blind (c : SetupConfig) : Blind (loadSetup c) := fun l s => by
  unfold loadSetup
  rw [← settle_blind]
  exact congrArg settle (ite_queued .rfl (enterHalted_blind l (configure c s)) rfl)

/-! ### The register window -/

theorem writeControl_blind (v : BitVec 32) : Blind (writeControl v) := fun l s => by
  have halted : whenBit v 1 controlHalt (whenBit v 0 controlStart (s.queued l)) =
      (whenBit v 1 controlHalt (whenBit v 0 controlStart s)).queued l := by
    rw [whenBit_blind controlStart_blind, whenBit_blind controlHalt_blind]
  have reset : Blind controlReset := fun _ _ => rfl
  have clear : Blind controlClear := fun _ _ => rfl
  unfold writeControl
  dsimp only
  rw [halted, whenBit_blind (controlResume_blind _), whenBit_blind reset, whenBit_blind clear]
  exact ite_queued .rfl (settle_blind l _) rfl

theorem resetRings_blind (v : BitVec 32) : Blind (resetRings v) := fun l s => by
  unfold resetRings
  simp only [whenBit_blind (resetNoticeRing_blind _), whenBit_blind (resetCommandRing_blind false _), settle_blind]

theorem writeRegister_blind (o : Nat) (v : BitVec 32) : Blind (writeRegister o v) := fun l s => by
  unfold writeRegister
  split
  · exact writeControl_blind v l s
  · exact ite_queued .rfl rfl rfl
  · rfl
  · exact ite_queued .rfl rfl (whileRunning_blind (resetRings_blind v) l s)
  · rfl
  · rfl
  · exact writePost_blind 0 v l s
  · exact writePost_blind 1 v l s
  · exact writePost_blind 2 v l s
  · exact writePost_blind 3 v l s
  · exact writeRelease_blind 0 v l s
  · exact writeRelease_blind 1 v l s
  · rfl

end Sys2Proof.Machine
end

section
/-! Every command answers a next state, whatever waits behind it (log entry 1). -/

namespace Sys2Proof.Machine

open Sys2Proof

/-- `c` answers a next state, and reads no queue. -/
def Answers (c : Instr) : Prop := ∃ f, Blind f ∧ ∀ s, exec c s = .next (f s)

theorem Answers.of_record {c : Instr} {h : Header} {m : Command}
    (e : ∀ s, exec c s = .next (commandFetched h m s)) : Answers c :=
  ⟨_, commandFetched_blind h m, e⟩

theorem Answers.of_write {c : Instr} {f : State → State} (hf : Blind f)
    (e : ∀ s, exec c s = .next (hostWrite f s)) : Answers c :=
  ⟨_, hostWrite_blind hf, e⟩

theorem Answers.of_reset {c : Instr} {f : State → State} (hf : Blind f)
    (e : ∀ s, exec c s = .next (hostWrite (whileRunning fun u => settle (f u)) s)) : Answers c :=
  .of_write (whileRunning_blind fun l s => by rw [hf l s, settle_blind]) e

/-! ### The happenings of the machine -/

theorem firing_answers : Answers .firing := by
  refine ⟨_, fun l s => ?_, fun _ => rfl⟩
  have due : dueHead (s.queued l) = dueHead s := rfl
  have slots : (s.queued l).slots = s.slots := rfl
  rw [due, slots]
  cases dueHead s with
  | none => rfl
  | some x =>
    dsimp only
    cases s.slots[x.slot].event with
    | none => rfl
    | some v => exact (congrArg settle (fire_blind x v l (dropHead s))).trans (settle_blind l _)

theorem pulseEnd_answers (n : LineId) : Answers (.pulseEnd n) := by
  refine ⟨_, fun l s => ?_, fun _ => rfl⟩
  have lines : (s.queued l).lines = s.lines := rfl
  rw [lines]
  cases s.lines[n].mode with
  | pulsing v p e => exact ite_queued .rfl rfl rfl
  | disabled => rfl
  | held v => rfl
  | density v d p n a => rfl

theorem densityClock_answers (n : LineId) : Answers (.densityClock n) := by
  refine ⟨_, fun l s => ?_, fun _ => rfl⟩
  have lines : (s.queued l).lines = s.lines := rfl
  rw [lines]
  cases s.lines[n].mode with
  | density v d p n a => exact ite_queued .rfl rfl rfl
  | disabled => rfl
  | held v => rfl
  | pulsing v p e => rfl

theorem frameStart_answers (n : LineId) : Answers (.frameStart n) := by
  refine ⟨_, fun l s => ?_, fun _ => rfl⟩
  have lines : (s.queued l).lines = s.lines := rfl
  rw [lines]
  cases s.lines[n].mode with
  | density v d p n a => exact ite_queued .rfl rfl rfl
  | disabled => rfl
  | held v => rfl
  | pulsing v p e => rfl

theorem secondBoundary_answers : Answers .secondBoundary := by
  refine ⟨_, fun l s => ?_, fun _ => rfl⟩
  have time : (s.queued l).time = s.time := rfl
  rw [time]
  cases s.time.dueBoundaries with
  | nil => rfl
  | cons b bs => exact applyTrim_blind _ l { s with time := { s.time with dueBoundaries := bs } }

theorem sample_answers (n : CaptureId) (v : Level) : Answers (.sample n v) := by
  refine ⟨_, fun l s => ?_, fun _ => rfl⟩
  have capture : (s.queued l).capture = s.capture := rfl
  rw [capture]
  cases s.capture.lines[n].sampling with
  | none => rfl
  | some p => exact ite_queued .rfl (takeSample_blind n p v l s) rfl

theorem holdoffExpiry_answers (k : NoticeRingId) : Answers (.holdoffExpiry k) := by
  refine ⟨_, fun l s => ?_, fun _ => rfl⟩
  exact ite_queued .rfl rfl rfl

theorem deadlineExpiry_answers (r : CommandRingId) : Answers (.deadlineExpiry r) := by
  refine ⟨_, fun l s => ?_, fun _ => rfl⟩
  have intake : (s.queued l).intake = s.intake := rfl
  rw [intake]
  cases s.intake.rings[r].wait with
  | none => rfl
  | some w =>
    dsimp only
    cases w.deadline with
    | none => rfl
    | some t =>
      exact ite_queued .rfl ((congrArg settle (endWait_blind r w .timedOut l s)).trans (settle_blind l _)) rfl

theorem fetchEnd_answers (e : FetchEnd) (pins : BitVec 8) : Answers (.fetchEnd e pins) := by
  cases e with
  | good record => exact ⟨_, endFetch_blind (takeFetched_blind _ _), fun _ => rfl⟩
  | busError => exact ⟨_, endFetch_blind faultFetch_blind, fun _ => rfl⟩

theorem writeEnd_answers (k : NoticeRingId) (e : WriteEnd) : Answers (.writeEnd k e) := by
  refine ⟨_, fun l s => ?_, fun _ => rfl⟩
  rw [queued_notices]
  cases s.notices[k].stale with
  | some q => exact endWriteInMemory_blind q e l (setNotice k _ s)
  | none =>
    cases s.notices[k].queue with
    | nil => rfl
    | cons q qs =>
      exact (congrArg (endHeadWrite k q e) (endWriteInMemory_blind q e l s)).trans (endHeadWrite_blind k q e l _)

theorem setupReadEnd_answers (i : Nat) (e : SetupEnd) : Answers (.setupReadEnd i e) := by
  refine ⟨_, fun l s => ?_, fun _ => rfl⟩
  have control : (s.queued l).control = s.control := rfl
  rw [control]
  cases s.control.setupReads[i]? with
  | none => rfl
  | some x =>
    refine ite_queued .rfl rfl ?_
    cases setupOf e with
    | none => rfl
    | some c =>
      exact loadSetup_blind c l { s with control := { s.control with setupReads := s.control.setupReads.eraseIdx i } }

theorem take_answers : Answers .take := by
  refine ⟨_, fun l s => ?_, fun _ => rfl⟩
  have resolver : (s.queued l).resolver = s.resolver := rfl
  rw [resolver]
  cases s.resolver.work with
  | some w => rfl
  | none => cases s.resolver.queue <;> rfl

theorem workEnd_answers : Answers .workEnd := by
  refine ⟨_, fun l s => ?_, fun _ => rfl⟩
  have resolver : (s.queued l).resolver = s.resolver := rfl
  rw [resolver]
  cases s.resolver.work with
  | none => rfl
  | some w => exact ite_queued .rfl rfl (endWork_blind w.item l { s with resolver := { s.resolver with work := none } })

/-! ### Every command -/

/-- Every command answers a next state by an operation that reads no queue. -/
theorem exec_answers (c : Instr) : Answers c := by
  cases c with
  | load h d => exact .of_record (h := h) (m := .load d) fun _ => rfl
  | start h => exact .of_record (h := h) (m := .start) fun _ => rfl
  | stop h => exact .of_record (h := h) (m := .stop) fun _ => rfl
  | retime h f => exact .of_record (h := h) (m := .retime f) fun _ => rfl
  | unload h => exact .of_record (h := h) (m := .unload) fun _ => rfl
  | query h => exact .of_record (h := h) (m := .query) fun _ => rfl
  | wait h n => exact .of_record (h := h) (m := .wait n) fun _ => rfl
  | nop h => exact .of_record (h := h) (m := .nop) fun _ => rfl
  | readTime h => exact .of_record (h := h) (m := .readTime) fun _ => rfl
  | trimRate h v => exact .of_record (h := h) (m := .trimRate v) fun _ => rfl
  | stepTimebase h d => exact .of_record (h := h) (m := .stepTimebase d) fun _ => rfl
  | setCalendar h f => exact .of_record (h := h) (m := .setCalendar f) fun _ => rfl
  | lineSetup h f => exact .of_record (h := h) (m := .lineSetup f) fun _ => rfl
  | lineForce h w => exact .of_record (h := h) (m := .lineForce w) fun _ => rfl
  | captureSetup h f v => exact .of_record (h := h) (m := .captureSetup f v) fun _ => rfl
  | controlStart => exact .of_write controlStart_blind fun _ => rfl
  | halt => exact .of_write controlHalt_blind fun _ => rfl
  | resume m => exact .of_write (resumeAlone_blind m) fun _ => rfl
  | coreReset => exact .of_write (f := controlReset) (fun _ _ => rfl) fun _ => rfl
  | clearFlags => exact .of_write (f := controlClear) (fun _ _ => rfl) fun _ => rfl
  | noticeRingReset k => exact .of_reset (resetNoticeRing_blind k) fun _ => rfl
  | commandRingReset r => exact .of_reset (resetCommandRing_blind false r) fun _ => rfl
  | postIndexWrite r v => exact .of_write (writePost_blind r v) fun _ => rfl
  | releaseIndexWrite k v => exact .of_write (writeRelease_blind k v) fun _ => rfl
  | intStatusWrite v => exact .of_write (f := writeIntStatus v) (fun _ _ => ite_queued .rfl rfl rfl) fun _ => rfl
  | intEnableWrite v => exact .of_write (f := writeIntEnable v) (fun _ _ => rfl) fun _ => rfl
  | registerWrite o v n =>
    refine ⟨_, fun l s => ?_, fun _ => rfl⟩
    exact ite_queued .rfl (hostWrite_blind (writeRegister_blind o.toNat v) l s) rfl
  | powerOn => exact ⟨_, fun _ _ => rfl, fun _ => rfl⟩
  | resetNAssert => exact ⟨_, fun _ _ => rfl, fun _ => rfl⟩
  | resetNRelease =>
    refine ⟨_, fun l s => ?_, fun _ => rfl⟩
    exact ite_queued .rfl rfl rfl
  | haltInAssert =>
    refine ⟨_, fun l s => ?_, fun _ => rfl⟩
    exact ite_queued .rfl rfl (ite_queued .rfl rfl (latch_blind _ l s))
  | haltInRelease => exact ⟨_, fun _ _ => rfl, fun _ => rfl⟩
  | firing => exact firing_answers
  | pulseEnd n => exact pulseEnd_answers n
  | frameStart n => exact frameStart_answers n
  | secondBoundary => exact secondBoundary_answers
  | sample n v => exact sample_answers n v
  | holdoffExpiry k => exact holdoffExpiry_answers k
  | deadlineExpiry r => exact deadlineExpiry_answers r
  | fetchEnd e pins => exact fetchEnd_answers e pins
  | writeEnd k e => exact writeEnd_answers k e
  | setupReadEnd i e => exact setupReadEnd_answers i e
  | take => exact take_answers
  | workEnd => exact workEnd_answers
  | referenceClockPeriod =>
    refine ⟨_, fun l s => ?_, fun _ => rfl⟩
    exact ite_queued .rfl rfl rfl
  | densityClock n => exact densityClock_answers n

/-- The queue is left as it is, and decides nothing. -/
theorem exec_queue (c : Instr) (s : State) :
    ∃ t, exec c s = .next t ∧ t.pending = s.pending ∧
      ∀ l : List Instr, exec c { s with pending := l } = .next { t with pending := l } := by
  obtain ⟨f, blind, answers⟩ := exec_answers c
  have kept : f s = (f s).queued s.pending := blind s.pending s
  refine ⟨f s, answers s, ?_, fun l => ?_⟩
  · rw [kept]
    rfl
  · exact (answers _).trans (congrArg Host.Outcome.next (blind l s))

end Sys2Proof.Machine
end

section
/-! Generations and definitions through every command (R1, R4, R9, R18, R19, R22). -/

namespace Sys2Proof.Machine

open Sys2Proof

/-! ### What identifies the run of a slot -/

/-- A slot's generation and definition. -/
def Slot.identity (x : Slot) : BitVec 8 × Option Definition := (x.generation, x.event.map Event.defn)

/-- Every slot keeps its generation, is FREE where it was, and keeps its definition. -/
def Identical (s t : State) : Prop := ∀ i : SlotId, t.slots[i].identity = s.slots[i].identity

theorem Identical.refl (s : State) : Identical s s := fun _ => rfl

theorem Identical.trans {s t u : State} (a : Identical s t) (b : Identical t u) : Identical s u :=
  fun i => (b i).trans (a i)

theorem Identical.of_slots {s t : State} (h : t.slots = s.slots) : Identical s t := fun _ => by rw [h]

theorem Steady.identical {s t : State} (h : Steady s t) : Identical s t := fun i => by
  have card := h.slots i
  simp only [Slot.card, Prod.mk.injEq] at card
  exact Prod.ext card.1 card.2.2

theorem setNoticePending_identical (i : SlotId) (b : Bool) (s : State) : Identical s (setNoticePending i b s) := fun j => by
  rw [setNoticePending, setSlot_get]
  split
  · rename_i hj
    rw [hj]
    rfl
  · rfl

/-! ### Offers and free places -/

theorem offerFiring_identical (k : NoticeRingId) (i : SlotId) (p : FiringReport) (s : State) :
    Identical s (offerFiring k i p s) := by
  unfold offerFiring
  split
  · exact .refl s
  · exact setNoticePending_identical i true (setNotice k _ s)

theorem postDeferred_identical (k : NoticeRingId) (d : Deferred) (s : State) : Identical s (postDeferred k d s) := by
  cases d with
  | slot i p => exact setNoticePending_identical i false (postNotice k _ s)
  | line c =>
    unfold postDeferred
    dsimp only
    split <;> exact .refl s
  | system n lost => exact .refl s

theorem serveDeferred_identical (k : NoticeRingId) (n : Nat) (s : State) : Identical s (serveDeferred k n s) := by
  induction n generalizing s with
  | zero => exact .refl s
  | succ n ih =>
    unfold serveDeferred
    split
    · exact .refl s
    · split
      · exact (postDeferred_identical k _ (setNotice k _ s)).trans (ih _)
      · exact .refl s

theorem serve_identical (k : NoticeRingId) (s : State) : Identical s (serve k s) :=
  (serveDeferred_identical k _ s).trans (.of_slots (serveRequests_frame k _ _).2.1)

theorem returnReservations_identical (k : NoticeRingId) (n : Nat) (s : State) : Identical s (returnReservations k n s) :=
  serve_identical k (setNotice k _ s)

/-! ### Firings, samples and works -/

theorem fire_identical {x : Entry} {v : Event} {s : State} (hv : s.slots[x.slot].event = some v) :
    Identical s (fire x v s) := by
  have acted : Steady s (applyActions x.expiry v.defn.actions (fireState x v s)).1 :=
    (applyActions_steady _ _ _).after (fireState_steady hv)
  unfold fire
  dsimp only
  split
  · exact acted.identical.trans (offerFiring_identical _ _ _ _)
  · exact acted.identical

theorem discardEntry_identical (x : Entry) (s : State) : Identical s (discardEntry s x) := by
  unfold discardEntry
  split
  · rename_i v hv
    have concluded : Steady (removeEntry x.slot s) (conclude x.slot v.defn (v.continuationAt x s.time.timebase)
        (setEvent x.slot (v.passedOver (v.continuationAt x s.time.timebase)) (removeEntry x.slot s))) :=
      (conclude_steady _ _ _ _).after (setEvent_steady hv rfl)
    unfold passOver
    dsimp only
    split
    · exact (concluded.identical).trans (offerFiring_identical _ _ _ _)
    · exact concluded.identical
  · exact .refl s

theorem resumeTimeline_identical (m : ResumeMode) (s : State) : Identical s (resumeTimeline m s) := by
  have all : ∀ (l : List Entry) (u : State), Identical u (l.foldl discardEntry u) := fun l => by
    induction l with
    | nil => exact .refl
    | cons x l ih => exact fun u => (discardEntry_identical x u).trans (ih _)
  cases m with
  | catchup => exact .refl s
  | discard => exact all _ s

theorem reportEdge_identical (c : CaptureId) (v : Level) (t : Tick) (s : State) : Identical s (reportEdge c v t s) := by
  unfold reportEdge
  split
  · split
    · exact .refl s
    · exact .of_slots (by simp)
  · exact .refl s

theorem takeSample_identical (c : CaptureId) (p : Sampling) (v : Level) (s : State) :
    Identical s (takeSample c p v s) := by
  have accepted : ∀ (t : Tick) (u : State), Identical u (acceptEdge c v t u) := fun t u =>
    (reportEdge_identical c v t (setCapture c _ u)).trans (trigger_steady c t _).identical
  unfold takeSample
  dsimp only
  split
  · split
    · exact accepted _ (setCapture c _ s)
    · exact .refl s
  · exact .refl s

theorem endWork_identical (x : Item) (s : State) : Identical s (endWork x s) := by
  unfold endWork
  split
  · split
    · split
      · exact (workMatched_steady _ _ _).identical
      · have dormant : Steady s (dropStarted (enterDormant x.slot s)) :=
          (enterDormant_steady x.slot s).trans (dropStarted_steady _)
        have ended : ∀ f u, Steady u (settle (countPass x.member f u)) := fun f u =>
          (countPass_steady x.member f u).trans (settle_steady _)
        exact (dormant.identical.trans (offerFiring_identical _ _ _ _)).trans (ended _ _).identical
    · exact .refl s
  · exact .refl s

/-! ### Rings, faults and the halt -/

theorem resetCommandRing_identical (b : Bool) (r : CommandRingId) (s : State) :
    Identical s (resetCommandRing b r s) := by
  unfold resetCommandRing
  split
  · split
    · exact (clearRing_steady _ _ _).identical
    · exact (clearRing_steady _ _ _).identical.trans (returnReservations_identical _ _ _)
  · exact .refl s

theorem resetNoticeRing_identical (k : NoticeRingId) (s : State) : Identical s (resetNoticeRing k s) := by
  have sources : ∀ (l : List Deferred) (u : State), Identical u (l.foldl discardSource u) := fun l => by
    induction l with
    | nil => exact .refl
    | cons d l ih =>
      intro u
      refine Identical.trans (t := discardSource u d) ?_ (ih _)
      cases d with
      | slot i p => exact setNoticePending_identical i false u
      | line c => exact .refl u
      | system n k => exact .refl u
  have cascade : ∀ (l : List CommandRingId) (u : State), Identical u (l.foldl (cascadeReset k) u) := fun l => by
    induction l with
    | nil => exact .refl
    | cons r l ih => exact fun u => (cascadeReset_steady k r u).identical.trans (ih _)
  have reset := (sources s.notices[k].deferred (setNotice k (s.notices[k].fresh s.notices[k].config) s)).trans
    (cascade [0, 1, 2, 3] _)
  unfold resetNoticeRing
  dsimp only
  split
  · exact reset.trans (.of_slots (by simp))
  · exact reset

theorem latch_identical (f : Control → Control) (s : State) : Identical s (latch f s) := by
  unfold latch
  split
  · exact .of_slots (by simp)
  · exact .refl s

theorem leaveHalted_identical (m : ResumeMode) (s : State) : Identical s (leaveHalted m s) := by
  have offered : Identical s (offerSystem (.resumed m) (clearCauses s)) := .of_slots (by simp)
  exact offered.trans (resumeTimeline_identical m _)

theorem faultFetch_identical (r : CommandRingId) (s : State) : Identical s (faultFetch r s) := by
  unfold faultFetch
  dsimp only
  have offered : ∀ u, Identical u (offerSystem (.commandFault r) (setFault u)) := fun u => .of_slots (by simp)
  refine Identical.trans ?_ (offered _)
  split
  · exact returnReservations_identical _ _ (setRing r _ s)
  · exact .refl s

theorem endHeadWrite_identical (k : NoticeRingId) (q : Queued) (e : WriteEnd) (s : State) :
    Identical s (endHeadWrite k q e s) := by
  cases e with
  | good => exact .refl s
  | busError => exact .of_slots (faultNotices_frame k s).1

theorem loadSetup_identical (b : SetupConfig) (s : State) : Identical s (loadSetup b s) := by
  unfold loadSetup
  split <;> exact .of_slots (by simp)

/-! ### Every command that carries no record and resets no core -/

theorem move_identical {c : Instr} {s t : State} (m : Move c s t) (plain : carried c = none) (stays : ¬resetsCore c) :
    Identical s t := by
  cases m with
  | settle => exact (settle_steady s).identical
  | dropFetch r => exact .refl s
  | stallIfFaulted r => exact (stallIfFaulted_steady r s).identical
  | fetched carries => exact absurd (plain.symm.trans carries) (Option.some_ne_none _).symm
  | unknown =>
    exact ((advanceTake_steady _ s).trans (answerCommand_steady _ (.complete .badCommand .zero) _)).identical
  | faulted => exact faultFetch_identical _ s
  | control alike => exact .refl s
  | start off =>
    rw [controlStart, if_pos off]
    exact .refl s
  | halt => exact latch_identical _ s
  | haltIn => exact latch_identical _ s
  | clearCauses => exact .refl s
  | leaveHalted => exact leaveHalted_identical _ s
  | reset resets => exact absurd resets stays
  | fullReset b resets => exact absurd resets stays
  | release => exact .refl s
  | post r n => exact .refl s
  | rejectIndex o => exact .of_slots (by simp [rejectIndex])
  | @releaseIndex k n => exact serve_identical k (setNotice k _ s)
  | resetRing => exact resetCommandRing_identical _ _ s
  | resetNotice => exact resetNoticeRing_identical _ s
  | pulseEnd => exact .refl s
  | clock => exact .refl s
  | period => exact .refl s
  | fire due event => exact fire_identical (s := dropHead s) event
  | dropHead => exact .refl s
  | boundary l n => exact (applyTrim_steady n { s with time := { s.time with dueBoundaries := l } }).identical
  | sample => exact takeSample_identical _ _ _ s
  | evalReady k => exact .refl s
  | endWait => exact (endWait_steady _ _ _ s).identical
  | @endStale k q e => exact (endWriteInMemory_steady q e (setNotice k _ s)).identical
  | @endHead k q l e => exact (endWriteInMemory_steady q e s).identical.trans (endHeadWrite_identical k q e _)
  | dropRead => exact .refl s
  | @loadSetup i x b =>
    exact loadSetup_identical b
      { s with control := { s.control with setupReads := s.control.setupReads.eraseIdx i } }
  | failSetup => exact .refl s
  | take => exact .refl s
  | dropWork => exact .refl s
  | endWork => exact endWork_identical _ { s with resolver := { s.resolver with work := none } }

theorem exec_identical {c : Instr} {s t : State} (h : exec c s = .next t) (plain : carried c = none)
    (stays : ¬resetsCore c) : Identical s t := by
  have moves := exec_moves h
  clear h
  induction moves with
  | refl => exact .refl s
  | tail _ last ih => exact ih.trans (move_identical last plain stays)

/-! ### The commands that reset the core -/

theorem reset_slots (s : State) (i : SlotId) : (controlReset s).slots[i] = Slot.reset := Vector.getElem_replicate i.isLt

/-- A CONTROL write, whole (R160). -/
theorem controlWrite_eq (v : BitVec 32) (s : State) :
    exec (.registerWrite 0 v 4) s = .next (hostWrite (writeControl v) s) := rfl

/-- A command that resets the core leaves every slot at its reset value, or, with RESET_N asserted, as it was. -/
theorem exec_resetsCore {c : Instr} {s t : State} (resets : resetsCore c) (h : exec c s = .next t) :
    (∀ i : SlotId, t.slots[i] = Slot.reset) ∨ t = s := by
  have write : ∀ f : State → State, (∀ i : SlotId, (f s).slots[i] = Slot.reset) →
      (∀ i : SlotId, (hostWrite f s).slots[i] = Slot.reset) ∨ hostWrite f s = s := fun f hf => by
    unfold hostWrite
    split
    · exact .inr rfl
    · exact .inl hf
  obtain rfl | rfl | rfl | ⟨v, rfl, bit⟩ := resets
  · cases h
    exact write controlReset (reset_slots s)
  · cases h
    exact .inl (reset_slots s)
  · cases h
    exact .inl (reset_slots { s with control := { s.control with resetAsserted := true } })
  · rw [controlWrite_eq] at h
    cases h
    refine write (writeControl v) fun i => ?_
    have reset : ∀ u, (whenBit v 4 controlClear (whenBit v 3 controlReset u)).slots[i] = Slot.reset := fun u => by
      rw [whenBit, whenBit, bit, if_pos rfl]
      split <;> exact reset_slots u i
    have settled : ∀ u, (settle u).slots[i] = u.slots[i] := fun u => by rw [(settle_frame u).2.1]
    unfold writeControl
    dsimp only
    split
    · exact (settled _).trans (reset _)
    · exact reset _

/-! ### The commands of a record -/

/-- Every command of a record ends the fetch in flight with it. -/
theorem exec_carried {c : Instr} {h : Header} {m : Command} (carries : carried c = some (h, m)) (s : State) :
    exec c s = .next (commandFetched h m s) := by
  cases c with
  | fetchEnd e pins =>
    cases e with
    | busError => cases carries
    | good record =>
      obtain ⟨x, hx, eq⟩ := Option.map_eq_some_iff.mp carries
      cases eq
      show Host.Outcome.next (endFetch (takeFetched (headerOf record) (commandOf record pins)) s) = _
      rw [hx]
      rfl
  | _ => cases carries <;> rfl

theorem answerCommand_slots (c : CommandRef) (a : Answer) (s : State) : (answerCommand c a s).slots = s.slots := by
  cases a with
  | complete st q => exact (handCompletion_frame _ _ _ _ _ s).2.2.1
  | owe k => rfl

/-- The slots that a command of a record leaves: as they were, or as the command's owner leaves them. -/
theorem commandFetched_slots (h : Header) (m : Command) (s : State) :
    (commandFetched h m s).slots = s.slots ∨
      ∃ c r, (commandFetched h m s).slots = (takeCommand c h m (advanceTake r s)).1.slots := by
  unfold commandFetched endFetch
  split
  · rename_i r _
    rw [(settle_frame _).2.1, (stallIfFaulted_frame r _).2.1]
    split
    · exact .inl rfl
    · exact .inr ⟨{ ring := r, ident := h.ident, takeIndex := s.intake.rings[r].nextTake }, r, answerCommand_slots _ _ _⟩
  · exact .inl rfl

/-- What a command does with the identity of slot `i`: a LOAD of the FREE slot, an UNLOAD, or a RETIME of its timing
alone; else nothing. -/
inductive CommandEffect (h : Header) (m : Command) (i : SlotId) (x y : Slot) : Prop
  | kept (same : y.identity = x.identity)
  | load {d : LoadFields} (command : m = .load d) (slot : h.slot = i) (free : x.event = none)
      (loaded : y.event.isSome = true) (generation : y.generation = x.generation + 1)
  | unload (command : m = .unload) (slot : h.slot = i) (freed : y.event = none) (generation : y.generation = x.generation)
  | retime {f : RetimeFields} {e : Event} (command : m = .retime f) (slot : h.slot = i) (loaded : x.event = some e)
      (retimed : y.event.map Event.defn = some (e.defn.retime f)) (generation : y.generation = x.generation)

theorem checked_effect {s : State} {h : Header} {m : Command} {i : SlotId} {f : Event → State × Answer}
    (hf : ∀ e, s.slots[h.slot].event = some e → CommandEffect h m i s.slots[i] (f e).1.slots[i]) :
    CommandEffect h m i s.slots[i] (checked h s f).1.slots[i] := by
  unfold checked
  split
  · exact .kept rfl
  · rename_i e he
    split
    · exact hf e he
    · exact .kept rfl

theorem takeLoad_effect (h : Header) (d : LoadFields) (s : State) (i : SlotId) :
    CommandEffect h (.load d) i s.slots[i] (takeLoad h d s).1.slots[i] := by
  cases free : s.slots[h.slot].event with
  | some e =>
    rw [takeLoad_busy d free]
    exact .kept rfl
  | none =>
    cases good : definitionOf d with
    | none =>
      rw [takeLoad_invalid free good]
      exact .kept rfl
    | some v =>
      rw [takeLoad_ok free good, answerSlot_fst, setSlot_get]
      split
      · rename_i hi
        subst hi
        exact .load rfl rfl free rfl rfl
      · exact .kept rfl

theorem takeUnload_effect (h : Header) (s : State) (i : SlotId) :
    CommandEffect h .unload i s.slots[i] (takeUnload h s).1.slots[i] := by
  refine checked_effect fun e _ => ?_
  split
  · exact .kept rfl
  · split
    · exact .kept rfl
    · show CommandEffect h .unload i s.slots[i] (setSlot h.slot { s.slots[h.slot] with event := none } s).slots[i]
      rw [setSlot_get]
      split
      · rename_i hi
        subst hi
        exact .unload rfl rfl rfl rfl
      · exact .kept rfl

/-- A RETIME that is accepted: the definition retimed in its place, and at most a new expiry beside it (R18). -/
theorem retimeSlot_identity (i : SlotId) (e : Event) (f : RetimeFields) (s : State) :
    Identical (setEvent i { e with defn := e.defn.retime f } s) (retimeSlot i e f s).1 := by
  unfold retimeSlot
  dsimp only
  split
  · exact ((removeEntry_steady i _).trans (arm_steady i _ _)).identical
  all_goals exact .refl _

theorem takeRetime_effect (h : Header) (f : RetimeFields) (s : State) (i : SlotId) :
    CommandEffect h (.retime f) i s.slots[i] (takeRetime h f s).1.slots[i] := by
  refine checked_effect fun e he => ?_
  split
  · exact .kept rfl
  · split
    · have same := retimeSlot_identity h.slot e f s i
      rw [setEvent, setSlot_get] at same
      split at same
      · rename_i hi
        subst hi
        exact .retime rfl rfl he (congrArg Prod.snd same) (congrArg Prod.fst same)
      · exact .kept same
    · exact .kept rfl

theorem takeCommand_effect (c : CommandRef) (h : Header) (m : Command) (s : State) (i : SlotId) :
    CommandEffect h m i s.slots[i] (takeCommand c h m s).1.slots[i] := by
  cases m with
  | load d => exact takeLoad_effect h d s i
  | unload => exact takeUnload_effect h s i
  | retime f => exact takeRetime_effect h f s i
  | _ => exact .kept ((takeCommand_steady c h (by simp) (by simp) (by simp)).identical i)

theorem exec_carried_effect {c : Instr} {h : Header} {m : Command} {s t : State} (carries : carried c = some (h, m))
    (e : exec c s = .next t) (i : SlotId) : CommandEffect h m i s.slots[i] t.slots[i] := by
  rw [exec_carried carries] at e
  cases e
  obtain same | ⟨r, q, taken⟩ := commandFetched_slots h m s
  · rw [same]
    exact .kept rfl
  · have slots : (advanceTake q s).slots = s.slots := by rw [advanceTake_eq]
    rw [taken, ← slots]
    exact takeCommand_effect r h m (advanceTake q s) i

/-! ### Every command -/

theorem retime_in_timing (f : RetimeFields) (d : Definition) : d.retime f = { d with timing := (d.retime f).timing } := by
  unfold Definition.retime
  split <;> rfl

/-- What a command may do with a slot's generation, its being FREE and its definition (R1, R4, R9, R18, R19, R22). -/
def SlotFollows (c : Instr) (i : SlotId) (x y : Slot) : Prop :=
  (resetsCore c ∧ y = Slot.reset) ∨
  ((∃ h d, carried c = some (h, .load d) ∧ h.slot = i) ∧ x.event = none ∧ y.event.isSome = true ∧
    y.generation = x.generation + 1) ∨
  (y.generation = x.generation ∧ (x.event = none → y.event = none) ∧
    ∀ d, x.event = some d →
      (y.event = none ∧ ∃ h, carried c = some (h, .unload) ∧ h.slot = i) ∨
      ∃ e, y.event = some e ∧
        (e.defn = d.defn ∨
          ((∃ h f, carried c = some (h, .retime f) ∧ h.slot = i) ∧ e.defn = { d.defn with timing := e.defn.timing })))

/-- A slot that keeps its generation and its definition. -/
theorem SlotFollows.of_identity {c : Instr} {i : SlotId} {x y : Slot} (h : y.identity = x.identity) :
    SlotFollows c i x y := by
  have generation : y.generation = x.generation := congrArg Prod.fst h
  have defn : y.event.map Event.defn = x.event.map Event.defn := congrArg Prod.snd h
  refine .inr (.inr ⟨generation, fun free => ?_, fun d hd => .inr ?_⟩)
  · rw [free] at defn
    exact Option.map_eq_none_iff.mp defn
  · rw [hd] at defn
    obtain ⟨e, he, same⟩ := Option.map_eq_some_iff.mp defn
    exact ⟨e, he, .inl same⟩

theorem CommandEffect.follows {c : Instr} {h : Header} {m : Command} {i : SlotId} {x y : Slot}
    (carries : carried c = some (h, m)) (effect : CommandEffect h m i x y) : SlotFollows c i x y := by
  cases effect with
  | kept same => exact .of_identity same
  | load command slot free loaded generation =>
    subst command
    exact .inr (.inl ⟨⟨h, _, carries, slot⟩, free, loaded, generation⟩)
  | unload command slot freed generation =>
    subst command
    exact .inr (.inr ⟨generation, fun _ => freed, fun _ _ => .inl ⟨freed, h, carries, slot⟩⟩)
  | @retime f d command slot loaded retimed generation =>
    subst command
    obtain ⟨e, he, defn⟩ := Option.map_eq_some_iff.mp retimed
    refine .inr (.inr ⟨generation, fun free => absurd (loaded.symm.trans free) (Option.some_ne_none d), fun a ha => .inr ?_⟩)
    obtain rfl : d = a := Option.some.inj (loaded.symm.trans ha)
    refine ⟨e, he, .inr ⟨⟨h, f, carries, slot⟩, ?_⟩⟩
    rw [defn]
    exact retime_in_timing f d.defn

/-- Settles O52: the queue by the operations' blindness, the slots by the record that the command carries. -/
theorem everyCommandAnswersAndGenerations : Obligations.EveryCommandAnswersAndGenerations := by
  refine ⟨exec_queue, fun c s t i e => (?_ : SlotFollows c i s.slots[i] t.slots[i])⟩
  by_cases resets : resetsCore c
  · obtain reset | rfl := exec_resetsCore resets e
    · exact .inl ⟨resets, reset i⟩
    · exact .of_identity rfl
  · cases carries : carried c with
    | none => exact .of_identity (exec_identical e carries resets i)
    | some p => exact (exec_carried_effect carries e i).follows carries

end Sys2Proof.Machine
end

section
/-! The order of the timeline and the canonical form of memory through every operation that a happening is made of
(R23, R24, log entry 4). -/

namespace Sys2Proof.Machine

open Sys2Proof

/-! ### Entries in order -/

theorem Entry.before.expiry_le {a b : Entry} (h : a.before b) : a.expiry.toNat ≤ b.expiry.toNat := by
  obtain h | ⟨h, -⟩ := h
  · exact Nat.le_of_lt h
  · rw [h]

theorem mem_insertEntry {e y : Entry} {l : List Entry} : y ∈ insertEntry e l ↔ y = e ∨ y ∈ l := by
  induction l with
  | nil => simp [insertEntry]
  | cons x l ih =>
    unfold insertEntry
    split
    · exact List.mem_cons
    · simp only [List.mem_cons, ih]
      tauto

/-- An entry that comes after every entry of its own expiry is inserted in order (R23). -/
theorem insertEntry_pairwise {e : Entry} {l : List Entry} (order : l.Pairwise Entry.before)
    (last : ∀ x ∈ l, x.expiry = e.expiry → x.before e) : (insertEntry e l).Pairwise Entry.before := by
  induction l with
  | nil => exact List.pairwise_singleton _ _
  | cons x l ih =>
    obtain ⟨head, tail⟩ := List.pairwise_cons.mp order
    unfold insertEntry
    split
    · rename_i less
      refine List.pairwise_cons.mpr ⟨fun y hy => .inl ?_, order⟩
      obtain rfl | hy := List.mem_cons.mp hy
      · exact less
      · exact Nat.lt_of_lt_of_le less (head y hy).expiry_le
    · rename_i notLess
      refine List.pairwise_cons.mpr ⟨fun y hy => ?_, ih tail fun y hy => last y (List.mem_cons_of_mem x hy)⟩
      obtain rfl | hy := mem_insertEntry.mp hy
      · obtain less | same := Nat.lt_or_eq_of_le (Nat.le_of_not_lt notLess)
        · exact .inl less
        · exact last x List.mem_cons_self (BitVec.eq_of_toNat_eq same)
      · exact head y hy

/-- The counter goes up by one and stops at its greatest value (R24). -/
theorem counted_toNat (q : BitVec 64) : (counted q).toNat = min (q.toNat + 1) Config.maxTick := by
  rw [← nextSequenceAfter_counted, nextSequenceAfter, satTick_toNat]
  rfl

/-! ### What every operation keeps -/

/-- From `s` to `t` the timeline stays in order and the memory canonical. -/
structure Orderly (s t : State) : Prop where
  timeline : TimelineOrdered s → TimelineOrdered t
  memory : Memory.wf s.memory → Memory.wf t.memory

theorem Orderly.refl (s : State) : Orderly s s := ⟨id, id⟩

theorem Orderly.trans {s t u : State} (a : Orderly s t) (b : Orderly t u) : Orderly s u :=
  ⟨b.timeline ∘ a.timeline, b.memory ∘ a.memory⟩

theorem Orderly.after {s t u : State} (b : Orderly t u) (a : Orderly s t) : Orderly s u := a.trans b

/-- An operation that only takes entries away from the timeline. -/
theorem Orderly.of_sublist {s t : State} (entries : t.timeline.entries.Sublist s.timeline.entries)
    (next : t.timeline.nextSequence = s.timeline.nextSequence) (memory : t.memory = s.memory) : Orderly s t where
  timeline h := ⟨h.order.sublist entries, fun e he => by rw [next]; exact h.fresh e (entries.subset he)⟩
  memory h := by rw [memory]; exact h

theorem Orderly.frame {s t : State} (timeline : t.timeline = s.timeline) (memory : t.memory = s.memory) : Orderly s t :=
  .of_sublist (by rw [timeline]) (by rw [timeline]) memory

theorem arm_timeline (i : SlotId) (x : Tick) (s : State) :
    (arm i x s).timeline =
      { s.timeline with
        entries := insertEntry
          { slot := i, expiry := x, sequence := s.timeline.nextSequence, haltedOver := false } s.timeline.entries
        nextSequence := counted s.timeline.nextSequence } := by
  simp only [arm, setRun_frame, nextSequenceAfter_counted]

/-- An insertion takes a fresh sequence number, so its entry is the last of its expiry (R24, R25). -/
theorem arm_orderly (i : SlotId) (x : Tick) (s : State) : Orderly s (arm i x s) := by
  refine ⟨fun h => ⟨?_, fun e he => ?_⟩, fun h => by simpa using h⟩
  · rw [arm_timeline]
    refine insertEntry_pairwise h.order fun e he same => .inr ⟨same, ?_⟩
    obtain less | stopped := h.fresh e he
    · exact .inl less
    · obtain less | equal := Nat.lt_or_eq_of_le (show e.sequence.toNat ≤ s.timeline.nextSequence.toNat by
        rw [stopped]; exact Nat.le_of_lt_succ e.sequence.isLt)
      · exact .inl less
      · exact .inr ⟨BitVec.eq_of_toNat_eq equal, stopped⟩
  · rw [arm_timeline] at he ⊢
    have bound : s.timeline.nextSequence.toNat < 2 ^ 64 := s.timeline.nextSequence.isLt
    simp only [counted_toNat, Config.maxTick]
    obtain rfl | he := mem_insertEntry.mp he
    · dsimp only; omega
    · have := h.fresh e he
      simp only [Config.maxTick] at this
      omega

theorem removeEntry_orderly (i : SlotId) (s : State) : Orderly s (removeEntry i s) :=
  .of_sublist List.filter_sublist rfl rfl

theorem dropHead_orderly (s : State) : Orderly s (dropHead s) := .of_sublist (List.tail_sublist _) rfl rfl

/-- The mark of R41 is no part of the order. -/
theorem markOverdue_orderly (s : State) : Orderly s (markOverdue s) := by
  have expiry : ∀ x : Entry,
      (if s.time.reached x.expiry then { x with haltedOver := true } else x).expiry = x.expiry := fun x => by
    split <;> rfl
  have sequence : ∀ x : Entry,
      (if s.time.reached x.expiry then { x with haltedOver := true } else x).sequence = x.sequence := fun x => by
    split <;> rfl
  refine ⟨fun h => ⟨?_, fun e he => ?_⟩, id⟩
  · refine List.pairwise_map.mpr (h.order.imp fun {a b} before => ?_)
    simpa only [Entry.before, expiry, sequence] using before
  · obtain ⟨x, hx, rfl⟩ := List.mem_map.mp he
    rw [sequence]
    exact h.fresh x hx

/-! ### Slots -/

theorem startSlot_orderly (i : SlotId) (e : Event) (o : Tick) (s : State) : Orderly s (startSlot i e o s) := by
  have begun : Orderly s (setEvent i e.begin s) := .frame rfl rfl
  unfold startSlot
  dsimp only
  split
  · exact begun.trans (arm_orderly _ _ _)
  · exact begun.trans (arm_orderly _ _ _)
  · exact .frame (by simp) (by simp)
  · exact .frame (by simp) (by simp)

theorem leaveCollections_orderly (i : SlotId) (e : Event) (s : State) : Orderly s (leaveCollections i e s) :=
  .of_sublist (by rw [leaveCollections_timeline]; dsimp only; split <;> simp) (by rw [leaveCollections_timeline])
    (by simp)

theorem enterDormant_orderly (i : SlotId) (s : State) : Orderly s (enterDormant i s) := .frame (by simp) (by simp)

theorem stopSlot_orderly (i : SlotId) (e : Event) (s : State) : Orderly s (stopSlot i e s) :=
  (leaveCollections_orderly i e s).trans (enterDormant_orderly i _)

theorem conclude_orderly (i : SlotId) (d : Definition) (c : Continuation) (s : State) : Orderly s (conclude i d c s) := by
  unfold conclude
  split
  · split
    · exact .frame (by simp) (by simp)
    · split <;> exact .frame (by simp) (by simp)
  · split
    · exact arm_orderly _ _ _
    · exact .frame (by simp) (by simp)

/-! ### Firings and DISCARD processing -/

theorem applyAction_orderly (o : Tick) (a : Action) (s : State) : Orderly s (applyAction o a s).1 := by
  unfold applyAction
  split
  case h_5 i =>
    unfold startAction
    split
    · exact .refl s
    · split
      · exact .refl s
      · exact startSlot_orderly _ _ _ _
  case h_6 i =>
    unfold stopAction
    split
    · exact .refl s
    · split
      · exact .refl s
      · exact stopSlot_orderly _ _ _
  case h_7 => exact .refl s
  all_goals exact .frame (by simp) (by simp)

theorem applyActions_orderly (o : Tick) (l : List Action) (s : State) : Orderly s (applyActions o l s).1 := by
  induction l generalizing s with
  | nil => exact .refl s
  | cons a l ih => exact (applyAction_orderly o a s).trans (ih _)

theorem offerFiring_orderly (k : NoticeRingId) (i : SlotId) (p : FiringReport) (s : State) :
    Orderly s (offerFiring k i p s) := .frame (by simp) (by simp)

theorem fire_orderly (x : Entry) (v : Event) (s : State) : Orderly s (fire x v s) := by
  have state : Orderly s (fireState x v s) := (conclude_orderly _ _ _ _).after (.frame rfl rfl)
  have acted := state.trans (applyActions_orderly x.expiry v.defn.actions _)
  unfold fire
  dsimp only
  split
  · exact acted.trans (offerFiring_orderly _ _ _ _)
  · exact acted

theorem passOver_orderly (x : Entry) (v : Event) (s : State) : Orderly s (passOver x v s) := by
  have concluded : ∀ c, Orderly s (conclude x.slot v.defn c (setEvent x.slot (v.passedOver c) s)) := fun c =>
    (conclude_orderly _ _ _ _).after (.frame rfl rfl)
  unfold passOver
  dsimp only
  split
  · exact (concluded _).trans (offerFiring_orderly _ _ _ _)
  · exact concluded _

theorem discardEntry_orderly (x : Entry) (s : State) : Orderly s (discardEntry s x) := by
  unfold discardEntry
  split
  · exact (removeEntry_orderly _ _).trans (passOver_orderly _ _ _)
  · exact removeEntry_orderly _ _

theorem discardEntries_orderly (l : List Entry) (s : State) : Orderly s (l.foldl discardEntry s) := by
  induction l generalizing s with
  | nil => exact .refl s
  | cons x l ih => exact (discardEntry_orderly x s).trans (ih _)

theorem leaveHalted_orderly (m : ResumeMode) (s : State) : Orderly s (leaveHalted m s) := by
  have offered : Orderly s (offerSystem (.resumed m) (clearCauses s)) := .frame (by simp) (by simp)
  cases m with
  | catchup => exact (offered.trans (markOverdue_orderly _)).trans (.frame rfl rfl)
  | discard => exact (offered.trans (discardEntries_orderly _ _)).trans (.frame rfl rfl)

/-! ### Edges and works -/

theorem armByEdge_orderly (i : SlotId) (e : Event) (x ts : Tick) (s : State) : Orderly s (armByEdge i e x ts s) :=
  (arm_orderly _ _ _).after (.frame rfl rfl)

theorem triggerSlot_orderly (c : CaptureId) (ts : Tick) (i : SlotId) (s : State) : Orderly s (triggerSlot c ts s i) := by
  unfold triggerSlot
  split
  · split
    · exact (armByEdge_orderly _ _ _ _ _).trans (.frame rfl rfl)
    · exact armByEdge_orderly _ _ _ _ _
    · exact (removeEntry_orderly _ _).trans (armByEdge_orderly _ _ _ _ _)
    · exact .refl s
  · exact .refl s

theorem triggerSlots_orderly (c : CaptureId) (ts : Tick) (l : List SlotId) (s : State) :
    Orderly s (l.foldl (triggerSlot c ts) s) := by
  induction l generalizing s with
  | nil => exact .refl s
  | cons i l ih => exact (triggerSlot_orderly c ts i s).trans (ih _)

theorem takeSample_orderly (c : CaptureId) (p : Sampling) (v : Level) (s : State) : Orderly s (takeSample c p v s) := by
  have accepted : ∀ (ts : Tick) (t : State), Orderly t (acceptEdge c v ts t) := fun ts t => by
    have reported : Orderly t (reportEdge c v ts
        (setCapture c { t.capture.lines[c] with edgeSequence := t.capture.lines[c].edgeSequence + 1 } t)) :=
      .frame (by simp) (by simp)
    unfold acceptEdge trigger
    split
    · exact reported
    · exact reported.trans (triggerSlots_orderly _ _ _ _)
  unfold takeSample
  dsimp only
  split
  · split
    · exact (accepted _ _).after (.frame rfl rfl)
    · exact .frame rfl rfl
  · exact .frame rfl rfl

theorem countPass_orderly (m : Bool) (f : Pass → Pass) (s : State) : Orderly s (countPass m f s) :=
  .frame (by simp) (by simp)

theorem endWork_orderly (x : Item) (s : State) : Orderly s (endWork x s) := by
  unfold endWork
  split
  · split
    · split
      · exact (arm_orderly _ _ _).trans (countPass_orderly _ _ _)
      · exact .frame (by simp) (by simp)
    · exact .refl s
  · exact .refl s

/-! ### The commands of a record -/

theorem takeSetCalendar_orderly (c : CommandRef) (f : CalendarFields) (s : State) :
    Orderly s (takeSetCalendar c f s).1 := by
  have placed : ∀ n, Orderly s (rePlace (setAnchor n (supersede s))) := fun n =>
    .of_sublist (by simp [rePlace, takeBack]) (by simp [rePlace, takeBack]) (by simp)
  unfold takeSetCalendar
  split
  · exact .refl s
  · dsimp only
    split
    · exact placed _
    · exact (placed _).trans (.frame rfl rfl)

theorem retimeSlot_orderly (i : SlotId) (e : Event) (f : RetimeFields) (s : State) :
    Orderly s (retimeSlot i e f s).1 := by
  have kept : Orderly s (setEvent i { e with defn := e.defn.retime f } s) := .frame rfl rfl
  unfold retimeSlot
  split
  · exact (kept.trans (removeEntry_orderly _ _)).trans (arm_orderly _ _ _)
  all_goals exact kept

theorem checked_orderly {s : State} {hd : Header} {f : Event → State × Answer} (hf : ∀ e, Orderly s (f e).1) :
    Orderly s (checked hd s f).1 := by
  unfold checked
  split
  · exact .refl s
  · split
    · exact hf _
    · exact .refl s

theorem takeCommand_orderly (c : CommandRef) (hd : Header) (m : Command) (s : State) :
    Orderly s (takeCommand c hd m s).1 := by
  cases m with
  | load d =>
    show Orderly s (takeLoad hd d s).1
    unfold takeLoad
    split
    · exact .refl s
    · split
      · exact .refl s
      · exact .frame rfl rfl
  | start =>
    refine checked_orderly fun e => ?_
    split
    · exact .refl s
    · split
      · exact .refl s
      · exact startSlot_orderly _ _ _ _
  | stop =>
    refine checked_orderly fun e => ?_
    split
    · exact .refl s
    · exact stopSlot_orderly _ _ _
  | retime f =>
    refine checked_orderly fun e => ?_
    split
    · exact .refl s
    · split
      · exact retimeSlot_orderly _ _ _ _
      · exact .refl s
  | unload =>
    refine checked_orderly fun e => ?_
    split
    · exact .refl s
    · split
      · exact .refl s
      · exact .frame rfl rfl
  | query => exact checked_orderly fun _ => .refl s
  | wait n =>
    refine checked_orderly fun e => ?_
    split
    · exact .refl s
    · split
      · exact .refl s
      · exact .frame rfl rfl
  | nop => exact .refl s
  | readTime => exact .refl s
  | trimRate v =>
    show Orderly s (takeTrimRate c v s).1
    unfold takeTrimRate
    split
    · exact .refl s
    · split
      · exact .refl s
      · exact .frame rfl rfl
  | stepTimebase d =>
    show Orderly s (takeStepTimebase d s).1
    unfold takeStepTimebase
    split
    · exact .frame (by simp) (by simp)
    · exact .refl s
  | setCalendar f => exact takeSetCalendar_orderly c f s
  | lineSetup f =>
    show Orderly s (takeLineSetup f s).1
    unfold takeLineSetup
    split
    · exact .refl s
    · exact .frame rfl rfl
  | lineForce w =>
    show Orderly s (takeLineForce w s).1
    unfold takeLineForce
    split
    · exact .refl s
    · split
      · exact .refl s
      · split
        · exact .frame (by simp) (by simp)
        · exact .refl s
  | captureSetup f v =>
    show Orderly s (takeCaptureSetup f v s).1
    unfold takeCaptureSetup
    split
    · exact .refl s
    · exact .frame rfl rfl

theorem answerCommand_orderly (c : CommandRef) (a : Answer) (s : State) : Orderly s (answerCommand c a s) := by
  cases a with
  | complete status result => exact .frame (by simp [answerCommand]) (by simp [answerCommand])
  | owe kind => exact .frame rfl rfl

theorem takeFetched_orderly (hd : Header) (m : Option Command) (r : CommandRingId) (s : State) :
    Orderly s (takeFetched hd m r s) := by
  have advanced : Orderly s (advanceTake r s) := .frame (by simp) (by simp)
  cases m with
  | none => exact advanced.trans (answerCommand_orderly _ (.complete .badCommand .zero) _)
  | some m => exact (advanced.trans (takeCommand_orderly _ hd m _)).trans (answerCommand_orderly _ _ _)

/-! ### Writes, halts and resets -/

theorem TimelineOrdered.frame {s t : State} (h : TimelineOrdered s) (timeline : t.timeline = s.timeline) :
    TimelineOrdered t := by
  obtain ⟨order, fresh⟩ := h
  rw [← timeline] at order fresh
  exact ⟨order, fresh⟩

theorem endWriteInMemory_orderly (q : Queued) (e : WriteEnd) (s : State) : Orderly s (endWriteInMemory q e s) := by
  refine ⟨fun h => h.frame (by simp), fun h => ?_⟩
  cases e with
  | good =>
    have written := Memory.writeRecord_wf q h
    simpa only [endWriteInMemory] using written
  | busError =>
    have spoilt := Memory.spoilRecord_wf q s.freeCount h
    simpa only [endWriteInMemory] using spoilt

theorem endHeadWrite_orderly (k : NoticeRingId) (q : Queued) (e : WriteEnd) (s : State) :
    Orderly s (endHeadWrite k q e s) := by
  cases e with
  | good => exact .frame (by simp [endHeadWrite]) (by simp [endHeadWrite])
  | busError => exact .frame (by simp [endHeadWrite]) (by simp [endHeadWrite])

theorem latch_orderly (f : Control → Control) (s : State) : Orderly s (latch f s) := by
  unfold latch
  split
  · exact .frame (by simp) (by simp)
  · exact .frame rfl rfl

theorem controlReset_orderly (s : State) : Orderly s (controlReset s) :=
  ⟨fun _ => ⟨List.Pairwise.nil, fun _ he => absurd he List.not_mem_nil⟩, id⟩

theorem faultFetch_orderly (r : CommandRingId) (s : State) : Orderly s (faultFetch r s) := by
  unfold faultFetch
  dsimp only
  split <;> exact .frame (by simp) (by simp)

theorem loadSetup_orderly (b : SetupConfig) (s : State) : Orderly s (loadSetup b s) := by
  have configured : Orderly s (configure b s) := .of_sublist (List.Sublist.refl _) rfl rfl
  unfold loadSetup
  split
  · exact configured.trans (.frame (by simp) (by simp))
  · exact configured.trans (.frame (by simp) (by simp))

/-! ### Every move -/

theorem move_orderly {c : Instr} {s t : State} (m : Move c s t) : Orderly s t := by
  cases m with
  | settle => exact .frame (by simp) (by simp)
  | dropFetch => exact .frame rfl rfl
  | stallIfFaulted => exact .frame (by simp) (by simp)
  | fetched => exact takeFetched_orderly _ _ _ _
  | unknown => exact takeFetched_orderly _ _ _ _
  | faulted => exact faultFetch_orderly _ _
  | control => exact .frame rfl rfl
  | start off _ =>
    rw [controlStart, if_pos off]
    exact .frame rfl rfl
  | halt => exact latch_orderly _ _
  | haltIn => exact latch_orderly _ _
  | clearCauses => exact .frame rfl rfl
  | leaveHalted => exact leaveHalted_orderly _ _
  | reset => exact controlReset_orderly s
  | fullReset b =>
    have asserted : Orderly s { s with control := { s.control with resetAsserted := b } } := .frame rfl rfl
    exact (asserted.trans (controlReset_orderly _)).trans (.frame rfl rfl)
  | release => exact .frame rfl rfl
  | post => exact .frame rfl rfl
  | rejectIndex => exact .frame (by simp) (by simp)
  | releaseIndex => exact .frame (by simp) (by simp)
  | resetRing => exact .frame (by simp) (by simp)
  | resetNotice => exact .frame (by simp) (by simp)
  | pulseEnd => exact .frame rfl rfl
  | clock => exact .frame rfl rfl
  | period => exact .frame rfl rfl
  | fire => exact (dropHead_orderly s).trans (fire_orderly _ _ _)
  | dropHead => exact dropHead_orderly s
  | boundary => exact .frame (by simp) (by simp)
  | sample => exact takeSample_orderly _ _ _ _
  | evalReady => exact .frame rfl rfl
  | endWait => exact .frame (by simp) (by simp)
  | endStale => exact (endWriteInMemory_orderly _ _ _).after (.frame rfl rfl)
  | endHead => exact (endWriteInMemory_orderly _ _ _).trans (endHeadWrite_orderly _ _ _ _)
  | dropRead => exact .frame rfl rfl
  | loadSetup => exact (loadSetup_orderly _ _).after (.frame rfl rfl)
  | failSetup => exact .frame rfl rfl
  | take => exact .frame rfl rfl
  | dropWork => exact .frame rfl rfl
  | endWork => exact (endWork_orderly _ _).after (.frame rfl rfl)

/-- Settles O54: every move keeps the order and the canonical form, and a step is a chain of moves. -/
theorem stepKeepsTimelineAndMemory : Obligations.StepKeepsTimelineAndMemory :=
  ⟨fun _ _ hs h => step_keeps (P := TimelineOrdered) (fun _ _ hu => hu.frame rfl)
      (fun m => (move_orderly m).timeline) hs h,
    fun _ _ hs h => step_keeps (P := fun s => Memory.wf s.memory) (fun _ _ hu => hu) (fun m => (move_orderly m).memory)
      hs h⟩

end Sys2Proof.Machine
end

section
/-! The continuation of a run, and a firing in the order of its steps (R28, R30 to R37, Table 2-3). -/

namespace Sys2Proof.Machine

open Sys2Proof

/-! ### The continuation of a run -/

theorem skipRule_eq {p e f k : Nat} (below : e + k * p ≤ f) (above : f < e + (k + 1) * p) (left : Option Nat) :
    skipRule p e f left =
      if ∃ n, left = some n ∧ n - 1 ≤ k then { last := true, skip := left.getD 0 - 1, next := none }
      else if e + (k + 1) * p < 2 ^ 64 then
        { last := false, skip := k, next := some (BitVec.ofNat 64 (e + (k + 1) * p)) }
      else { last := true, skip := k, next := none } := by
  have periods : (f - e) / p = k := Nat.div_eq_of_lt_le (by omega) (by omega)
  have range : Config.maxTick < e + (k + 1) * p ↔ ¬e + (k + 1) * p < 2 ^ 64 := by
    simp only [Config.maxTick]; omega
  unfold skipRule
  dsimp only
  simp only [periods, range, ite_not]
  cases left with
  | none => simp
  | some n => simp

/-- The continuation of a TICK slot that has a period and a firing left beside this one (R32). -/
theorem continuation_skips {p e f k : Nat} {left : Option Nat} (mode : StartMode) (start : Tick) (period : 0 < p)
    (more : left ≠ some 1) (below : e + k * p ≤ f) (above : f < e + (k + 1) * p) :
    continuation (.tick mode start p) left e f =
      if ∃ n, left = some n ∧ n - 1 ≤ k then { last := true, skip := left.getD 0 - 1, next := none }
      else if e + (k + 1) * p < 2 ^ 64 then
        { last := false, skip := k, next := some (BitVec.ofNat 64 (e + (k + 1) * p)) }
      else { last := true, skip := k, next := none } := by
  rw [← skipRule_eq below above]
  exact if_neg fun h => h.elim (Nat.ne_of_gt period) more

/-- The skip of such a slot leaves a firing of every run, and a run accounts for its repeat count (R33). -/
theorem continuation_accounts {p e f k n : Nat} (mode : StartMode) (start : Tick) (period : 0 < p) (more : 2 ≤ n)
    (below : e + k * p ≤ f) (above : f < e + (k + 1) * p) {c : Continuation}
    (hc : c = continuation (.tick mode start p) (some n) e f) {m : Nat} (after : c.remainingAfter (some n) = some m) :
    1 ≤ m ∧ m + c.skip + (if c.last then 0 else 1) = n := by
  have ends : (∃ r, some n = some r ∧ r - 1 ≤ k) ↔ n - 1 ≤ k := by simp
  rw [continuation_skips mode start period (by simp; omega) below above] at hc
  simp only [Continuation.remainingAfter, Option.map_some, Option.some.injEq] at after
  subst after
  simp only [ends] at hc
  split at hc
  · subst hc
    simp only [Option.getD_some, if_true]
    omega
  · split at hc
    · subst hc
      simp only [Bool.false_eq_true, if_false]
      omega
    · subst hc
      simp only [if_true]
      omega

/-- Settles O32, from the number of whole periods that its bounds fix. -/
theorem skipRuleFindsTheNextExpiry : Obligations.SkipRuleFindsTheNextExpiry := by
  refine ⟨fun mode start p e f left c _ _ hc => ⟨fun h => ?_, fun k period more some below above => ?_⟩,
    fun _ _ _ _ => rfl⟩
  · rw [hc]
    exact if_pos h
  · have eq := continuation_skips mode start period more below above
    rw [← hc] at eq
    refine ⟨fun n hn ends => ?_, fun goes range => ?_, fun goes range => ?_, fun n m hn after => ?_⟩
    · rw [eq, if_pos ⟨n, hn, ends⟩, hn]
      rfl
    · have not : ¬∃ n, left = Option.some n ∧ n - 1 ≤ k := fun ⟨n, hn, ends⟩ => Nat.not_le.mpr (goes n hn) ends
      have tick : (BitVec.ofNat 64 (e + (k + 1) * p)).toNat = e + (k + 1) * p := by
        rw [BitVec.toNat_ofNat, Nat.mod_eq_of_lt range]
      exact ⟨_, tick, by rw [tick]; exact above, by rw [eq, if_neg not, if_pos range]⟩
    · have not : ¬∃ n, left = Option.some n ∧ n - 1 ≤ k := fun ⟨n, hn, ends⟩ => Nat.not_le.mpr (goes n hn) ends
      rw [eq, if_neg not, if_neg (Nat.not_lt.mpr range)]
    · subst hn
      have : n ≠ 0 := fun h => some (by rw [h])
      have : n ≠ 1 := fun h => more (by rw [h])
      exact continuation_accounts mode start period (by omega) below above hc after

/-! ### The actions of a firing -/

theorem applyActions_cons (z : Tick) (a : Action) (l : List Action) (s : State) :
    applyActions z (a :: l) s =
      ((applyActions z l (applyAction z a s).1).1,
        ((applyActions z l (applyAction z a s).1).2 <<< 1) ||| (if (applyAction z a s).2 then 1 else 0)) := rfl

/-- Position 0 of the mask is the first action's (R36). -/
theorem mask_first (z : Tick) (a : Action) (l : List Action) (s : State) :
    (applyActions z (a :: l) s).2.getLsbD 0 = (applyAction z a s).2 := by
  rw [applyActions_cons]
  cases (applyAction z a s).2 <;> simp

/-- The further positions of the mask are those of the actions after the first. -/
theorem mask_rest (z : Tick) (a : Action) (l : List Action) (s : State) {i : Nat} (h : i < 3) :
    (applyActions z (a :: l) s).2.getLsbD (i + 1) = (applyActions z l (applyAction z a s).1).2.getLsbD i := by
  have bit : (if (applyAction z a s).2 then 1 else 0 : BitVec 4).getLsbD (i + 1) = false := by
    split
    · simp
    · simp
  rw [applyActions_cons]
  simp only [BitVec.getLsbD_or, bit, Bool.or_false, BitVec.getLsbD_shiftLeft]
  simp [show i + 1 < 4 by omega]

/-- Mask position `i` says whether action `i` failed, on the state that the actions before it left (R36). -/
theorem mask_position (z : Tick) (l : List Action) (s : State) {i : Nat} {a : Action} (h : i < 4) (ha : l[i]? = some a) :
    (applyActions z l s).2.getLsbD i = (applyAction z a (applyActions z (l.take i) s).1).2 := by
  induction l generalizing s i with
  | nil => simp at ha
  | cons b l ih =>
    cases i with
    | zero =>
      obtain rfl : b = a := by simpa using ha
      exact mask_first z b l s
    | succ i =>
      rw [mask_rest z b l s (by omega), ih _ (by omega) (by simpa using ha)]
      rfl

/-- The mask positions beyond the list are clear (R36). -/
theorem mask_beyond (z : Tick) (l : List Action) (s : State) {i : Nat} (h : l.length ≤ i) :
    (applyActions z l s).2.getLsbD i = false := by
  induction l generalizing s i with
  | nil => exact BitVec.getLsbD_zero
  | cons a l ih =>
    obtain ⟨i, rfl⟩ : ∃ j, i = j + 1 := ⟨i - 1, by simp at h; omega⟩
    by_cases hi : i < 3
    · rw [mask_rest z a l s hi]
      exact ih _ (by simpa using h)
    · exact BitVec.getLsbD_of_ge _ _ (by omega)

/-! ### The firing -/

theorem wants_iff (p : NotifyPolicy) (last : Bool) : p.wants last = true ↔ p = .every ∨ (p = .last ∧ last = true) := by
  cases p <;> simp [NotifyPolicy.wants]

theorem dueHead_eq {s : State} {x : Entry} {l : List Entry} (core : s.control.core = .running) (on : s.halted = false)
    (entries : s.timeline.entries = x :: l) (due : x.expiry.toNat ≤ s.time.timebase.toNat) : dueHead s = some x := by
  simp [dueHead, core, on, entries, TimeUnit.reached, due]

theorem dropHead_eq {s : State} {x : Entry} {l : List Entry} (entries : s.timeline.entries = x :: l) :
    dropHead s = { s with timeline := { s.timeline with entries := l } } := by
  rw [dropHead, entries, List.tail_cons]

/-- Steps 2 to 5 of Table 2-3, from the state that the actions left. -/
theorem fire_eq {s u : State} {x : Entry} {v : Event} {mask : BitVec 4}
    (acted : (u, mask) = applyActions x.expiry v.defn.actions (fireState x v s)) :
    fire x v s =
      if v.defn.policy = .every ∨ (v.defn.policy = .last ∧ (v.continuationAt x s.time.timebase).last = true) then
        offerFiring v.defn.ring x.slot
          (firingReport x s.time.timebase s.timeline.lateThreshold (v.continuationAt x s.time.timebase) mask) u
      else u := by
  unfold fire
  dsimp only
  rw [← acted]
  simp only [wants_iff]

/-- Settles O31: the due head leaves the timeline and fires, and the mask is read action by action. -/
theorem firingTakesItsStepsInOrder : Obligations.FiringTakesItsStepsInOrder := by
  refine ⟨fun s u x l v c mask core on entries due event hc acted => ?_, ⟨fun _ _ => rfl, fun z a l s => ?_, ?_⟩⟩
  · have fires : exec .firing s = .next (settle (fire x v (dropHead s))) := by
      show execFiring s = _
      simp only [execFiring, dueHead_eq core on entries due, event]
    rw [dropHead_eq entries] at fires
    subst hc
    rw [fire_eq (u := u) (mask := mask) acted] at fires
    exact ⟨_, fires, settle_arbiterOnly _⟩
  · exact ⟨rfl, mask_first z a l s, fun i hi => mask_rest z a l s hi⟩
  · exact fun z l s i => ⟨fun a hi ha => mask_position z l s hi ha, fun h => mask_beyond z l s h⟩

end Sys2Proof.Machine
end

section
/-! Happenings that are not due (log entry 2): each finds nothing to do and leaves the state as it is. -/

namespace Sys2Proof.Machine

open Sys2Proof

/-! ### Firings -/

theorem dueHead_not_due {s : State}
    (h : s.halted = true ∨ s.control.core ≠ .running ∨ s.timeline.entries = [] ∨
      ∃ x l, s.timeline.entries = x :: l ∧ s.time.timebase.toNat < x.expiry.toNat) : dueHead s = none := by
  unfold dueHead
  obtain halted | core | empty | ⟨x, l, entries, early⟩ := h
  · simp [halted]
  · simp [core]
  · simp [empty]
  · simp [entries, TimeUnit.reached, early]

theorem firing_not_due {s : State} (h : dueHead s = none) : exec .firing s = .next s := by
  show execFiring s = _
  simp only [execFiring, h]

/-! ### Lines -/

theorem pulseEnd_early {s : State} {l : LineId} {v p : Level} {e : Tick} (mode : s.lines[l].mode = .pulsing v p e)
    (early : s.time.timebase.toNat < e.toNat) : exec (.pulseEnd l) s = .next s := by
  show execPulseEnd l s = _
  simp only [execPulseEnd, mode, TimeUnit.reached, decide_eq_true_eq, if_neg (Nat.not_le.mpr early)]

theorem pulseEnd_not_pulsing {s : State} {l : LineId} (mode : ∀ v p e, s.lines[l].mode ≠ .pulsing v p e) :
    exec (.pulseEnd l) s = .next s := by
  show execPulseEnd l s = _
  unfold execPulseEnd
  split
  · exact absurd ‹_› (mode _ _ _)
  all_goals rfl

theorem density_early {s : State} {l : LineId} {v : Level} {d : Density} {k : BitVec 16} {n : Option Density} {a : Nat}
    (mode : s.lines[l].mode = .density v d k n a) (early : a < d.divider) :
    exec (.densityClock l) s = .next s ∧ exec (.frameStart l) s = .next s := by
  refine ⟨(?_ : execDensityClock l s = _), (?_ : execFrameStart l s = _)⟩
  · simp only [execDensityClock, mode, if_neg (Nat.not_le.mpr early)]
  · simp only [execFrameStart, mode, if_neg fun h : k = 0xFFFF ∧ d.divider ≤ a => Nat.not_le.mpr early h.2]

theorem density_not_density {s : State} {l : LineId} (mode : ∀ v d k n a, s.lines[l].mode ≠ .density v d k n a) :
    exec (.densityClock l) s = .next s ∧ exec (.frameStart l) s = .next s := by
  refine ⟨(?_ : execDensityClock l s = _), (?_ : execFrameStart l s = _)⟩
  · unfold execDensityClock
    split
    · exact absurd ‹_› (mode _ _ _ _ _)
    all_goals rfl
  · unfold execFrameStart
    split
    · exact absurd ‹_› (mode _ _ _ _ _)
    all_goals rfl

theorem frameStart_inside_frame {s : State} {l : LineId} {v : Level} {d : Density} {k : BitVec 16} {n : Option Density}
    {a : Nat} (mode : s.lines[l].mode = .density v d k n a) (inside : k.toNat ≠ 65535) :
    exec (.frameStart l) s = .next s := by
  have position : k ≠ 0xFFFF := fun h => inside (by rw [h]; rfl)
  show execFrameStart l s = _
  simp only [execFrameStart, mode, position, false_and, if_false]

/-! ### Fetches, works and reads with none under way -/

theorem endFetch_none {s : State} (f : CommandRingId → State → State) (free : s.fetchingRing = none) :
    endFetch f s = s := by simp only [endFetch, free]

theorem fetchEnd_none {s : State} (e : FetchEnd) (pins : BitVec 8) (free : s.fetchingRing = none) :
    exec (.fetchEnd e pins) s = .next s := by
  show execFetchEnd e pins s = _
  cases e <;> simp only [execFetchEnd, endFetch_none _ free]

theorem carried_none {s : State} {c : Instr} {h : Header} {m : Command} (carries : carried c = some (h, m))
    (free : s.fetchingRing = none) : exec c s = .next s := by
  rw [exec_carried carries, commandFetched, endFetch_none _ free]

theorem writeEnd_none {s : State} {k : NoticeRingId} (e : WriteEnd) (stale : s.notices[k].stale = none)
    (queue : s.notices[k].queue = []) : exec (.writeEnd k e) s = .next s := by
  show execWriteEnd k e s = _
  simp only [execWriteEnd, stale, queue]

theorem setupReadEnd_none {s : State} {i : Nat} (e : SetupEnd) (read : s.control.setupReads[i]? = none) :
    exec (.setupReadEnd i e) s = .next s := by
  show execSetupReadEnd i e s = _
  simp only [execSetupReadEnd, read]

theorem workEnd_none {s : State} (work : s.resolver.work = none) : exec .workEnd s = .next s := by
  show execWorkEnd s = _
  simp only [execWorkEnd, work]

theorem take_none {s : State} (h : s.resolver.work.isSome = true ∨ s.resolver.queue = []) :
    exec .take s = .next s := by
  show execTake s = _
  unfold execTake
  split
  · simp_all
  all_goals rfl

/-! ### Seconds, samples, deadlines and holdoffs -/

theorem secondBoundary_none {s : State} (due : s.time.dueBoundaries = []) : exec .secondBoundary s = .next s := by
  show execSecondBoundary s = _
  simp only [execSecondBoundary, due]

theorem sample_off {s : State} {c : CaptureId} (v : Level) (off : s.capture.lines[c].sampling = none) :
    exec (.sample c v) s = .next s := by
  show execSample c v s = _
  simp only [execSample, off]

theorem sample_not_due {s : State} {c : CaptureId} {p : Sampling} (v : Level)
    (sampling : s.capture.lines[c].sampling = some p) (h : p.spent = true ∨ s.time.timebase.toNat < p.next.toNat) :
    exec (.sample c v) s = .next s := by
  have due : p.due s.time = false := by
    obtain spent | early := h
    · simp [Sampling.due, spent]
    · simp [Sampling.due, TimeUnit.reached, early]
  show execSample c v s = _
  simp only [execSample, sampling, due, Bool.false_eq_true, if_false]

theorem deadline_early {s : State} {r : CommandRingId} {w : WaitInFlight} {d : Tick}
    (wait : s.intake.rings[r].wait = some w) (deadline : w.deadline = some d)
    (early : s.time.timebase.toNat < d.toNat) : exec (.deadlineExpiry r) s = .next s := by
  show execDeadlineExpiry r s = _
  simp only [execDeadlineExpiry, wait, deadline, TimeUnit.reached, decide_eq_true_eq, if_neg (Nat.not_le.mpr early)]

theorem deadline_none {s : State} {r : CommandRingId}
    (h : s.intake.rings[r].wait = none ∨ ∃ w, s.intake.rings[r].wait = some w ∧ w.deadline = none) :
    exec (.deadlineExpiry r) s = .next s := by
  show execDeadlineExpiry r s = _
  obtain wait | ⟨w, wait, deadline⟩ := h
  · simp only [execDeadlineExpiry, wait]
  · simp only [execDeadlineExpiry, wait, deadline]

theorem setNotice_self (k : NoticeRingId) (s : State) : setNotice k s.notices[k] s = s := by
  rw [setNotice, show s.notices[k] = s.notices[k.val] from rfl, Vector.set_getElem_self]

/-- A ring that is not ready, re-evaluated before its holdoff or with no unreleased record, is not ready (R135). -/
theorem evalReady_not_ready {s : State} {k : NoticeRingId} (was : s.notices[k].ready = false)
    (is : s.notices[k].isReady s.time = false) : evalReady k s = s := by
  have same : { s.notices[k] with ready := s.notices[k].isReady s.time } = s.notices[k] := by rw [is, ← was]
  rw [evalReady, same, setNotice_self]

theorem isReady_none {x : NoticeRing} (u : TimeUnit) (written : x.written = []) : x.isReady u = false := by
  unfold NoticeRing.isReady NoticeRing.oldest
  rw [written]
  cases x.config <;> rfl

theorem isReady_early {x : NoticeRing} {u : TimeUnit} {c : NoticeConfig} {o : Tick} {l : List Tick}
    (config : x.config = some c) (written : x.written = o :: l) (few : x.written.length < c.threshold)
    (early : u.timebase.toNat < min (o.toNat + c.holdoff) (2 ^ 64 - 1)) : x.isReady u = false := by
  have oldest : x.oldest = some o := by rw [NoticeRing.oldest, written]; rfl
  simp only [NoticeRing.isReady, config, oldest, NoticeRing.unreleased, TimeUnit.reached, satTick_toNat]
  exact Bool.or_eq_false_iff.mpr ⟨decide_eq_false (Nat.not_le.mpr few), decide_eq_false (Nat.not_le.mpr early)⟩

theorem holdoff_not_due {s : State} {k : NoticeRingId}
    (h : s.notices[k].ready = true ∨ s.notices[k].ready = false ∧ s.notices[k].isReady s.time = false) :
    exec (.holdoffExpiry k) s = .next s := by
  show execHoldoffExpiry k s = _
  obtain ready | ⟨was, is⟩ := h
  · rw [execHoldoffExpiry, if_pos ready]
  · rw [execHoldoffExpiry, was, if_neg Bool.false_ne_true, evalReady_not_ready was is]

/-- Settles O51, happening by happening. -/
theorem nothingHappensBeforeItsTime : Obligations.NothingHappensBeforeItsTime := by
  intro s
  refine ⟨fun h => firing_not_due (dueHead_not_due h), fun _ _ _ _ mode early => pulseEnd_early mode early,
    fun _ _ _ _ _ _ mode early => density_early mode early,
    fun _ => ⟨pulseEnd_not_pulsing, density_not_density⟩,
    fun _ _ _ _ _ _ mode inside => frameStart_inside_frame mode inside,
    fun _ _ _ carries free => carried_none carries free, secondBoundary_none, fun _ v _ off => sample_off v off,
    fun _ v _ sampling h => sample_not_due v sampling h, fun _ _ _ wait deadline early => deadline_early wait deadline early,
    fun _ h => deadline_none h, fun k h => holdoff_not_due (h.imp_right fun ⟨was, h⟩ => ⟨was, ?_⟩),
    fun e p free => fetchEnd_none e p free, fun _ e stale queue => writeEnd_none e stale queue,
    fun _ e read => setupReadEnd_none e read, workEnd_none, take_none⟩
  obtain written | ⟨c, o, l, config, written, few, early⟩ := h
  · exact isReady_none s.time written
  · exact isReady_early config written few early

end Sys2Proof.Machine
end

section
/-! Entry to HALTED, and the resume that marks the overdue entries (R39 to R41, R68, R69, R116, R159, R165 to R167). -/

namespace Sys2Proof.Machine

open Sys2Proof

/-! ### System notices -/

/-- A system offer while RUNNING, of a notice that is posted as it is offered (R129). -/
theorem offerSystem_running {b : SystemBody} {s : State} (running : s.control.core = .running)
    (plain : atPosting { body := b, tick := s.time.timebase } s = { body := b, tick := s.time.timebase }) :
    offerSystem b s =
      setNotice 0
        (if s.notices[(0 : NoticeRingId)].takesOffer then
          s.notices[(0 : NoticeRingId)].takePlace (.system { body := b, tick := s.time.timebase } 0)
         else
          { s.notices[(0 : NoticeRingId)] with
            deferred := deferSystem { body := b, tick := s.time.timebase } s.notices[(0 : NoticeRingId)].deferred }) s := by
  cases takes : s.notices[(0 : NoticeRingId)].takesOffer with
  | true => rw [offerSystem_posted b running takes, plain, if_pos rfl]
  | false => rw [offerSystem_deferred b running takes, if_neg Bool.false_ne_true]

/-! ### Entry to HALTED -/

theorem halted_iff (s : State) :
    s.halted = true ↔ s.control.core = .running ∧ (s.control.software = true ∨ s.control.pin = true) := by
  simp [State.halted, Control.causeLatched]

theorem haltEffect_eq (x : Line) :
    x.haltEffect = if x.mode = .disabled then x else { safe := x.safe, mode := .held x.safe } := by
  unfold Line.haltEffect Line.enabled
  by_cases h : x.mode = .disabled <;> simp [h]

/-- What entry to HALTED does, block by block (R68, R116, R166). -/
theorem enterHalted_eq {s : State} (running : s.control.core = .running) {n : SystemNotice}
    (hn : n = { body := .halted s.control.software s.control.pin, tick := s.time.timebase }) :
    enterHalted s =
      setNotice 0
        (if s.notices[(0 : NoticeRingId)].takesOffer then s.notices[(0 : NoticeRingId)].takePlace (.system n 0)
         else { s.notices[(0 : NoticeRingId)] with deferred := deferSystem n s.notices[(0 : NoticeRingId)].deferred })
        { s with lines := s.lines.map Line.haltEffect, capture := { s.capture with suppressed := true } } := by
  subst hn
  exact offerSystem_running (s := { s with lines := s.lines.map Line.haltEffect
                                           capture := { s.capture with suppressed := true } }) running rfl

/-- Entry to HALTED leaves every enabled line HELD at its safe level (R68). -/
theorem enterHalted_line (s : State) (l : LineId) :
    (enterHalted s).lines[l] =
      if s.lines[l].mode = .disabled then s.lines[l] else { safe := s.lines[l].safe, mode := .held s.lines[l].safe } := by
  rw [← haltEffect_eq]
  have lines : (enterHalted s).lines = s.lines.map Line.haltEffect := by simp [enterHalted, haltLines]
  rw [lines]
  simp

theorem latch_enters {s : State} (f : Control → Control) (running : s.control.core = .running)
    (software : s.control.software = false) (pin : s.control.pin = false) :
    latch f s = enterHalted { s with control := f s.control } := by
  rw [latch, if_pos ⟨running, by rw [Control.causeLatched, software, pin]; rfl⟩]

theorem latch_alone {s : State} (f : Control → Control)
    (h : s.control.core ≠ .running ∨ s.control.software = true ∨ s.control.pin = true) :
    latch f s = { s with control := f s.control } := by
  refine if_neg fun ⟨running, quiet⟩ => ?_
  rw [Control.causeLatched, Bool.or_eq_false_iff] at quiet
  obtain core | software | pin := h
  · exact core running
  · exact Bool.noConfusion (software.symm.trans quiet.1)
  · exact Bool.noConfusion (pin.symm.trans quiet.2)

theorem exec_halt {s : State} (live : s.control.resetAsserted = false) :
    exec .halt s = .next (latch (fun c => { c with software := true }) s) := by
  show Host.Outcome.next (hostWrite controlHalt s) = _
  rw [hostWrite, live, if_neg Bool.false_ne_true]
  rfl

theorem exec_haltInAssert {s : State} (live : s.control.resetAsserted = false) (released : s.control.haltIn = false) :
    exec .haltInAssert s = .next (latch (fun c => { c with haltIn := true, pin := true }) s) := by
  show execHaltInAssert s = _
  rw [execHaltInAssert, released, live, if_neg Bool.false_ne_true, if_neg Bool.false_ne_true]

/-- `s` with halt causes as a first cause latches them: PIN with the level of HALT_IN, SOFTWARE without (R165). -/
def State.latched (software pin : Bool) (s : State) : State :=
  { s with control := { s.control with software := software, pin := pin, haltIn := s.control.haltIn || pin } }

/-- The first cause of a RUNNING controller, whichever it is (R159, R166). -/
theorem firstCause_enters {c : Instr} {s : State} {software pin : Bool} (running : s.control.core = .running)
    (noSoftware : s.control.software = false) (noPin : s.control.pin = false) (live : s.control.resetAsserted = false)
    (cause : (c = .halt ∧ software = true ∧ pin = false) ∨
      (c = .haltInAssert ∧ s.control.haltIn = false ∧ software = false ∧ pin = true)) :
    exec c s = .next (enterHalted (s.latched software pin)) := by
  obtain ⟨rfl, rfl, rfl⟩ | ⟨rfl, released, rfl, rfl⟩ := cause
  · rw [exec_halt live, latch_enters _ running noSoftware noPin]
    simp only [State.latched, noPin, Bool.or_false]
  · rw [exec_haltInAssert live released, latch_enters _ running noSoftware noPin]
    simp only [State.latched, noSoftware, Bool.or_true]

/-- Settles O35: the first cause by the entry to HALTED, the others by what they latch. -/
theorem entryToHalted : Obligations.EntryToHalted := by
  refine ⟨fun c s software pin n running noSoftware noPin live cause hn => ?_, fun s => ⟨fun live h => ⟨?_, fun released => ?_⟩,
    fun asserted => ?_, rfl, halted_iff s, fun asserted => ?_, fun live => ?_⟩⟩
  · have entered := enterHalted_eq (s := s.latched software pin) running hn
    refine ⟨_, firstCause_enters running noSoftware noPin live cause, ?_, ?_, enterHalted_line _, ?_, ?_⟩
    · rw [entered]
      rfl
    · have latched : software = true ∨ pin = true := cause.imp (fun h => h.2.1) fun h => h.2.2.2
      rw [halted_iff, entered]
      exact ⟨running, latched⟩
    · rw [entered, setNotice_get, if_neg (by decide)]
      rfl
    · rw [entered, setNotice_get, if_pos rfl]
      rfl
  · rw [exec_halt live, latch_alone _ h]
  · rw [exec_haltInAssert live released, latch_alone _ h]
  · show execHaltInAssert s = _
    rw [execHaltInAssert, asserted, if_pos rfl]
    split
    · rename_i same
      congr 1
      ext1 <;> simp [← same]
    · rfl
  · show execHaltInAssert s = _
    rw [execHaltInAssert, if_pos asserted]
  · show execResetNRelease s = _
    rw [execResetNRelease, live, if_neg Bool.false_ne_true]

/-! ### Resumes -/

theorem exec_resume {s : State} (m : ResumeMode) (live : s.control.resetAsserted = false) :
    exec (.resume m) s = .next (resumeAlone m s) := by
  show Host.Outcome.next (hostWrite (resumeAlone m) s) = _
  rw [hostWrite, live, if_neg Bool.false_ne_true]

/-- A RESUME of a HALTED controller with HALT_IN released (R167). -/
theorem exec_resume_halted {s : State} (m : ResumeMode) (live : s.control.resetAsserted = false)
    (released : s.control.haltIn = false) (halted : s.halted = true) :
    exec (.resume m) s = .next (settle (leaveHalted m s)) := by
  rw [exec_resume m live, resumeAlone, if_pos (by rw [State.resumes, halted, released]; rfl), controlResume, released,
    if_neg Bool.false_ne_true, if_pos halted]

/-- The offer of the RESUMED notice, before the timeline takes the resume (R167). -/
theorem offerResumed_eq {s : State} {m : ResumeMode} (halted : s.halted = true) {n : SystemNotice}
    (hn : n = { body := .resumed m, tick := s.time.timebase }) :
    offerSystem (.resumed m) (clearCauses s) =
      setNotice 0
        (if s.notices[(0 : NoticeRingId)].takesOffer then s.notices[(0 : NoticeRingId)].takePlace (.system n 0)
         else { s.notices[(0 : NoticeRingId)] with deferred := deferSystem n s.notices[(0 : NoticeRingId)].deferred })
        { s with control := { s.control with software := false, pin := false } } := by
  subst hn
  exact offerSystem_running (s := clearCauses s) ((halted_iff s).mp halted).1 rfl

/-- Settles O36: the refusal, the clearing of the causes, and the marks of a CATCHUP resume. -/
theorem resumeClearsTheCauses : Obligations.ResumeClearsTheCauses := by
  refine fun m s live => ⟨fun asserted => ?_, fun released notHalted => ?_, fun n released halted catchup hn => ?_⟩
  · rw [exec_resume m live, resumeAlone, if_neg (by rw [State.resumes, asserted]; simp), controlResume, if_pos asserted]
  · rw [exec_resume m live, resumeAlone, if_neg (by rw [State.resumes, notHalted]; simp), controlResume, released,
      if_neg Bool.false_ne_true, notHalted, if_neg Bool.false_ne_true]
    rfl
  · subst catchup
    refine ⟨_, exec_resume_halted .catchup live released halted, ?_⟩
    convert settle_arbiterOnly (leaveHalted .catchup s) using 1
    simp only [leaveHalted, resumeTimeline, offerResumed_eq halted hn, markOverdue, TimeUnit.reached, decide_eq_true_eq]
    rfl

end Sys2Proof.Machine
end

section
/-! DISCARD processing: what a resume that discards leaves of the timeline and of the slots (R40, R42 to R44, R69,
R167). -/

namespace Sys2Proof.Machine

open Sys2Proof

/-! ### The next expiry lies beyond the resume tick -/

theorem skipRule_next {p e f : Nat} {left : Option Nat} {x : Tick} (period : p ≠ 0)
    (next : (skipRule p e f left).next = some x) : f < x.toNat := by
  have above : f < e + ((f - e) / p + 1) * p := by
    have := Nat.lt_mul_div_succ (f - e) (Nat.pos_of_ne_zero period)
    rw [Nat.mul_comm] at this
    omega
  have beyond : ∀ n : Nat, f < n → ¬Config.maxTick < n → some (BitVec.ofNat 64 n) = some x → f < x.toNat := by
    rintro n above range eq
    cases eq
    rw [BitVec.toNat_ofNat, Nat.mod_eq_of_lt (by simp only [Config.maxTick] at range; omega)]
    exact above
  unfold skipRule at next
  dsimp only at next
  split at next
  · split at next
    · cases next
    · split at next
      · cases next
      · exact beyond _ above ‹_› next
  · split at next
    · cases next
    · exact beyond _ above ‹_› next

theorem continuation_next {t : Timing} {left : Option Nat} {e f : Nat} {x : Tick}
    (next : (continuation t left e f).next = some x) : f < x.toNat := by
  unfold continuation at next
  split at next
  · cases next
  · split at next
    · cases next
    · rename_i more
      exact skipRule_next (fun h => more (.inl h)) next

/-! ### The timeline under DISCARD -/

/-- What the conclusion of a run does to the timeline: nothing, or the insertion of the next expiry (R35). -/
theorem conclude_timeline (i : SlotId) (d : Definition) (c : Continuation) (s : State) :
    (conclude i d c s).timeline = s.timeline ∨
      ∃ n, c.next = some n ∧ (conclude i d c s).timeline = (arm i n s).timeline := by
  unfold conclude
  split
  · split
    · exact .inl (by simp)
    · split <;> exact .inl (by simp)
  · split
    · rename_i n next
      exact .inr ⟨n, next, rfl⟩
    · exact .inl (by simp)

theorem mem_arm_entries {i : SlotId} {n : Tick} {s : State} {y : Entry} :
    y ∈ (arm i n s).timeline.entries ↔
      y = { slot := i, expiry := n, sequence := s.timeline.nextSequence, haltedOver := false } ∨
        y ∈ s.timeline.entries := by
  rw [arm_timeline]
  exact mem_insertEntry

theorem passOver_timeline (x : Entry) (v : Event) (s : State) :
    (passOver x v s).timeline =
      (conclude x.slot v.defn (v.continuationAt x s.time.timebase)
        (setEvent x.slot (v.passedOver (v.continuationAt x s.time.timebase)) s)).timeline := by
  unfold passOver
  dsimp only
  split
  · simp
  · rfl

theorem mem_passOver {x y : Entry} {v : Event} {s : State} :
    (y ∈ (passOver x v s).timeline.entries → y ∈ s.timeline.entries ∨ s.time.timebase.toNat < y.expiry.toNat) ∧
      (y ∈ s.timeline.entries → y ∈ (passOver x v s).timeline.entries) := by
  rw [passOver_timeline]
  obtain same | ⟨n, next, armed⟩ := conclude_timeline x.slot v.defn (v.continuationAt x s.time.timebase)
    (setEvent x.slot (v.passedOver (v.continuationAt x s.time.timebase)) s)
  · rw [same]
    exact ⟨.inl, id⟩
  · rw [armed, mem_arm_entries]
    refine ⟨fun h => ?_, .inr⟩
    obtain rfl | h := h
    · exact .inr (continuation_next next)
    · exact .inl h

theorem mem_removeEntry {i : SlotId} {s : State} {y : Entry} :
    y ∈ (removeEntry i s).timeline.entries ↔ y ∈ s.timeline.entries ∧ y.slot ≠ i := by
  simp [removeEntry]

/-- One overdue entry under DISCARD: the entries of its slot are gone, and one that takes its place lies beyond the
resume tick. -/
theorem mem_discardEntry {x y : Entry} {s : State} :
    (y ∈ (discardEntry s x).timeline.entries →
        (y ∈ s.timeline.entries ∧ y.slot ≠ x.slot) ∨ s.time.timebase.toNat < y.expiry.toNat) ∧
      (y ∈ s.timeline.entries ∧ y.slot ≠ x.slot → y ∈ (discardEntry s x).timeline.entries) := by
  rw [← mem_removeEntry]
  unfold discardEntry
  split
  · exact mem_passOver
  · exact ⟨.inl, id⟩

/-- The overdue entries one by one: the entries of their slots are gone, and those that take their places lie beyond
the resume tick (R42). -/
theorem mem_discardEntries {l : List Entry} {y : Entry} {s : State} :
    (y ∈ (l.foldl discardEntry s).timeline.entries →
        (y ∈ s.timeline.entries ∧ ∀ x ∈ l, y.slot ≠ x.slot) ∨ s.time.timebase.toNat < y.expiry.toNat) ∧
      ((y ∈ s.timeline.entries ∧ ∀ x ∈ l, y.slot ≠ x.slot) → y ∈ (l.foldl discardEntry s).timeline.entries) := by
  induction l generalizing s with
  | nil => exact ⟨fun h => .inl ⟨h, by simp⟩, fun h => h.1⟩
  | cons x l ih =>
    have tick : (discardEntry s x).time = s.time := by simp
    obtain ⟨left, kept⟩ := ih (s := discardEntry s x)
    rw [tick] at left
    simp only [List.forall_mem_cons, List.foldl_cons]
    refine ⟨fun h => ?_, fun ⟨mem, own, others⟩ => kept ⟨mem_discardEntry.2 ⟨mem, own⟩, others⟩⟩
    obtain ⟨mem, others⟩ | beyond := left h
    · exact (mem_discardEntry.1 mem).imp_left fun ⟨mem, own⟩ => ⟨mem, own, others⟩
    · exact .inr beyond

/-! ### The slots under DISCARD -/

/-- What DISCARD processing leaves of a slot: its generation, its definition and its firings done (R42, R69). -/
def Slot.tally (x : Slot) : BitVec 8 × Option (Definition × Nat) :=
  (x.generation, x.event.map fun e => (e.defn, e.firingsDone))

/-- Every slot keeps its generation, its definition and its firings done. -/
def Uncounted (s t : State) : Prop := ∀ i : SlotId, t.slots[i].tally = s.slots[i].tally

theorem Uncounted.refl (s : State) : Uncounted s s := fun _ => rfl

theorem Uncounted.trans {s t u : State} (a : Uncounted s t) (b : Uncounted t u) : Uncounted s u :=
  fun i => (b i).trans (a i)

theorem Uncounted.of_slots {s t : State} (h : t.slots = s.slots) : Uncounted s t := fun _ => by rw [h]

theorem setSlot_uncounted {i : SlotId} {x : Slot} {s : State} (h : x.tally = s.slots[i].tally) :
    Uncounted s (setSlot i x s) := fun j => by
  rw [setSlot_get]
  split
  · rename_i same
    rw [same, h]
  · rfl

theorem setRun_uncounted (i : SlotId) (r : Run) (s : State) : Uncounted s (setRun i r s) := by
  unfold setRun
  split
  · rename_i e he
    exact setSlot_uncounted (by simp only [Slot.tally, he, Option.map_some])
  · exact .refl s

theorem conclude_uncounted (i : SlotId) (d : Definition) (c : Continuation) (s : State) :
    Uncounted s (conclude i d c s) := by
  have dormant : ∀ t : State, Uncounted t (enterDormant i t) := fun t =>
    (setRun_uncounted i .dormant t).trans (.of_slots (by simp [enterDormant]))
  unfold conclude
  split
  · split
    · exact (setRun_uncounted i .waiting s).trans (.of_slots (by simp))
    · split
      · exact (Uncounted.of_slots (by simp)).trans (dormant (dropStarted s))
      · exact dormant s
  · split
    · exact setRun_uncounted i _ { s with timeline := _ }
    · exact (setRun_uncounted i .resolving s).trans (.of_slots (by simp))

theorem offerFiring_uncounted (k : NoticeRingId) (i : SlotId) (p : FiringReport) (s : State) :
    Uncounted s (offerFiring k i p s) := by
  unfold offerFiring
  split
  · exact .refl s
  · exact setSlot_uncounted rfl

theorem discardEntry_uncounted (x : Entry) (s : State) : Uncounted s (discardEntry s x) := by
  unfold discardEntry
  split
  · rename_i v hv
    have concluded : ∀ c, Uncounted s
        (conclude x.slot v.defn c (setEvent x.slot (v.passedOver c) (removeEntry x.slot s))) := fun c =>
      (setSlot_uncounted (by simp only [Slot.tally, hv, Option.map_some]; rfl)).trans (conclude_uncounted _ _ _ _)
    unfold passOver
    dsimp only
    split
    · exact (concluded _).trans (offerFiring_uncounted _ _ _ _)
    · exact concluded _
  · exact .refl s

theorem discardEntries_uncounted (l : List Entry) (s : State) : Uncounted s (l.foldl discardEntry s) := by
  induction l generalizing s with
  | nil => exact .refl s
  | cons x l ih => exact (discardEntry_uncounted x s).trans (ih _)

/-! ### The resume -/

theorem discardEntry_eq {s : State} {x : Entry} {v : Event} (event : s.slots[x.slot].event = some v) :
    discardEntry s x =
      if v.defn.policy = .every ∨ (v.defn.policy = .last ∧ (v.continuationAt x s.time.timebase).last = true) then
        offerFiring v.defn.ring x.slot (missedReport x s.time.timebase (v.continuationAt x s.time.timebase))
          (conclude x.slot v.defn (v.continuationAt x s.time.timebase)
            (setEvent x.slot (v.passedOver (v.continuationAt x s.time.timebase)) (removeEntry x.slot s)))
      else
        conclude x.slot v.defn (v.continuationAt x s.time.timebase)
          (setEvent x.slot (v.passedOver (v.continuationAt x s.time.timebase)) (removeEntry x.slot s)) := by
  simp only [discardEntry, event, passOver, wants_iff]
  rfl

/-- A DISCARD resume: the RESUMED notice, the overdue entries one by one, the end of the suppression (R40, R42, R167). -/
theorem leaveHalted_discard {s u : State}
    (offered : offerSystem (.resumed .discard) (clearCauses s) = u) :
    leaveHalted .discard s =
      { (u.timeline.entries.filter fun x => x.expiry.toNat ≤ u.time.timebase.toNat).foldl discardEntry u with
        capture :=
          { ((u.timeline.entries.filter fun x => x.expiry.toNat ≤ u.time.timebase.toNat).foldl discardEntry u).capture
            with suppressed := false } } := by
  simp only [leaveHalted, offered]
  rfl

/-- Settles O37: the entries and slots through the fold over the overdue entries, then one entry whole. -/
theorem discardPassesOverEntries : Obligations.DiscardPassesOverEntries := by
  refine ⟨fun s u v n live released halted hn hu hv => ?_, fun s u x v c event hc hu => ?_⟩
  · have offered := (offerResumed_eq halted hn).trans hu.symm
    have time : u.time = s.time := by rw [hu]; rfl
    have timeline : u.timeline = s.timeline := by rw [hu]; rfl
    have discarded := leaveHalted_discard offered
    rw [timeline, time, ← hv] at discarded
    have exec := exec_resume_halted .discard live released halted
    rw [discarded] at exec
    have left : ∀ i : SlotId, v.slots[i].tally = s.slots[i].tally := by
      rw [hv]
      exact (Uncounted.of_slots (by rw [hu]; rfl)).trans (discardEntries_uncounted _ u)
    refine ⟨_, exec, settle_arbiterOnly _, ?_, by simp, fun x hx => ?_, fun x hx later => ?_, fun i => ?_⟩
    · ext1 <;> simp [hv, hu]
    · simp only [settle_frame, hv] at hx
      obtain ⟨mem, others⟩ | beyond := mem_discardEntries.1 hx
      · by_contra overdue
        rw [timeline] at mem
        exact others x (List.mem_filter.mpr ⟨mem, by simpa using overdue⟩) rfl
      · rwa [time] at beyond
    · simp only [settle_frame, hv]
      refine mem_discardEntries.2 ⟨by rwa [timeline], fun y hy same => ?_⟩
      obtain ⟨mem, overdue⟩ := List.mem_filter.mp hy
      exact Nat.not_lt.mpr (of_decide_eq_true overdue) (later y mem same.symm)
    · simp only [settle_frame]
      exact Prod.mk.inj (left i)
  · subst hc hu
    exact discardEntry_eq event

end Sys2Proof.Machine
end

section
/-! The end of the setup read: the block as it is read, and the load that it decides (R27, R118, R140, R162 to R166,
R174, R177). -/

namespace Sys2Proof.Machine

open Sys2Proof

/-! ### The fields of a setup block -/

theorem fieldAt_toNat {w : Nat} (x : BitVec w) (o n : Nat) :
    (fieldAt x o (8 * n) : BitVec (8 * n)).toNat = recordField x o n := by
  rw [fieldAt, recordField, BitVec.extractLsb'_toNat, Nat.shiftRight_eq_div_pow]

theorem fieldAt_byte {w : Nat} (x : BitVec w) (o : Nat) : (fieldAt x o 8 : Byte).toNat = recordField x o 1 :=
  fieldAt_toNat x o 1

theorem fieldAt_half {w : Nat} (x : BitVec w) (o : Nat) : (fieldAt x o 16 : BitVec 16).toNat = recordField x o 2 :=
  fieldAt_toNat x o 2

theorem fieldAt_word {w : Nat} (x : BitVec w) (o : Nat) : (fieldAt x o 32 : BitVec 32).toNat = recordField x o 4 :=
  fieldAt_toNat x o 4

theorem fieldAt_double {w : Nat} (x : BitVec w) (o : Nat) : (fieldAt x o 64 : BitVec 64).toNat = recordField x o 8 :=
  fieldAt_toNat x o 8

theorem ringSizeOf_iff {n m : Nat} :
    ringSizeOf n = some m ↔ m = n ∧ m ∈ [16, 32, 64, 128, 256, 512, 1024, 2048, 4096] := by
  rw [ringSizeOf, Option.ite_none_right_eq_some, Option.some.injEq]
  exact ⟨fun ⟨h, e⟩ => ⟨e.symm, e ▸ h⟩, fun ⟨e, h⟩ => ⟨e ▸ h, e.symm⟩⟩

theorem noticeRingOf_iff {b : Byte} {k : NoticeRingId} : noticeRingOf b = some k ↔ k.val = b.toNat := by
  unfold noticeRingOf
  split
  · subst b
    exact ⟨fun h => by cases h; rfl, fun h => congrArg some (Fin.ext h.symm)⟩
  · split
    · subst b
      exact ⟨fun h => by cases h; rfl, fun h => congrArg some (Fin.ext h.symm)⟩
    · exact ⟨nofun, fun h => by bv_omega⟩

theorem choiceOf_iff {b : Byte} {v : Bool} : choiceOf b = some v ↔ b.toNat = if v then 1 else 0 := by
  have value : (b.toNat = if v then 1 else 0) ↔ b = if v then 1 else 0 := by
    cases v <;> simp [BitVec.toNat_eq]
  rw [value, choiceOf]
  cases v <;> grind

/-! ### Ring descriptors -/

/-- The descriptor at byte offset `o` of a setup block is that of command ring configuration `c`, and it is valid
(Table 10-14, R163, R177). -/
def CommandConfig.ReadAt (b : SetupBlock) (o : Nat) (c : CommandConfig) : Prop :=
  c.base.toNat = recordField b o 8 ∧ recordField b o 8 % 64 = 0 ∧ c.size = recordField b (o + 0x08) 2 ∧
  c.size ∈ [16, 32, 64, 128, 256, 512, 1024, 2048, 4096] ∧ c.bound.val = recordField b (o + 0x0A) 1 ∧
  c.burst = recordField b (o + 0x0B) 1 ∧ 1 ≤ c.burst ∧ c.burst ≤ 8 ∧
  recordField b (o + 0x0C) 1 = if c.enabled then 1 else 0

/-- The descriptor at byte offset `o` of a setup block is that of notice ring configuration `c`, and it is valid
(Table 10-14, R163, R177). -/
def NoticeConfig.ReadAt (b : SetupBlock) (o : Nat) (c : NoticeConfig) : Prop :=
  c.base.toNat = recordField b o 8 ∧ recordField b o 8 % 32 = 0 ∧ c.size = recordField b (o + 0x08) 2 ∧
  c.size ∈ [16, 32, 64, 128, 256, 512, 1024, 2048, 4096] ∧ c.threshold = recordField b (o + 0x0A) 2 ∧
  1 ≤ c.threshold ∧ c.threshold ≤ c.size ∧ c.holdoff = recordField b (o + 0x0C) 4 ∧ c.holdoff ≤ 2 ^ 24 ∧
  recordField b (o + 0x10) 1 = if c.enabled then 1 else 0

theorem commandConfigAt_iff {b : SetupBlock} {o : Nat} {c : CommandConfig} :
    commandConfigAt b o = some c ↔ c.ReadAt b o := by
  obtain ⟨base, size, bound, burst, enabled⟩ := c
  simp only [commandConfigAt, CommandConfig.ReadAt, Option.ite_none_right_eq_some, Option.bind_eq_some_iff,
    Option.map_eq_some_iff, ringSizeOf_iff, noticeRingOf_iff, choiceOf_iff, fieldAt_byte, fieldAt_half, fieldAt_double,
    CommandConfig.mk.injEq]
  constructor
  · rintro ⟨⟨aligned, one, eight⟩, _, ⟨size, listed⟩, _, bound, _, enabled, rfl, rfl, rfl, rfl, rfl⟩
    exact ⟨fieldAt_double b o, aligned, size, listed, bound, rfl, one, eight, enabled⟩
  · rintro ⟨base, aligned, size, listed, bound, rfl, one, eight, enabled⟩
    exact ⟨⟨aligned, one, eight⟩, _, ⟨size, listed⟩, _, bound, _, enabled,
      BitVec.eq_of_toNat_eq ((fieldAt_double b o).trans base.symm), rfl, rfl, rfl, rfl⟩

theorem noticeConfigAt_iff {b : SetupBlock} {o : Nat} {c : NoticeConfig} :
    noticeConfigAt b o = some c ↔ c.ReadAt b o := by
  obtain ⟨base, size, threshold, holdoff, enabled⟩ := c
  simp only [noticeConfigAt, NoticeConfig.ReadAt, Option.ite_none_right_eq_some, Option.bind_eq_some_iff,
    Option.map_eq_some_iff, ringSizeOf_iff, choiceOf_iff, fieldAt_byte, fieldAt_half, fieldAt_word, fieldAt_double,
    NoticeConfig.mk.injEq]
  constructor
  · rintro ⟨_, ⟨size, listed⟩, ⟨aligned, one, most, bounded⟩, _, enabled, rfl, rfl, rfl, rfl, rfl⟩
    exact ⟨fieldAt_double b o, aligned, size, listed, rfl, one, most, rfl, bounded, enabled⟩
  · rintro ⟨base, aligned, size, listed, rfl, one, most, rfl, bounded, enabled⟩
    exact ⟨_, ⟨size, listed⟩, ⟨aligned, one, most, bounded⟩, _, enabled,
      BitVec.eq_of_toNat_eq ((fieldAt_double b o).trans base.symm), rfl, rfl, rfl, rfl⟩

/-- A setup block is valid when its six descriptors are (R163). -/
theorem setupConfigOf_iff {b : SetupBlock} {c : SetupConfig} :
    setupConfigOf b = some c ↔
      (∀ r : CommandRingId, (c.commands[r]).ReadAt b (16 * r.val)) ∧
      (∀ k : NoticeRingId, (c.notices[k]).ReadAt b (0x40 + 24 * k.val)) ∧ c.lateThreshold = recordField b 0x70 2 := by
  simp only [← commandConfigAt_iff, ← noticeConfigAt_iff, ← fieldAt_half, setupConfigOf, Option.bind_eq_some_iff,
    Option.map_eq_some_iff]
  constructor
  · rintro ⟨c0, h0, c1, h1, c2, h2, c3, h3, n0, g0, n1, g1, rfl⟩
    exact ⟨fun | 0 => h0 | 1 => h1 | 2 => h2 | 3 => h3, fun | 0 => g0 | 1 => g1, rfl⟩
  · rintro ⟨commands, notices, late⟩
    refine ⟨_, commands 0, _, commands 1, _, commands 2, _, commands 3, _, notices 0, _, notices 1, ?_⟩
    obtain ⟨cs, ns, l⟩ := c
    rw [SetupConfig.mk.injEq]
    refine ⟨Vector.ext fun i hi => ?_, Vector.ext fun i hi => ?_, late.symm⟩
    · match i, hi with
      | 0, _ | 1, _ | 2, _ | 3, _ => rfl
    · match i, hi with
      | 0, _ | 1, _ => rfl

/-! ### The load -/

/-- A command ring as a load leaves it (R140, R162). -/
theorem commandRing_fresh_eq (c : CommandConfig) (x : CommandRing) :
    x.fresh (some c) =
      { CommandRing.reset with
        config := some c, state := if c.enabled then .active else .disabled
        fetch := x.fetch.map fun f => { f with discarded := true } } := rfl

/-- A notice ring as a load leaves it (R118, R138, R162). -/
theorem noticeRing_fresh_eq (c : NoticeConfig) (x : NoticeRing) :
    x.fresh (some c) =
      { NoticeRing.reset with
        config := some c, state := if c.enabled then .active else .disabled
        stale := if x.stale = none then x.queue.head? else x.stale } := by
  rw [NoticeRing.fresh, NoticeRing.inFlight]
  cases x.stale <;> rfl

theorem fresh_takesOffer_iff (c : NoticeConfig) (x : NoticeRing) :
    (x.fresh (some c)).takesOffer = true ↔ c.enabled = true ∧ 0 < c.size := by
  have state : (x.fresh (some c)).state = .active ↔ c.enabled = true := by
    rw [noticeRing_fresh_eq]
    cases c.enabled <;> simp
  rw [takesOffer_iff, state]
  exact and_congr_right fun _ => ⟨And.left, fun room => ⟨room, rfl⟩⟩

/-- The fresh ring NR0 takes a system notice at place 0 if it is enabled, and else defers it (R121, R129). -/
theorem fresh_offered {c : NoticeConfig} (large : 1 < c.size) (x : NoticeRing) (n : SystemNotice) :
    (if (x.fresh (some c)).takesOffer then (x.fresh (some c)).takePlace (.system n 0)
      else { x.fresh (some c) with deferred := deferSystem n (x.fresh (some c)).deferred }) =
    if c.enabled then
      { x.fresh (some c) with
        writeIndex := 1, occupied := 1
        queue := [{ place := 0, address := c.base.toNat, phase := true, notice := .system n 0, released := false }] }
    else { x.fresh (some c) with deferred := [.system n 0] } := by
  by_cases on : c.enabled = true
  · rw [if_pos ((fresh_takesOffer_iff c x).mpr ⟨on, Nat.lt_of_succ_lt large⟩), if_pos on, NoticeRing.takePlace]
    have next : (x.fresh (some c)).writeIndex + 1 < (x.fresh (some c)).size := large
    rw [if_pos next, if_pos next]
    rfl
  · rw [if_neg (mt (fresh_takesOffer_iff c x).mp fun h => on h.1), if_neg on]
    rfl

/-- A ring of a valid setup block has more than one place (R163). -/
theorem noticeRing_size_of_valid {b : SetupBlock} {c : SetupConfig} (valid : setupConfigOf b = some c)
    (k : NoticeRingId) : 1 < (c.notices[k]).size := by
  obtain ⟨-, notices, -⟩ := setupConfigOf_iff.mp valid
  obtain ⟨-, -, -, listed, -⟩ := notices k
  simp only [List.mem_cons, List.not_mem_nil, or_false] at listed
  omega

theorem configure_ring (c : SetupConfig) (s : State) (r : CommandRingId) :
    (configure c s).intake.rings[r] = s.intake.rings[r].fresh (some c.commands[r]) := by
  simp [configure]

theorem configure_notice (c : SetupConfig) (s : State) (k : NoticeRingId) :
    (configure c s).notices[k] = s.notices[k].fresh (some c.notices[k]) := by
  simp [configure]

/-- Fresh rings hold no command, so the arbiter only ends the turn of CR3 (R140, R143). -/
theorem settle_configured {c : SetupConfig} {s t : State} (intake : t.intake = (configure c s).intake) :
    settle t = endTurn t := by
  have idle : ∀ r : CommandRingId, t.intake.rings[r].eligible = false := fun r => by
    rw [intake, configure_ring]
    exact fresh_not_eligible _ _
  rw [settle_of_none_eligible idle, noteTurn, if_neg (by rw [idle]; exact Bool.false_ne_true)]

/-- The state after the `i`-th setup read under way has left the list (log entry 17). -/
def State.readDone (i : Nat) (s : State) : State :=
  { s with control := { s.control with setupReads := s.control.setupReads.eraseIdx i } }

theorem setupReadEnd_abandoned {i : Nat} {s : State} {x : SetupRead} (e : SetupEnd)
    (read : s.control.setupReads[i]? = some x) (gone : x.abandoned = true) :
    exec (.setupReadEnd i e) s = .next (s.readDone i) := by
  show execSetupReadEnd i e s = _
  simp only [execSetupReadEnd, read, gone, if_true, State.readDone]

theorem setupReadEnd_failed {i : Nat} {e : SetupEnd} {s : State} {x : SetupRead}
    (read : s.control.setupReads[i]? = some x) (live : x.abandoned = false)
    (bad : e = .busError ∨ ∃ b, e = .good b ∧ setupConfigOf b = none) :
    exec (.setupReadEnd i e) s = .next (failSetup (s.readDone i)) := by
  have nothing : setupOf e = none := by
    obtain rfl | ⟨b, rfl, invalid⟩ := bad
    · rfl
    · exact invalid
  show execSetupReadEnd i e s = _
  simp only [execSetupReadEnd, read, live, nothing, State.readDone, Bool.false_eq_true, if_false]

theorem setupReadEnd_loaded {i : Nat} {b : SetupBlock} {c : SetupConfig} {s : State} {x : SetupRead}
    (read : s.control.setupReads[i]? = some x) (live : x.abandoned = false) (valid : setupConfigOf b = some c) :
    exec (.setupReadEnd i (.good b)) s = .next (loadSetup c (s.readDone i)) := by
  have config : setupOf (.good b) = some c := valid
  show execSetupReadEnd i (.good b) s = _
  simp only [execSetupReadEnd, read, live, config, State.readDone, Bool.false_eq_true, if_false]

theorem loadSetup_running {c : SetupConfig} {s : State} (software : s.control.software = false)
    (pin : s.control.pin = false) : loadSetup c s = endTurn (configure c s) := by
  rw [loadSetup, Control.causeLatched, software, pin, if_neg (by decide), settle_configured rfl]

theorem loadSetup_halted {c : SetupConfig} {s : State} (cause : (s.control.software || s.control.pin) = true) :
    loadSetup c s = endTurn (enterHalted (configure c s)) := by
  rw [loadSetup, Control.causeLatched, if_pos cause, settle_configured (enterHalted_frame _).2.1]

/-- Settles O45: the block by its descriptors, the load by the fresh rings that it leaves. -/
theorem setupReadDecidesTheLoad : Obligations.SetupReadDecidesTheLoad := by
  refine ⟨?_, fun b c => ?_, ?_⟩
  · rintro i e s _ x read rfl
    refine ⟨setupReadEnd_abandoned e read, setupReadEnd_failed read, ?_⟩
    rintro b c live rfl valid software pin
    refine ⟨endTurn (configure c (s.readDone i)), ?_, rfl, rfl, rfl, fun r => ?_, fun k => ?_⟩
    · rw [setupReadEnd_loaded read live valid, loadSetup_running (s := s.readDone i) software pin]
    · rw [endTurn_rings, configure_ring, commandRing_fresh_eq]
      rfl
    · exact (configure_notice c _ k).trans (noticeRing_fresh_eq _ _)
  · refine setupConfigOf_iff.trans (and_congr_right' (and_congr_left' (forall_congr' fun k => ?_)))
    match k with
    | 0 => exact Iff.rfl
    | 1 => exact Iff.rfl
  · rintro i b c s _ x n read live valid cause rfl hn
    have entered := enterHalted_eq (s := configure c (s.readDone i)) rfl hn
    refine ⟨endTurn (enterHalted (configure c (s.readDone i))), ?_, ?_, ?_, ?_, ?_, fun r => ?_, fun l => ?_, fun k => ?_⟩
    · rw [setupReadEnd_loaded read live valid, loadSetup_halted (s := s.readDone i) cause]
    · rw [entered]
      exact (halted_iff _).mpr ⟨rfl, Bool.or_eq_true_iff.mp cause⟩
    · rw [entered]
      rfl
    · rw [entered]
      rfl
    · rw [entered]
      rfl
    · rw [endTurn_rings, (enterHalted_frame _).2.1, configure_ring, commandRing_fresh_eq]
      rfl
    · exact enterHalted_line (configure c (s.readDone i)) l
    · refine ⟨_, rfl, ?_⟩
      have notice : (endTurn (enterHalted (configure c (s.readDone i)))).notices[k] =
          (enterHalted (configure c (s.readDone i))).notices[k] := rfl
      rw [notice, entered, setNotice_get]
      split
      · rename_i zero
        subst zero
        rw [configure_notice, fresh_offered (noticeRing_size_of_valid valid 0), noticeRing_fresh_eq]
        rfl
      · exact (configure_notice c _ k).trans (noticeRing_fresh_eq _ _)

end Sys2Proof.Machine
end

section
/-! A reference clock period: the ticks it counts, the boundary it reaches, and the density generators (R58, R72 to
R74). -/

namespace Sys2Proof.Machine

open Sys2Proof

/-! ### The ticks of one period -/

theorem advance_untrimmed {u : TimeUnit} (trim : u.trim = 0) : u.advance = (1, u.accumulator) := by
  rw [TimeUnit.advance, if_pos trim]

theorem advance_not_carried {u : TimeUnit} (trim : u.trim ≠ 0) (below : u.accumulator + u.trim.natAbs < second) :
    u.advance = (1, u.accumulator + u.trim.natAbs) := by
  rw [TimeUnit.advance, if_neg trim]
  exact if_pos below

theorem advance_carried {u : TimeUnit} (trim : u.trim ≠ 0) (carry : second ≤ u.accumulator + u.trim.natAbs) :
    u.advance = (if 0 < u.trim then 2 else 0, u.accumulator + u.trim.natAbs - second) := by
  rw [TimeUnit.advance, if_neg trim]
  exact if_neg (Nat.not_lt.mpr carry)

/-! ### The time unit after one period -/

theorem referencePeriod_timebase (u : TimeUnit) :
    u.referencePeriod.timebase.toNat = min (u.timebase.toNat + u.advance.1) (2 ^ 64 - 1) := by
  simp only [TimeUnit.referencePeriod, noteBoundary_frame, satTick_toNat]

theorem referencePeriod_accumulator (u : TimeUnit) : u.referencePeriod.accumulator = u.advance.2 := by
  simp only [TimeUnit.referencePeriod, noteBoundary_frame]

/-- A reference period leaves the trim, the pending trim and the anchor as they are. -/
theorem referencePeriod_eq (u : TimeUnit) :
    u.referencePeriod =
      { u with
        timebase := u.referencePeriod.timebase, accumulator := u.referencePeriod.accumulator
        nextBoundary := u.referencePeriod.nextBoundary, dueBoundaries := u.referencePeriod.dueBoundaries } := by
  ext1 <;> simp only [TimeUnit.referencePeriod, noteBoundary_frame]

theorem referencePeriod_boundary_ahead {u : TimeUnit} (ahead : u.referencePeriod.timebase.toNat < u.nextBoundary) :
    u.referencePeriod.nextBoundary = u.nextBoundary ∧ u.referencePeriod.dueBoundaries = u.dueBoundaries := by
  simp only [TimeUnit.referencePeriod, noteBoundary_frame] at ahead ⊢
  obtain ⟨-, kept⟩ | ⟨reached, -⟩ :=
    noteBoundary_cases { u with timebase := satTick u.timebase u.advance.1, accumulator := u.advance.2 }
  · rw [kept]
    exact ⟨rfl, rfl⟩
  · exact absurd ahead (Nat.not_lt.mpr reached)

theorem referencePeriod_boundary_reached {u : TimeUnit} (reached : u.nextBoundary ≤ u.referencePeriod.timebase.toNat) :
    u.referencePeriod.nextBoundary = u.nextBoundary + second ∧
      u.referencePeriod.dueBoundaries = u.dueBoundaries ++ [u.nextBoundary] := by
  simp only [TimeUnit.referencePeriod, noteBoundary_frame] at reached ⊢
  obtain ⟨ahead, -⟩ | ⟨-, noted⟩ :=
    noteBoundary_cases { u with timebase := satTick u.timebase u.advance.1, accumulator := u.advance.2 }
  · exact absurd reached (Nat.not_le.mpr ahead)
  · rw [noted]
    exact ⟨rfl, rfl⟩

/-! ### The period of the machine -/

theorem referenceClockPeriod_in_reset {s : State} (reset : s.control.resetAsserted = true) :
    exec .referenceClockPeriod s = .next s := by
  show execReferenceClockPeriod s = _
  rw [execReferenceClockPeriod, if_pos reset]

theorem referenceClockPeriod_counts {s : State} (reset : s.control.resetAsserted = false) :
    exec .referenceClockPeriod s =
      .next { s with time := s.time.referencePeriod, lines := s.lines.map Line.referencePeriod } := by
  show execReferenceClockPeriod s = _
  rw [execReferenceClockPeriod, reset, if_neg Bool.false_ne_true]

/-- Settles O17: the three cases of the accumulator, and the boundary tick ahead or reached. -/
theorem referencePeriodCountsTicks : Obligations.ReferencePeriodCountsTicks := by
  refine fun s => ⟨referenceClockPeriod_in_reset, fun reset =>
    ⟨_, referenceClockPeriod_counts reset, ?_, fun trim => ?_, fun trim below => ?_, fun trim carry => ?_,
      referencePeriod_boundary_ahead, referencePeriod_boundary_reached, fun l => ?_⟩⟩
  · exact State.ext rfl rfl rfl rfl rfl (referencePeriod_eq s.time) rfl rfl rfl rfl rfl rfl
  · rw [referencePeriod_accumulator, referencePeriod_timebase, advance_untrimmed trim]
    exact ⟨rfl, rfl⟩
  · rw [referencePeriod_accumulator, referencePeriod_timebase, advance_not_carried trim below]
    exact ⟨rfl, rfl⟩
  · rw [referencePeriod_accumulator, referencePeriod_timebase, advance_carried trim carry]
    exact ⟨Nat.sub_add_cancel carry, rfl⟩
  · show (s.lines.map Line.referencePeriod)[l.val] = _
    rw [Vector.getElem_map]
    rfl

end Sys2Proof.Machine
end

section
/-! Line actions: what each makes of an enabled line, and that LINE_FORCE and a firing's action take it alike (R49 to
R53, R66, R67). -/

namespace Sys2Proof.Machine

open Sys2Proof

/-! ### Enabled lines -/

theorem Line.enabled_iff {x : Line} : x.enabled = true ↔ x.mode ≠ .disabled := decide_eq_true_iff

theorem Line.enabled_eq_false_iff {x : Line} : x.enabled = false ↔ x.mode = .disabled := by
  rw [Line.enabled, decide_eq_false_iff_not, not_not]

/-- Each of the three enabled modes keeps a held level (Table 3-1). -/
theorem held?_iff {x : Line} {v : Level} :
    x.held? = some v ↔
      x.mode = .held v ∨ (∃ p e, x.mode = .pulsing v p e) ∨ ∃ d q n a, x.mode = .density v d q n a := by
  unfold Line.held?
  cases x.mode <;> simp

theorem mode_ne_disabled_of_held? {x : Line} {v : Level} (held : x.held? = some v) : x.mode ≠ .disabled := by
  intro off
  simp [Line.held?, off] at held

theorem pinLevel_density {x : Line} {v : Level} {now : Density} {p : BitVec 16} {next : Option Density} {n : Nat}
    (mode : x.mode = .density v now p next n) : x.pinLevel = densityLevel now p := by simp only [Line.pinLevel, mode]

theorem toggle_of_held? {x : Line} {v : Level} (held : x.held? = some v) :
    x.toggle = { safe := x.safe, mode := .held v.opposite } := by simp only [Line.toggle, held]

theorem pulse_of_held? {x : Line} {v : Level} (t : Tick) (p : Level) (n : Nat) (held : x.held? = some v) :
    x.pulse t p n = { safe := x.safe, mode := .pulsing v p (satTick t n) } := by simp only [Line.pulse, held]

theorem startDensity_first {x : Line} {v : Level} (d : Density)
    (mode : x.mode = .held v ∨ ∃ p e, x.mode = .pulsing v p e) :
    x.startDensity d = { safe := x.safe, mode := .density v d 0 none 0 } := by
  obtain mode | ⟨p, e, mode⟩ := mode <;> simp only [Line.startDensity, mode]

theorem startDensity_again {x : Line} {v : Level} {now : Density} {p : BitVec 16} {old : Option Density} {n : Nat}
    (d : Density) (mode : x.mode = .density v now p old n) :
    x.startDensity d = { safe := x.safe, mode := .density v now p (some d) n } := by
  simp only [Line.startDensity, mode]

/-! ### A line action of a firing -/

theorem applyAction_line {a : Action} {l : LineId} (e : Tick) (s : State) (line : a.line? = some l) :
    applyAction e a s = (actOnLine l a s, !s.lines[l].enabled) := by
  cases a with
  | drive m v => cases line; rfl
  | toggle m => cases line; rfl
  | pulse m v n => cases line; rfl
  | density m d => cases line; rfl
  | start i => cases line
  | stop i => cases line
  | mark => cases line

theorem actOnLine_enabled {l : LineId} {s : State} (a : Action) (on : s.lines[l].mode ≠ .disabled) :
    actOnLine l a s = setLine l (s.lines[l].act s.time.timebase a) s := by
  rw [actOnLine, if_pos (Line.enabled_iff.mpr on)]

theorem applyAction_enabled {a : Action} {l : LineId} {s : State} (e : Tick) (line : a.line? = some l)
    (on : s.lines[l].mode ≠ .disabled) :
    applyAction e a s = (setLine l (s.lines[l].act s.time.timebase a) s, false) := by
  rw [applyAction_line e s line, actOnLine_enabled a on, Line.enabled_iff.mpr on]
  rfl

theorem applyAction_disabled {a : Action} {l : LineId} {s : State} (e : Tick) (line : a.line? = some l)
    (off : s.lines[l].mode = .disabled) : applyAction e a s = (s, true) := by
  rw [applyAction_line e s line, actOnLine, Line.enabled_eq_false_iff.mpr off]
  rfl

/-! ### LINE_FORCE -/

theorem forceOf_line {w : ActionWord} {a : Action} {l : LineId} (word : actionOf w = some a) (line : a.line? = some l) :
    forceOf w = some (l, a) := by
  rw [forceOf, word, Option.bind_some, line]
  rfl

theorem Answered.lines {s u t : State} {r : CommandRingId} {k : NoticeRingId} {n : Notice} (h : Answered s u t r k n) :
    t.lines = u.lines := by
  rw [h.blocks]

/-- An accepted LINE_FORCE leaves its line as the action makes it, and answers with that line (R67). -/
theorem lineForce_taken {h : Header} {w : ActionWord} {s : State} {r : CommandRingId} {k : NoticeRingId} {l : LineId}
    {a : Action} (hf : Fetching s r k) (word : actionOf w = some a) (line : a.line? = some l)
    (running : s.halted = false) (on : s.lines[l].mode ≠ .disabled) :
    ∃ t, exec (.lineForce h w) s = .next t ∧
      Answered s (setLine l (s.lines[l].act s.time.timebase a) s) t r k
        (completionOf s r h .ok (s.lines[l].act s.time.timebase a).forceResult) := by
  rw [← actOnLine_enabled a on]
  refine answered_of_op (m := .lineForce w) (actOnLine l a) hf (fun x => ?_) (by simp) fun c x => ?_
  · rw [actOnLine_enabled a on]
    exact actOnLine_enabled (s := { s with intake := x }) a on
  · have go : ({ s with intake := x } : State).halted = false := running
    have up : ({ s with intake := x } : State).lines[l].enabled = true := Line.enabled_iff.mpr on
    show takeLineForce w { s with intake := x } = _
    simp only [takeLineForce, forceOf_line word line, go, up, Bool.false_eq_true, if_false, if_true]

/-- A line action that makes an enabled line `x`, taken by LINE_FORCE (R67) and by a firing (R49). -/
theorem lineAction_gives {h : Header} {w : ActionWord} {s : State} {r : CommandRingId} {k : NoticeRingId} {l : LineId}
    {a : Action} {x : Line} {result : Result} (hf : Fetching s r k) (word : actionOf w = some a) (line : a.line? = some l)
    (running : s.halted = false) (on : s.lines[l].mode ≠ .disabled) (act : s.lines[l].act s.time.timebase a = x)
    (answer : x.forceResult = result) :
    (∃ t, exec (.lineForce h w) s = .next t ∧ Answered s (setLine l x s) t r k (completionOf s r h .ok result) ∧
      t.lines[l] = x) ∧
    ∀ e : Tick, applyAction e a s = (setLine l x s, false) := by
  subst act answer
  obtain ⟨t, next, answered⟩ := lineForce_taken (h := h) hf word line running on
  refine ⟨⟨t, next, answered, ?_⟩, fun e => applyAction_enabled e line on⟩
  rw [answered.lines, setLine_get, if_pos rfl]

/-! ### DRIVE and TOGGLE -/

/-- Settles O23: either action leaves the line HELD, so that it has no pulse end. -/
theorem driveAndToggleHoldALevel : Obligations.DriveAndToggleHoldALevel := by
  refine ⟨fun h w s r k l v x hf word running on hx => ?_, fun h w s r k l v x hf word running held hx => ?_⟩
  · obtain ⟨⟨t, next, answered, now⟩, fired⟩ :=
      lineAction_gives (h := h) (result := .lineForce 1 (some v) false v) hf word rfl running on hx.symm (by rw [hx]; rfl)
    refine ⟨⟨t, next, answered, by rw [now, hx]; rfl, pulseEnd_not_pulsing fun v p e => ?_⟩, fun same => ?_, fired⟩
    · rw [now, hx]
      exact LineMode.noConfusion
    · rw [hx, ← same]
  · have held := held?_iff.mpr held
    obtain ⟨⟨t, next, answered, now⟩, fired⟩ :=
      lineAction_gives (h := h) (result := .lineForce 1 (some v.opposite) false v.opposite) hf word rfl running
        (mode_ne_disabled_of_held? held) ((toggle_of_held? held).trans hx.symm) (by rw [hx]; rfl)
    exact ⟨⟨t, next, answered, by rw [now, hx]; rfl⟩, fired⟩

/-! ### PULSE and DENSITY -/

/-- At the first position of a frame only a density of 0 is low (R59). -/
theorem densityLevel_zero (d : Density) : densityLevel d 0 = if d.value = 0 then .low else .high := by
  have origin : bitReversal 0 = 0 := by decide
  rw [densityLevel, origin]
  by_cases zero : d.value = 0
  · rw [if_pos zero, zero]
    rfl
  · rw [if_neg zero, decide_eq_true (Nat.pos_of_ne_zero zero)]
    rfl

/-- Settles O24: each action by its equation on a line with a held level. -/
theorem pulseAndDensityActions : Obligations.PulseAndDensityActions := by
  refine ⟨fun h w s r k l v p n e x hf word running held he hx => ?_,
    fun h w s r k l v d hf word running => ⟨fun x mode hx => ?_, fun x now p old n mode hx => ?_⟩⟩
  · have held := held?_iff.mpr held
    have act : s.lines[l].pulse s.time.timebase p n = x := by rw [pulse_of_held? _ _ _ held, satTick_eq he, hx]
    obtain ⟨⟨t, next, answered, after⟩, fired⟩ :=
      lineAction_gives (h := h) (result := .lineForce 2 (some v) false p) hf word rfl running
        (mode_ne_disabled_of_held? held) act (by rw [hx]; rfl)
    exact ⟨⟨t, next, answered, by rw [after, hx]; rfl⟩, fired⟩
  · have held := held?_iff.mpr (mode.imp_right Or.inl)
    obtain ⟨⟨t, next, answered, -⟩, fired⟩ :=
      lineAction_gives (h := h) (result := .lineForce 3 (some v) false (if d.value = 0 then .low else .high)) hf word rfl
        running (mode_ne_disabled_of_held? held) ((startDensity_first d mode).trans hx.symm)
        (by rw [hx, ← densityLevel_zero]; rfl)
    exact ⟨⟨t, next, answered⟩, fired⟩
  · have held := held?_iff.mpr (.inr (.inr ⟨_, _, _, _, mode⟩))
    obtain ⟨⟨t, next, answered, -⟩, fired⟩ :=
      lineAction_gives (h := h) (result := .lineForce 3 (some v) true s.lines[l].pinLevel) hf word rfl running
        (mode_ne_disabled_of_held? held) ((startDensity_again d mode).trans hx.symm) (by rw [hx, pinLevel_density mode]; rfl)
    exact ⟨⟨t, next, answered⟩, fired⟩

end Sys2Proof.Machine
end

section
/-! LINE_SETUP, and the refusals of both line commands (R49, R63 to R66). -/

namespace Sys2Proof.Machine

open Sys2Proof

/-! ### The values of a LINE_SETUP -/

theorem lineSetupOf_iff {f : LineSetupFields} {c : LineSetup} :
    lineSetupOf f = some c ↔
      f.line.toNat = c.line.val ∧ (f.enable.toNat = if c.enable then 1 else 0) ∧
        (f.safe = if c.safe = .high then 1 else 0) ∧ f.initial = if c.initial = .high then 1 else 0 := by
  obtain ⟨line, enable, safe, initial⟩ := c
  simp only [lineSetupOf, Option.bind_eq_some_iff, Option.map_eq_some_iff, lineOf_iff, choiceOf_iff, levelOf_iff,
    LineSetup.mk.injEq]
  constructor
  · rintro ⟨_, line, _, enable, _, safe, _, initial, rfl, rfl, rfl, rfl⟩
    exact ⟨line, enable, safe, initial⟩
  · rintro ⟨line, enable, safe, initial⟩
    exact ⟨_, line, _, enable, _, safe, _, initial, rfl, rfl, rfl, rfl⟩

theorem lineSetupOf_undefined {f : LineSetupFields}
    (bad : 16 ≤ f.line.toNat ∨ 2 ≤ f.enable.toNat ∨ 2 ≤ f.safe.toNat ∨ 2 ≤ f.initial.toNat) : lineSetupOf f = none := by
  have level : ∀ v : Level, (if v = .high then 1 else 0 : Byte).toNat < 2 := fun v => by cases v <;> decide
  have choice : ∀ b : Bool, (if b then 1 else 0) < 2 := by decide
  refine Option.eq_none_iff_forall_ne_some.mpr fun c valid => ?_
  obtain ⟨line, enable, safe, initial⟩ := lineSetupOf_iff.mp valid
  obtain bad | bad | bad | bad := bad
  · exact absurd (line ▸ c.line.isLt) (Nat.not_lt.mpr bad)
  · exact absurd (enable ▸ choice c.enable) (Nat.not_lt.mpr bad)
  · exact absurd (safe ▸ level c.safe) (Nat.not_lt.mpr bad)
  · exact absurd (initial ▸ level c.initial) (Nat.not_lt.mpr bad)

/-! ### What a LINE_SETUP makes of its line -/

theorem setUp_disabling {c : LineSetup} (x : Line) (b : Bool) (off : c.enable = false) :
    x.setUp c b = { safe := c.safe, mode := .disabled } := by
  rw [Line.setUp, off, if_neg Bool.false_ne_true]

theorem setUp_halted {c : LineSetup} (x : Line) (on : c.enable = true) :
    x.setUp c true = { safe := c.safe, mode := .held c.safe } := by
  rw [Line.setUp, if_pos on, if_pos rfl]

theorem setUp_of_disabled {c : LineSetup} {x : Line} (on : c.enable = true) (mode : x.mode = .disabled) :
    x.setUp c false = { safe := c.safe, mode := .held c.initial } := by
  rw [Line.setUp, if_pos on, if_neg Bool.false_ne_true, Line.enabled_eq_false_iff.mpr mode, if_neg Bool.false_ne_true]

theorem setUp_of_enabled {c : LineSetup} {x : Line} (on : c.enable = true) (mode : x.mode ≠ .disabled) :
    x.setUp c false = { safe := c.safe, mode := x.mode } := by
  rw [Line.setUp, if_pos on, if_neg Bool.false_ne_true, if_pos (Line.enabled_iff.mpr mode)]

/-! ### The commands -/

theorem lineSetup_refused {h : Header} {f : LineSetupFields} {s : State} {r : CommandRingId} {k : NoticeRingId}
    (hf : Fetching s r k) (bad : lineSetupOf f = none) :
    ∃ t, exec (.lineSetup h f) s = .next t ∧ Answered s s t r k (completionOf s r h .badParam .zero) :=
  answered_of_op (m := .lineSetup f) id hf (fun _ => rfl) rfl fun _ x => by
    show takeLineSetup f { s with intake := x } = _
    simp only [takeLineSetup, bad, id_eq]

theorem lineSetup_taken {h : Header} {f : LineSetupFields} {s : State} {r : CommandRingId} {k : NoticeRingId}
    {c : LineSetup} (hf : Fetching s r k) (valid : lineSetupOf f = some c) :
    ∃ t, exec (.lineSetup h f) s = .next t ∧
      Answered s (setLine c.line (s.lines[c.line].setUp c s.halted) s) t r k
        (completionOf s r h .ok (s.lines[c.line].setUp c s.halted).setupResult) :=
  answered_of_op (m := .lineSetup f) (setLine c.line (s.lines[c.line].setUp c s.halted)) hf (fun _ => rfl) rfl
    fun _ x => by
      show takeLineSetup f { s with intake := x } = _
      simp only [takeLineSetup, valid]
      rfl

/-- What a LINE_FORCE answers that is refused (R66). -/
theorem lineForce_refused {h : Header} {w : ActionWord} {s : State} {r : CommandRingId} {k : NoticeRingId} {st : Status}
    (hf : Fetching s r k)
    (take : ∀ x, takeLineForce w { s with intake := x } = ({ s with intake := x }, .complete st .zero)) :
    ∃ t, exec (.lineForce h w) s = .next t ∧ Answered s s t r k (completionOf s r h st .zero) :=
  answered_of_op (m := .lineForce w) id hf (fun _ => rfl) rfl fun _ => take

theorem takeLineForce_invalid {w : ActionWord} (s : State) (bad : forceOf w = none) :
    takeLineForce w s = (s, .complete .badParam .zero) := by simp only [takeLineForce, bad]

theorem takeLineForce_refused {w : ActionWord} {a : Action} {l : LineId} {s : State} {st : Status}
    (valid : forceOf w = some (l, a))
    (why : if s.halted = true then st = .halted else s.lines[l].mode = .disabled ∧ st = .lineDisabled) :
    takeLineForce w s = (s, .complete st .zero) := by
  simp only [takeLineForce, valid]
  split at why
  · rename_i halted
    rw [if_pos halted, why]
  · rename_i running
    obtain ⟨off, rfl⟩ := why
    rw [if_neg running, Line.enabled_eq_false_iff.mpr off, if_neg Bool.false_ne_true]

/-- Settles O25: LINE_SETUP by its values, and the refusals of LINE_FORCE in the order of R66. -/
theorem lineSetupAndRefusals : Obligations.LineSetupAndRefusals := by
  refine ⟨fun h f s r k hf => ⟨fun bad => lineSetup_refused hf (lineSetupOf_undefined bad), ?_⟩,
    fun h w s r k st hf => ⟨fun why => ?_, fun a l e line off => applyAction_disabled e line off⟩⟩
  · intro l safe init x line hsafe hinit left
    have values : ∀ b : Bool, (f.enable.toNat = if b then 1 else 0) →
        lineSetupOf f = some { line := l, enable := b, safe, initial := init } :=
      fun b enable => lineSetupOf_iff.mpr ⟨line, enable, hsafe, hinit⟩
    obtain ⟨b, valid, made, written⟩ : ∃ b, lineSetupOf f = some { line := l, enable := b, safe, initial := init } ∧
        s.lines[l].setUp { line := l, enable := b, safe, initial := init } s.halted = x ∧ x.safe = safe := by
      obtain ⟨enable, rfl⟩ | ⟨enable, mode, running, rfl⟩ | ⟨enable, mode, running, rfl⟩ | ⟨enable, halted, rfl⟩ := left
      · exact ⟨false, values false (by rw [enable]; rfl), setUp_disabling _ _ rfl, rfl⟩
      · exact ⟨true, values true (by rw [enable]; rfl), by rw [running]; exact setUp_of_disabled rfl mode, rfl⟩
      · exact ⟨true, values true (by rw [enable]; rfl), by rw [running]; exact setUp_of_enabled rfl mode, rfl⟩
      · exact ⟨true, values true (by rw [enable]; rfl), by rw [halted]; exact setUp_halted _ rfl, rfl⟩
    obtain ⟨t, next, answered⟩ := lineSetup_taken (h := h) hf valid
    rw [made] at answered
    refine ⟨t, next, ?_⟩
    obtain ⟨_, mode⟩ := x
    subst written
    cases mode <;> exact answered
  · have refused : ∀ (a : Action) (l : LineId), actionOf w = some a → a.line? = some l →
        (if s.halted = true then st = .halted else s.lines[l].mode = .disabled ∧ st = .lineDisabled) →
        ∃ t, exec (.lineForce h w) s = .next t ∧ Answered s s t r k (completionOf s r h st .zero) :=
      fun a l word line why => lineForce_refused hf fun x =>
        takeLineForce_refused (s := { s with intake := x }) (forceOf_line word line) why
    have invalid : forceOf w = none → st = .badParam →
        ∃ t, exec (.lineForce h w) s = .next t ∧ Answered s s t r k (completionOf s r h st .zero) :=
      fun bad hst => hst ▸ lineForce_refused hf fun x => takeLineForce_invalid _ bad
    cases word : actionOf w with
    | none =>
      rw [word] at why
      exact invalid (by rw [forceOf, word]; rfl) why
    | some a =>
      rw [word] at why
      cases a with
      | drive l v => exact refused _ l word rfl why
      | toggle l => exact refused _ l word rfl why
      | pulse l v n => exact refused _ l word rfl why
      | density l d => exact refused _ l word rfl why
      | start i => exact invalid (by rw [forceOf, word]; rfl) why
      | stop i => exact invalid (by rw [forceOf, word]; rfl) why
      | mark => exact invalid (by rw [forceOf, word]; rfl) why

end Sys2Proof.Machine
end

section
/-! Pulse ends and density clocks (R55, R56, R58, R60). -/

namespace Sys2Proof.Machine

open Sys2Proof

/-! ### The pulse end -/

theorem pulseEnd_due {s : State} {l : LineId} {v p : Level} {e : Tick} (mode : s.lines[l].mode = .pulsing v p e)
    (due : e.toNat ≤ s.time.timebase.toNat) :
    exec (.pulseEnd l) s = .next (setLine l { safe := s.lines[l].safe, mode := .held v } s) := by
  show execPulseEnd l s = _
  simp only [execPulseEnd, mode, TimeUnit.reached, decide_eq_true due, if_true]

/-- R56: a line action makes the same of a PULSING line as of that line once its pulse has ended. -/
theorem act_after_pulse {x : Line} {v p : Level} {e : Tick} {a : Action} {l : LineId} (z : Tick)
    (mode : x.mode = .pulsing v p e) (line : a.line? = some l) :
    Line.act z a { safe := x.safe, mode := .held v } = Line.act z a x := by
  obtain ⟨safe, _⟩ := x
  subst mode
  cases a with
  | drive m w => rfl
  | toggle m => rfl
  | pulse m w n => rfl
  | density m d => rfl
  | start i => cases line
  | stop i => cases line
  | mark => cases line

theorem haltEffect_after_pulse {x : Line} {v p : Level} {e : Tick} (mode : x.mode = .pulsing v p e) :
    Line.haltEffect { safe := x.safe, mode := .held v } = x.haltEffect := by
  rw [haltEffect_eq, haltEffect_eq, if_neg LineMode.noConfusion, mode, if_neg LineMode.noConfusion]

/-! ### The density clock -/

theorem densityClock_due {s : State} {l : LineId} {v : Level} {now : Density} {p : BitVec 16} {next : Option Density}
    {n : Nat} (mode : s.lines[l].mode = .density v now p next n) (due : now.divider ≤ n) :
    exec (.densityClock l) s =
      .next (setLine l { safe := s.lines[l].safe, mode := LineMode.clock v now p next n } s) := by
  show execDensityClock l s = _
  simp only [execDensityClock, mode, if_pos due]

theorem frameStart_due {s : State} {l : LineId} {v : Level} {now : Density} {next : Option Density} {n : Nat}
    (mode : s.lines[l].mode = .density v now 0xFFFF next n) (due : now.divider ≤ n) :
    exec (.frameStart l) s =
      .next (setLine l { safe := s.lines[l].safe, mode := LineMode.clock v now 0xFFFF next n } s) := by
  show execFrameStart l s = _
  simp only [execFrameStart, mode, due, and_self, if_true]

theorem clock_inside_frame {v : Level} {now : Density} {p : BitVec 16} {next : Option Density} {n : Nat}
    (inside : p.toNat < 65535) : LineMode.clock v now p next n = .density v now (p + 1) next (n - now.divider) := by
  have position : p ≠ 0xFFFF := fun h => by rw [h] at inside; exact absurd inside (by decide)
  rw [LineMode.clock, if_neg position]

theorem clock_frame_end (v : Level) (now : Density) (next : Option Density) (n : Nat) :
    LineMode.clock v now 0xFFFF next n = .density v (next.getD now) 0 none (n - now.divider) := if_pos rfl

/-- Settles O26: the due pulse end, and the due density clock inside a frame and at its end. -/
theorem pulseEndsAndDensityClocks : Obligations.PulseEndsAndDensityClocks := by
  refine ⟨fun s l v p e mode due => ⟨pulseEnd_due mode due, fun z a line => act_after_pulse z mode line,
      haltEffect_after_pulse mode, fun c b off => ?_⟩,
    fun s l v now p next n mode due => ⟨fun inside => ?_, fun last => ?_⟩⟩
  · rw [setUp_disabling _ _ off, setUp_disabling _ _ off]
  · rw [densityClock_due mode due, clock_inside_frame inside]
    rfl
  · obtain rfl : p = 0xFFFF := BitVec.eq_of_toNat_eq last
    rw [densityClock_due mode due, frameStart_due mode due, clock_frame_end]
    refine ⟨fun d pending => ?_, fun empty => ?_, rfl⟩
    · rw [pending]
      rfl
    · rw [empty]
      rfl

end Sys2Proof.Machine
end

section
/-! The pattern of a density frame: the bit-reversal permutes the positions (R48, R59). -/

namespace Sys2Proof.Machine

open Sys2Proof

/-! ### Sums of digits -/

/-- The number whose digit `i`, below `n`, is `f i`. -/
def digitSum (f : Nat → Bool) (n : Nat) : Nat := ((List.range n).map fun i => bitAt i (f i)).sum

theorem digitSum_succ (f : Nat → Bool) (n : Nat) : digitSum f (n + 1) = 2 ^ n * (f n).toNat + digitSum f n := by
  have digit : bitAt n (f n) = 2 ^ n * (f n).toNat := by cases f n <;> simp [bitAt]
  rw [digitSum, List.range_succ, List.map_append, List.sum_append, List.map_singleton, List.sum_singleton, digit,
    Nat.add_comm, digitSum]

theorem digitSum_lt (f : Nat → Bool) (n : Nat) : digitSum f n < 2 ^ n := by
  induction n with
  | zero => exact Nat.one_pos
  | succ n ih =>
    have digit : (f n).toNat ≤ 1 := Bool.toNat_le (f n)
    calc digitSum f (n + 1) = 2 ^ n * (f n).toNat + digitSum f n := digitSum_succ f n
      _ < 2 ^ n * 1 + 2 ^ n := Nat.add_lt_add_of_le_of_lt (Nat.mul_le_mul_left _ digit) ih
      _ = 2 ^ (n + 1) := by rw [Nat.pow_succ]; omega

theorem testBit_digitSum (f : Nat → Bool) {n i : Nat} (h : i < n) : (digitSum f n).testBit i = f i := by
  induction n with
  | zero => exact absurd h (Nat.not_lt_zero i)
  | succ n ih =>
    rw [digitSum_succ, Nat.testBit_two_pow_mul_add _ (digitSum_lt f n)]
    split
    · exact ih ‹_›
    · obtain rfl : i = n := by omega
      rw [Nat.sub_self]
      cases f i <;> rfl

/-! ### The bit-reversal -/

theorem bitReversal_eq_digitSum (p : BitVec 16) : bitReversal p = digitSum (fun i => p.getLsbD (15 - i)) 16 := rfl

theorem testBit_bitReversal (p : BitVec 16) {i : Nat} (h : i < 16) : (bitReversal p).testBit i = p.getLsbD (15 - i) := by
  rw [bitReversal_eq_digitSum, testBit_digitSum _ h]

theorem bitReversal_lt (p : BitVec 16) : bitReversal p < 65536 := by
  rw [bitReversal_eq_digitSum]
  exact (digitSum_lt _ 16).trans_eq (by decide)

theorem bitReversal_injective : Function.Injective bitReversal := by
  refine fun p q same => BitVec.eq_of_getLsbD_eq fun i hi => ?_
  have digit := congrArg (Nat.testBit · (15 - i)) same
  rwa [testBit_bitReversal p (by omega), testBit_bitReversal q (by omega), Nat.sub_sub_self (by omega)] at digit

/-- The bit-reversal takes the positions of a frame to the numbers below 65,536, each once. -/
theorem bitReversal_perm :
    ((List.range 65536).map fun p => bitReversal (BitVec.ofNat 16 p)).Perm (List.range 65536) := by
  have once : ((List.range 65536).map fun p => bitReversal (BitVec.ofNat 16 p)).Nodup := by
    refine List.Nodup.map_on (fun p hp q hq same => ?_) List.nodup_range
    have positions := congrArg BitVec.toNat (bitReversal_injective same)
    rwa [BitVec.toNat_ofNat, BitVec.toNat_ofNat, Nat.mod_eq_of_lt (List.mem_range.mp hp),
      Nat.mod_eq_of_lt (List.mem_range.mp hq)] at positions
  have below : ((List.range 65536).map fun p => bitReversal (BitVec.ofNat 16 p)) ⊆ List.range 65536 := fun n hn => by
    obtain ⟨p, -, rfl⟩ := List.mem_map.mp hn
    exact List.mem_range.mpr (bitReversal_lt _)
  exact (List.subperm_of_subset once below).perm_of_length_le (by rw [List.length_map])

/-! ### Levels -/

theorem densityLevel_high_iff (d : Density) (p : BitVec 16) : densityLevel d p = .high ↔ bitReversal p < d.value := by
  by_cases below : bitReversal p < d.value
  · simp [densityLevel, levelOfBool, below]
  · simp [densityLevel, levelOfBool, below]

/-- Among positions, those that are high are counted by their bit-reversals. -/
theorem countP_high (d : Density) (l : List Nat) :
    (l.countP fun p => densityLevel d (BitVec.ofNat 16 p) = .high) =
      (l.map fun p => bitReversal (BitVec.ofNat 16 p)).countP fun n => decide (n < d.value) := by
  rw [List.countP_map]
  refine List.countP_congr fun p _ => ?_
  rw [decide_eq_true_iff, densityLevel_high_iff, Function.comp_apply, decide_eq_true_iff]

theorem countP_range_lt {v n : Nat} (h : v ≤ n) : ((List.range n).countP fun i => decide (i < v)) = v := by
  obtain ⟨k, rfl⟩ := Nat.exists_eq_add_of_le h
  have low : ((List.range v).countP fun i => decide (i < v)) = (List.range v).length :=
    List.countP_eq_length.mpr fun i hi => decide_eq_true (List.mem_range.mp hi)
  have high : (((List.range k).map (v + ·)).countP fun i => decide (i < v)) = 0 := by
    refine List.countP_eq_zero.mpr fun i hi => ?_
    obtain ⟨j, -, rfl⟩ := List.mem_map.mp hi
    simp
  rw [List.range_add, List.countP_append, low, high, List.length_range, Nat.add_zero]

/-- Settles O27: the positions that are high are those whose bit-reversal lies below the value. -/
theorem densityFrameHighCount : Obligations.DensityFrameHighCount := by
  refine ⟨fun x v p e => ⟨fun mode => ?_, fun mode => ?_, fun mode => ?_⟩, fun x v now p next n mode => ?_,
    fun p i => testBit_bitReversal p, fun d bound => ?_⟩
  · simp only [Line.pinLevel, mode]
  · simp only [Line.pinLevel, mode]
  · simp only [Line.pinLevel, mode]
  · rw [pinLevel_density mode, densityLevel_high_iff]
  · rw [countP_high, bitReversal_perm.countP_eq, countP_range_lt bound]

end Sys2Proof.Machine
end

section
/-! READ_TIME, TRIM_RATE and STEP_TIMEBASE, and the second boundary that applies a trim (R74 to R78, R84, R151). -/

namespace Sys2Proof.Machine

open Sys2Proof

/-! ### READ_TIME -/

/-- Settles O14: the reading is taken of the time unit as it stands. -/
theorem readTimeReportsTheTime : Obligations.ReadTimeReportsTheTime := by
  intro h s r k x hf hx
  subst hx
  exact answered_of_op (m := .readTime) id hf (fun _ => rfl) rfl fun _ _ => rfl

/-! ### The end of a pending trim -/

/-- The time unit with its pending trim, if any, in force (R76). -/
def TimeUnit.trimmed (u : TimeUnit) : TimeUnit :=
  { u with trim := (u.pendingTrim.map fun p => p.value).getD u.trim, pendingTrim := none }

theorem trimmed_none {u : TimeUnit} (none : u.pendingTrim = none) : u.trimmed = u := by
  ext1 <;> simp [TimeUnit.trimmed, none]

theorem trimmed_some {u : TimeUnit} {p : PendingTrim} (pending : u.pendingTrim = some p) :
    u.trimmed = { u with trim := p.value, pendingTrim := none } := by simp [TimeUnit.trimmed, pending]

/-- The outstanding entry of a TRIM_RATE (R151). -/
def PendingTrim.owed (p : PendingTrim) : Owed := { kind := .trimRate, ident := p.ident, takeIndex := p.takeIndex }

theorem applyTrim_none {s : State} (none : s.time.pendingTrim = none) (c : Nat) : applyTrim c s = s := by
  simp only [applyTrim, none]

/-- A pending trim goes into force, and its completion is handed where its entry stands (R76, R151). -/
theorem applyTrim_some {s : State} {p : PendingTrim} (pending : s.time.pendingTrim = some p) (c : Nat) :
    applyTrim c s =
      completeOwed p.ring p.owed .ok (.trim p.value none s.time.timebase c) { s with time := s.time.trimmed } := by
  rw [trimmed_some pending]
  simp only [applyTrim, pending]
  rfl

/-- Whether or not a completion follows, the trim is in force. -/
theorem applyTrim_time (c : Nat) (s : State) : (applyTrim c s).time = s.time.trimmed := by
  cases pending : s.time.pendingTrim with
  | none => rw [applyTrim_none pending, trimmed_none pending]
  | some p => rw [applyTrim_some pending, (completeOwed_frame _ _ _ _ _).2.2.2.2.1]

theorem applyTrim_gone {s : State} (c : Nat)
    (gone : ∀ p, s.time.pendingTrim = some p → p.owed ∉ s.intake.rings[p.ring].outstanding) :
    applyTrim c s = { s with time := s.time.trimmed } := by
  cases pending : s.time.pendingTrim with
  | none => rw [applyTrim_none pending, trimmed_none pending]
  | some p => rw [applyTrim_some pending, completeOwed, if_neg (gone p pending)]

/-! ### TRIM_RATE and the second boundary -/

theorem trimOf_none {v : BitVec 32} (beyond : v.toInt < -20000 ∨ 20000 < v.toInt) : trimOf v = none :=
  if_neg fun ⟨low, high⟩ => by simp only [Config.maxTrim] at low high; omega

theorem trimOf_some {v : BitVec 32} (low : -20000 ≤ v.toInt) (high : v.toInt ≤ 20000) : trimOf v = some v.toInt :=
  if_pos ⟨low, high⟩

/-- A refused TRIM_RATE reports the trim in force and the pending trim (R75). -/
theorem trimRate_refused {s : State} {r : CommandRingId} {k : NoticeRingId} {h : Header} {v : BitVec 32} {st : Status}
    (hf : Fetching s r k)
    (refused : ∀ c (u : State), u.time = s.time → takeTrimRate c v u = (u, .complete st u.time.trimRefusal)) :
    ∃ t, exec (.trimRate h v) s = .next t ∧
      Answered s s t r k
        (completionOf s r h st (.trim s.time.trim (s.time.pendingTrim.map fun p => p.value) 0 0)) :=
  answered_of_op (m := .trimRate v) id hf (fun _ => rfl) rfl fun c _ => refused c _ rfl

/-- An accepted TRIM_RATE is pending, and owes its completion (R75, R151). -/
theorem trimRate_accepted {s : State} {r : CommandRingId} {k : NoticeRingId} {h : Header} {v : BitVec 32}
    (hf : Fetching s r k) (low : -20000 ≤ v.toInt) (high : v.toInt ≤ 20000) (free : s.time.pendingTrim = none) :
    ∃ t, exec (.trimRate h v) s = .next t ∧
      Owing s
        { s with time :=
            { s.time with
              pendingTrim := some
                { value := v.toInt, ring := r, ident := h.ident, takeIndex := s.intake.rings[r].nextTake } } } t r k
        { kind := .trimRate, ident := h.ident, takeIndex := s.intake.rings[r].nextTake } := by
  have time : (advanceTake r s).time = s.time := by rw [advanceTake_eq]
  refine owing_of_take (m := .trimRate v) (kind := .trimRate) (v := { advanceTake r s with time :=
      { s.time with
        pendingTrim := some
          { value := v.toInt, ring := r, ident := h.ident, takeIndex := s.intake.rings[r].nextTake } } }) hf ?_ rfl
    (advanceTake_notices r s) ?_
  · show takeTrimRate _ v _ = _
    simp only [takeTrimRate, trimOf_some low high, time, free, Option.isSome_none, Bool.false_eq_true, if_false]
  · rw [advanceTake_eq]

/-- The oldest boundary tick that counting has reached is taken, and applies the pending trim (R74, R76). -/
theorem secondBoundary_taken {s : State} {b : Nat} {l : List Nat} (due : s.time.dueBoundaries = b :: l) :
    exec .secondBoundary s =
      .next (applyTrim (s.time.calendarSecond b) { s with time := { s.time with dueBoundaries := l } }) := by
  show execSecondBoundary s = _
  simp only [execSecondBoundary, due]
  rfl

/-- Settles O15: the command by its checks, the second boundary by what becomes of the pending trim. -/
theorem trimRateIsAppliedAtASecondBoundary : Obligations.TrimRateIsAppliedAtASecondBoundary := by
  refine ⟨fun h v s r k hf => ⟨fun st refusal => ?_, trimRate_accepted hf⟩, fun s u b l due hu => ⟨fun p hp gone => ?_,
    fun p o k pending ho stands bound => ?_⟩⟩
  · obtain ⟨rfl, beyond⟩ | ⟨rfl, low, high, pending⟩ := refusal
    · exact trimRate_refused hf fun c u _ => by simp only [takeTrimRate, trimOf_none beyond]
    · exact trimRate_refused hf fun c u time => by
        simp only [takeTrimRate, trimOf_some low high, time, pending, if_true]
  · subst hp hu
    exact (secondBoundary_taken due).trans (congrArg Host.Outcome.next
      (applyTrim_gone (s := { s with time := { s.time with dueBoundaries := l } }) _ gone))
  · subst ho hu
    exact (secondBoundary_taken due).trans (congrArg Host.Outcome.next
      ((applyTrim_some (s := { s with time := { s.time with dueBoundaries := l } }) pending _).trans
        (completeOwed_mem stands bound)))

/-! ### STEP_TIMEBASE -/

theorem acceptsStep_iff (u : TimeUnit) (d : BitVec 64) :
    u.acceptsStep d = true ↔ 1 ≤ d.toNat ∧ d.toNat ≤ 2 ^ 40 ∧ u.timebase.toNat + d.toNat < 2 ^ 64 := by
  rw [TimeUnit.acceptsStep, Bool.and_eq_true, Bool.and_eq_true, decide_eq_true_iff, decide_eq_true_iff,
    decide_eq_true_iff, and_assoc]
  exact and_congr_right fun _ => and_congr Iff.rfl Nat.lt_succ_iff.symm

theorem boundaryAfter_eq (u : TimeUnit) (t : Nat) :
    u.boundaryAfter t = u.anchorTick.toNat + ((t - u.anchorTick.toNat) / second + 1) * second := by
  rw [Nat.succ_mul, ← Nat.add_assoc]
  rfl

/-- The time unit a step on: the next boundary lies beyond the new timebase (R74, R78). -/
def TimeUnit.stepped (d : BitVec 64) (u : TimeUnit) : TimeUnit :=
  { u with
    timebase := u.timebase + d
    nextBoundary :=
      if u.nextBoundary ≤ (u.timebase + d).toNat then
        u.anchorTick.toNat + (((u.timebase + d).toNat - u.anchorTick.toNat) / second + 1) * second
      else u.nextBoundary }

theorem stepped_crossed {u : TimeUnit} {d : BitVec 64} (crossed : u.nextBoundary ≤ (u.timebase + d).toNat) :
    u.stepped d =
      { u with timebase := u.timebase + d, nextBoundary := u.boundaryAfter (u.timebase + d).toNat } := by
  rw [boundaryAfter_eq, TimeUnit.stepped, if_pos crossed]

theorem stepped_short {u : TimeUnit} {d : BitVec 64} (short : (u.timebase + d).toNat < u.nextBoundary) :
    u.stepped d = { u with timebase := u.timebase + d } := by
  rw [TimeUnit.stepped, if_neg (Nat.not_le.mpr short)]

/-- A step without a second boundary of its own, or with no trim to apply there, moves the time alone (R74, R77). -/
theorem stepTime_silent {s : State} {d : BitVec 64}
    (silent : s.time.nextBoundary ≤ (s.time.timebase + d).toNat → s.time.pendingTrim = none) :
    stepTime d s = { s with time := s.time.stepped d } := by
  obtain ⟨short, stepped⟩ | ⟨crossed, stepped⟩ := stepTime_cases d s
  · rw [stepped, stepped_short short]
  · rw [stepped, ← stepped_crossed crossed]
    exact applyTrim_none (s := { s with time := s.time.stepped d }) (silent crossed) _

/-- A step across a boundary applies the pending trim, once (R74, R77). -/
theorem stepTime_applies {s : State} {d : BitVec 64} {p : PendingTrim}
    (crossed : s.time.nextBoundary ≤ (s.time.timebase + d).toNat) (pending : s.time.pendingTrim = some p) :
    stepTime d s =
      owedEnded p.ring p.owed
        (.completion p.ring .ok p.ident p.takeIndex
          (.trim p.value none (s.time.timebase + d) (s.time.calendarSecond (s.time.timebase + d).toNat)))
        { s with time := (s.time.stepped d).trimmed } := by
  obtain ⟨short, -⟩ | ⟨-, stepped⟩ := stepTime_cases d s
  · exact absurd crossed (Nat.not_le.mpr short)
  · rw [stepped, ← stepped_crossed crossed]
    exact (applyTrim_some (s := { s with time := s.time.stepped d }) pending _).trans (completeOwed_eq _ _ _ _ _)

/-- Whether or not it applies a trim, a step moves the clock alike. -/
theorem stepTime_time (d : BitVec 64) (s : State) :
    (stepTime d s).time = s.time.stepped d ∨ (stepTime d s).time = (s.time.stepped d).trimmed := by
  by_cases silent : s.time.nextBoundary ≤ (s.time.timebase + d).toNat → s.time.pendingTrim = none
  · exact .inl (by rw [stepTime_silent silent])
  · obtain ⟨crossed, present⟩ := Classical.not_imp.mp silent
    obtain ⟨p, pending⟩ := Option.ne_none_iff_exists'.mp present
    exact .inr (by rw [stepTime_applies crossed pending]; rfl)

theorem takeStepTimebase_refused {s : State} {d : BitVec 64} (refused : s.time.acceptsStep d = false) :
    takeStepTimebase d s = (s, .complete .badParam .zero) := by
  rw [takeStepTimebase, refused, if_neg Bool.false_ne_true]

theorem takeStepTimebase_accepted {s : State} {d : BitVec 64} (accepted : s.time.acceptsStep d = true) :
    takeStepTimebase d s =
      (stepTime d s, .complete .ok
        (.step s.time.timebase (s.time.timebase + d) (s.time.calendarSecond (s.time.timebase + d).toNat)
          (decide (s.time.nextBoundary ≤ (s.time.timebase + d).toNat ∧ s.time.pendingTrim.isSome = true)))) := by
  rw [takeStepTimebase, if_pos accepted, Bool.decide_and, Bool.decide_eq_true]
  rfl

theorem owedEnded_bound (q r : CommandRingId) (o : Owed) (n : Notice) (s : State) :
    (owedEnded q o n s).intake.rings[r].bound? = s.intake.rings[r].bound? := by
  have ring : (owedEnded q o n s).intake.rings[r] =
      if r = q then { s.intake.rings[q] with outstanding := s.intake.rings[q].outstanding.erase o }
      else s.intake.rings[r] := setRing_get q r _ s
  rw [ring]
  split
  · rename_i h
    subst h
    rfl
  · rfl

/-- A step that applies no trim completes alone (R78). -/
theorem stepTimebase_silent {s : State} {r : CommandRingId} {k : NoticeRingId} {h : Header} {d : BitVec 64}
    (hf : Fetching s r k) (accepted : s.time.acceptsStep d = true)
    (silent : s.time.nextBoundary ≤ (s.time.timebase + d).toNat → s.time.pendingTrim = none) :
    ∃ t, exec (.stepTimebase h d) s = .next t ∧
      Answered s { s with time := s.time.stepped d } t r k
        (completionOf s r h .ok
          (.step s.time.timebase (s.time.timebase + d) (s.time.calendarSecond (s.time.timebase + d).toNat) false)) := by
  have quiet : decide (s.time.nextBoundary ≤ (s.time.timebase + d).toNat ∧ s.time.pendingTrim.isSome = true) = false :=
    decide_eq_false fun ⟨crossed, present⟩ => by rw [silent crossed] at present; cases present
  refine answered_of_op (m := .stepTimebase d) (fun u => { u with time := s.time.stepped d }) hf (fun _ => rfl) rfl
    fun _ x => (takeStepTimebase_accepted (s := { s with intake := x }) accepted).trans ?_
  rw [quiet, stepTime_silent (s := { s with intake := x }) silent]

/-- A step that applies a trim completes after it (R77, R78). -/
theorem stepTimebase_applies {s : State} {r : CommandRingId} {k : NoticeRingId} {h : Header} {d : BitVec 64}
    {p : PendingTrim} (hf : Fetching s r k) (accepted : s.time.acceptsStep d = true)
    (crossed : s.time.nextBoundary ≤ (s.time.timebase + d).toNat) (pending : s.time.pendingTrim = some p) :
    exec (.stepTimebase h d) s =
      .next (settle
        (afterTake r k
          [completionOf s r h .ok
            (.step s.time.timebase (s.time.timebase + d) (s.time.calendarSecond (s.time.timebase + d).toNat) true)]
          (owedEnded p.ring p.owed
            (.completion p.ring .ok p.ident p.takeIndex
              (.trim p.value none (s.time.timebase + d) (s.time.calendarSecond (s.time.timebase + d).toNat)))
            { s with time := (s.time.stepped d).trimmed }))) := by
  have applies : decide (s.time.nextBoundary ≤ (s.time.timebase + d).toNat ∧ s.time.pendingTrim.isSome = true) = true :=
    decide_eq_true ⟨crossed, by rw [pending]; rfl⟩
  have time : (advanceTake r s).time = s.time := by rw [advanceTake_eq]
  refine congrArg Host.Outcome.next (commandFetched_completed (m := .stepTimebase d) hf ?_ ?_)
  · refine (takeStepTimebase_accepted (by rw [time]; exact accepted)).trans ?_
    rw [stepTime_applies (by rw [time]; exact crossed) (by rw [time]; exact pending), time, applies,
      ← owedEnded_advanceTake]
    exact congrArg (fun u => (owedEnded p.ring p.owed _ u, _))
      (advanceTake_comm (fun u => { u with time := (s.time.stepped d).trimmed }) (fun _ => rfl) rfl)
  · rw [owedEnded_bound]
    exact hf.bound

/-- Settles O16: refused, or a step that applies no trim, or one that applies the pending trim. -/
theorem stepMovesTheTimebase : Obligations.StepMovesTheTimebase := by
  intro h d s r k hf
  refine ⟨fun beyond => ?_, fun x u b low high range hx hb hu => ⟨fun silent => ?_, fun applies p pending => ?_⟩⟩
  · have refused : s.time.acceptsStep d = false := Bool.eq_false_iff.mpr fun accepted => by
      have := (acceptsStep_iff s.time d).mp accepted
      omega
    exact answered_of_op (m := .stepTimebase d) id hf (fun _ => rfl) rfl fun _ x =>
      takeStepTimebase_refused (s := { s with intake := x }) refused
  all_goals
    have accepted := (acceptsStep_iff s.time d).mpr ⟨low, high, range⟩
    subst hx hu
  · subst silent
    refine stepTimebase_silent hf accepted fun crossed => ?_
    exact Option.not_isSome_iff_eq_none.mp fun present => of_decide_eq_false hb.symm ⟨crossed, present⟩
  · subst applies
    obtain ⟨crossed, -⟩ := of_decide_eq_true hb.symm
    exact stepTimebase_applies hf accepted crossed pending

end Sys2Proof.Machine
end

section
/-! The calendar: days and years, the months of a year, and that a calendar second and its date give each other (R81,
R82, R85). -/

namespace Sys2Proof.Machine

open Sys2Proof

/-! ### Years -/

theorem leapYear_iff (y : Nat) : leapYear y = true ↔ y % 4 = 0 ∧ (y % 100 ≠ 0 ∨ y % 400 = 0) := by simp [leapYear]

theorem yearLength_eq (y : Nat) :
    yearLength y = 365 + if y % 4 = 0 ∧ (y % 100 ≠ 0 ∨ y % 400 = 0) then 1 else 0 := by
  by_cases leap : leapYear y = true
  · rw [yearLength, if_pos leap, if_pos ((leapYear_iff y).mp leap)]
  · rw [yearLength, if_neg leap, if_neg (mt (leapYear_iff y).mpr leap)]

/-- The multiples of 4, of 100 and of 400 below `n + 1`, beside those below `n`. -/
theorem multiples_succ (n : Nat) :
    (n + 1 + 3) / 4 = (n + 3) / 4 + (if n % 4 = 0 then 1 else 0) ∧
      (n + 1 + 99) / 100 = (n + 99) / 100 + (if n % 100 = 0 then 1 else 0) ∧
      (n + 1 + 399) / 400 = (n + 399) / 400 + (if n % 400 = 0 then 1 else 0) := by
  refine ⟨?_, ?_, ?_⟩ <;> split <;> omega

/-- The closed form counts year by year (R81). -/
theorem daysBeforeYear_succ (n : Nat) : daysBeforeYear (n + 1) = daysBeforeYear n + yearLength (2000 + n) := by
  obtain ⟨fours, hundreds, fourHundreds⟩ := multiples_succ n
  have more : (n + 99) / 100 ≤ (n + 3) / 4 := by omega
  have leap : ((2000 + n) % 4 = 0 ∧ ((2000 + n) % 100 ≠ 0 ∨ (2000 + n) % 400 = 0)) ↔
      n % 4 = 0 ∧ (n % 100 ≠ 0 ∨ n % 400 = 0) := by omega
  have within : (n % 400 = 0 → n % 100 = 0) ∧ (n % 100 = 0 → n % 4 = 0) := by omega
  rw [yearLength_eq, daysBeforeYear, daysBeforeYear, fours, hundreds, fourHundreds]
  simp only [leap]
  generalize (n + 3) / 4 = a, (n + 99) / 100 = b, (n + 399) / 400 = c, n % 4 = x, n % 100 = y, n % 400 = z at *
  split_ifs <;> omega

theorem daysBeforeYear_ge (n : Nat) : 365 * n ≤ daysBeforeYear n := by
  unfold daysBeforeYear
  omega

theorem daysBeforeYear_le {n : Nat} (h : n ≤ 400) : daysBeforeYear n ≤ 365 * n + 97 := by
  unfold daysBeforeYear
  omega

theorem daysBeforeYear_mono {m n : Nat} (h : m ≤ n) : daysBeforeYear m ≤ daysBeforeYear n := by
  induction h with
  | refl => exact Nat.le_refl _
  | step _ ih => exact ih.trans (by rw [Nat.succ_eq_add_one, daysBeforeYear_succ]; exact Nat.le_add_right _ _)

/-- The days of the 400-year span. -/
theorem daysBeforeYear_span : daysBeforeYear 400 = 146097 := rfl

/-- Year index `n` is that of every day of year 2000 + `n`. -/
theorem yearIndex_bounds {d : Nat} (h : d < 146097) :
    yearIndex d < 400 ∧ daysBeforeYear (yearIndex d) ≤ d ∧ d < daysBeforeYear (yearIndex d + 1) := by
  have low := daysBeforeYear_ge (d / 365 + 1)
  unfold yearIndex
  split
  · rename_i begun
    refine ⟨Nat.lt_of_not_le fun beyond => ?_, begun, by omega⟩
    have := daysBeforeYear_mono beyond
    rw [daysBeforeYear_span] at this
    omega
  · rename_i ahead
    have first : d / 365 ≠ 0 := fun zero => ahead (by rw [zero]; exact Nat.zero_le d)
    have high := daysBeforeYear_le (show d / 365 - 1 ≤ 400 by omega)
    rw [Nat.sub_add_cancel (Nat.pos_of_ne_zero first)]
    exact ⟨by omega, by omega, Nat.lt_of_not_le ahead⟩

/-- A day lies in one year. -/
theorem yearIndex_unique {d n : Nat} (year : n < 400) (begun : daysBeforeYear n ≤ d) (within : d < daysBeforeYear (n + 1)) :
    yearIndex d = n := by
  have span := daysBeforeYear_mono (Nat.succ_le_of_lt year)
  rw [daysBeforeYear_span] at span
  obtain ⟨-, begun', within'⟩ := yearIndex_bounds (within.trans_le span)
  refine Nat.le_antisymm (Nat.le_of_not_lt fun less => ?_) (Nat.le_of_not_lt fun less => ?_)
  · exact absurd (daysBeforeYear_mono (Nat.succ_le_of_lt less)) (Nat.not_le.mpr (begun'.trans_lt within))
  · exact absurd (daysBeforeYear_mono (Nat.succ_le_of_lt less)) (Nat.not_le.mpr (begun.trans_lt within'))

/-! ### Months -/

theorem monthLengths_sum (y : Nat) : (monthLengths y).sum = yearLength y := by
  unfold monthLengths yearLength
  split <;> rfl

theorem monthLengths_length (y : Nat) : (monthLengths y).length = 12 := rfl

theorem monthLength_succ (y m : Nat) : monthLength y (m + 1) = (monthLengths y).getD m 0 := rfl

/-- Table 4-3, with the leap rule spelled (R81, R85). -/
theorem monthLength_eq {y m : Nat} (low : 1 ≤ m) (high : m ≤ 12) :
    monthLength y m =
      if m = 2 then (if y % 4 = 0 ∧ (y % 100 ≠ 0 ∨ y % 400 = 0) then 29 else 28)
      else if m ∈ [4, 6, 9, 11] then 30 else 31 := by
  have table : monthLength y m =
      if m = 2 then (if leapYear y = true then 29 else 28) else if m ∈ [4, 6, 9, 11] then 30 else 31 := by
    interval_cases m <;> rfl
  simpa only [leapYear_iff] using table

theorem monthLength_none {y m : Nat} (h : m = 0 ∨ 12 < m) : monthLength y m = 0 := by
  obtain rfl | beyond := h
  · rfl
  · rw [monthLength, if_neg (by omega), List.getD_eq_default]
    rw [monthLengths_length]
    omega

/-- A walk through the months ends in one of them, with the days left over. -/
theorem monthWalk_bounds (l : List Nat) (d : Nat) (h : d < l.sum) :
    (monthWalk l d).1 < l.length ∧ (monthWalk l d).2 < l.getD (monthWalk l d).1 0 ∧
      (l.take (monthWalk l d).1).sum + (monthWalk l d).2 = d := by
  induction l generalizing d with
  | nil => exact absurd h (Nat.not_lt_zero d)
  | cons m l ih =>
    unfold monthWalk
    split
    · rename_i within
      exact ⟨Nat.succ_pos _, within, by simp⟩
    · rename_i beyond
      rw [List.sum_cons] at h
      obtain ⟨month, day, total⟩ := ih (d - m) (by omega)
      refine ⟨Nat.succ_lt_succ month, day, ?_⟩
      rw [List.take_succ_cons, List.sum_cons]
      omega

/-- A day of a month is walked to. -/
theorem monthWalk_of_day (l : List Nat) (i j : Nat) (day : j < l.getD i 0) :
    monthWalk l ((l.take i).sum + j) = (i, j) := by
  induction l generalizing i with
  | nil => exact absurd day (Nat.not_lt_zero j)
  | cons m l ih =>
    cases i with
    | zero =>
      have within : j < m := day
      rw [List.take_zero, List.sum_nil, Nat.zero_add, monthWalk, if_pos within]
    | succ i =>
      have rest := ih i day
      rw [List.take_succ_cons, List.sum_cons, monthWalk, if_neg (by omega),
        show m + (l.take i).sum + j - m = (l.take i).sum + j by omega, rest]

theorem take_sum_lt {l : List Nat} {i j : Nat} (day : j < l.getD i 0) : (l.take i).sum + j < l.sum := by
  induction l generalizing i with
  | nil => exact absurd day (Nat.not_lt_zero j)
  | cons m l ih =>
    cases i with
    | zero =>
      have within : j < m := day
      rw [List.take_zero, List.sum_nil, List.sum_cons]
      omega
    | succ i =>
      have rest := ih day
      rw [List.take_succ_cons, List.sum_cons, List.sum_cons]
      omega

/-! ### Dates and calendar seconds -/

/-- The reading of a calendar second is a date, and gives the second back (R81, R82). -/
theorem readSecond_date {c : Nat} (h : c < 12622780800) :
    let x := readSecond c
    2000 ≤ x.year ∧ x.year ≤ 2399 ∧ 1 ≤ x.month ∧ x.month ≤ 12 ∧ 1 ≤ x.day ∧ x.day ≤ monthLength x.year x.month ∧
      x.hour ≤ 23 ∧ x.minute ≤ 59 ∧ x.second ≤ 59 ∧ x.weekday = (c / 86400 + 5) % 7 + 1 ∧
      secondOfFields x.year x.month x.day x.hour x.minute x.second = c := by
  obtain ⟨year, begun, within⟩ := yearIndex_bounds (show c / 86400 < 146097 by omega)
  rw [daysBeforeYear_succ, ← monthLengths_sum] at within
  obtain ⟨month, day, total⟩ := monthWalk_bounds (monthLengths (2000 + yearIndex (c / 86400)))
    (c / 86400 - daysBeforeYear (yearIndex (c / 86400))) (by omega)
  rw [monthLengths_length] at month
  simp only [readSecond, readingOf, secondOfFields, monthLength_succ, Nat.add_sub_cancel, Nat.add_sub_cancel_left]
  refine ⟨by omega, by omega, by omega, by omega, by omega, day, by omega, by omega, by omega, rfl, ?_⟩
  rw [Nat.add_assoc, total]
  omega

/-- A date of the calendar: a year of the span, a month, and a day of the month (R85). -/
structure DateValid (year month day : Nat) : Prop where
  yearFirst : 2000 ≤ year
  yearLast : year ≤ 2399
  dayFirst : 1 ≤ day
  dayLast : day ≤ monthLength year month

theorem DateValid.month {y m d : Nat} (h : DateValid y m d) : 1 ≤ m ∧ m ≤ 12 := by
  refine ⟨Nat.pos_of_ne_zero fun zero => ?_, Nat.le_of_not_lt fun beyond => ?_⟩
  · exact absurd (h.dayFirst.trans h.dayLast) (by rw [monthLength_none (.inl zero)]; decide)
  · exact absurd (h.dayFirst.trans h.dayLast) (by rw [monthLength_none (.inr beyond)]; decide)

/-- The day of a date, counted from the beginning of the calendar (R81). -/
def dayNumber (year month day : Nat) : Nat :=
  daysBeforeYear (year - 2000) + ((monthLengths year).take (month - 1)).sum + (day - 1)

/-- The day of a date is read as that date. -/
theorem dayNumber_reading {y m d : Nat} (h : DateValid y m d) (t : Nat) :
    dayNumber y m d < 146097 ∧
      readingOf (dayNumber y m d) t =
        { year := y, month := m, day := d, hour := t / 3600, minute := t % 3600 / 60, second := t % 60,
          weekday := weekdayOf (dayNumber y m d) } := by
  obtain ⟨first, last, day, within⟩ := h
  obtain ⟨month, -⟩ := DateValid.month ⟨first, last, day, within⟩
  obtain ⟨n, rfl⟩ := Nat.exists_eq_add_of_le first
  obtain ⟨i, rfl⟩ := Nat.exists_eq_add_of_le' month
  obtain ⟨j, rfl⟩ := Nat.exists_eq_add_of_le' day
  rw [monthLength_succ] at within
  have number : dayNumber (2000 + n) (i + 1) (j + 1) =
      daysBeforeYear n + (((monthLengths (2000 + n)).take i).sum + j) := by
    rw [dayNumber, Nat.add_sub_cancel_left, Nat.add_sub_cancel, Nat.add_sub_cancel, Nat.add_assoc]
  have inYear := take_sum_lt (Nat.lt_of_succ_le within)
  have span := daysBeforeYear_mono (show n + 1 ≤ 400 by omega)
  have next := daysBeforeYear_succ n
  rw [monthLengths_sum] at inYear
  rw [daysBeforeYear_span] at span
  have index : yearIndex (dayNumber (2000 + n) (i + 1) (j + 1)) = n :=
    yearIndex_unique (by omega) (by omega) (by omega)
  refine ⟨by omega, ?_⟩
  unfold readingOf
  rw [index, number, Nat.add_sub_cancel_left, monthWalk_of_day _ _ _ (Nat.lt_of_succ_le within)]

/-- The fields of a SET_CALENDAR that are valid, and the second they name (R85). -/
theorem calendarSecondOf_iff (f : CalendarFields) (c : Nat) :
    calendarSecondOf f = some c ↔
      (DateValid f.year.toNat f.month.toNat f.day.toNat ∧ f.hour.toNat ≤ 23 ∧ f.minute.toNat ≤ 59 ∧ f.second.toNat ≤ 59) ∧
        dayNumber f.year.toNat f.month.toNat f.day.toNat * 86400 +
          (f.hour.toNat * 3600 + f.minute.toNat * 60 + f.second.toNat) = c := by
  simp only [calendarSecondOf, Option.ite_none_right_eq_some, Option.some_inj]
  refine and_congr ⟨fun ⟨first, last, day, within, time⟩ => ⟨⟨first, last, day, within⟩, time⟩,
    fun ⟨⟨first, last, day, within⟩, time⟩ => ⟨first, last, day, within, time⟩⟩ Iff.rfl

/-- A date is the reading of the second that it names (R81, R82, R85). -/
theorem calendarSecondOf_reading {f : CalendarFields} {c : Nat} (h : calendarSecondOf f = some c) :
    c < 12622780800 ∧
      readSecond c =
        { year := f.year.toNat, month := f.month.toNat, day := f.day.toNat, hour := f.hour.toNat,
          minute := f.minute.toNat, second := f.second.toNat, weekday := (c / 86400 + 5) % 7 + 1 } := by
  obtain ⟨⟨date, hour, minute, second⟩, named⟩ := (calendarSecondOf_iff f c).mp h
  obtain ⟨span, reading⟩ := dayNumber_reading date (f.hour.toNat * 3600 + f.minute.toNat * 60 + f.second.toNat)
  have day : c / 86400 = dayNumber f.year.toNat f.month.toNat f.day.toNat := by omega
  have time : c % 86400 = f.hour.toNat * 3600 + f.minute.toNat * 60 + f.second.toNat := by omega
  refine ⟨by omega, ?_⟩
  rw [readSecond, day, time, reading, weekdayOf, Reading.mk.injEq]
  refine ⟨rfl, rfl, rfl, by omega, by omega, by omega, rfl⟩

/-! ### SET_CALENDAR -/

theorem calendarSecondOf_isSome (f : CalendarFields) : (calendarSecondOf f).isSome = true ↔
    2000 ≤ f.year.toNat ∧ f.year.toNat ≤ 2399 ∧ 1 ≤ f.month.toNat ∧ f.month.toNat ≤ 12 ∧ 1 ≤ f.day.toNat ∧
      f.day.toNat ≤
        (if f.month.toNat = 2 then
          (if f.year.toNat % 4 = 0 ∧ (f.year.toNat % 100 ≠ 0 ∨ f.year.toNat % 400 = 0) then 29 else 28)
         else if f.month.toNat ∈ [4, 6, 9, 11] then 30 else 31) ∧
      f.hour.toNat ≤ 23 ∧ f.minute.toNat ≤ 59 ∧ f.second.toNat ≤ 59 := by
  rw [Option.isSome_iff_exists]
  constructor
  · rintro ⟨c, h⟩
    obtain ⟨⟨date, time⟩, -⟩ := (calendarSecondOf_iff f c).mp h
    obtain ⟨low, high⟩ := date.month
    exact ⟨date.yearFirst, date.yearLast, low, high, date.dayFirst, monthLength_eq low high ▸ date.dayLast, time⟩
  · rintro ⟨first, last, low, high, day, within, time⟩
    exact ⟨_, (calendarSecondOf_iff f _).mpr ⟨⟨⟨first, last, day, (monthLength_eq low high).symm ▸ within⟩, time⟩, rfl⟩⟩

/-- Settles O18: the checks field by field, and the reading and the reverse reading each from the other. -/
theorem setCalendarChecksItsFields : Obligations.SetCalendarChecksItsFields := by
  refine ⟨⟨calendarSecondOf_isSome, fun h f s r k hf invalid => ?_⟩, fun c x span hx => ?_, fun f c =>
    calendarSecondOf_reading⟩
  · exact answered_of_op (m := .setCalendar f) id hf (fun _ => rfl) rfl fun c y => by
      simp only [takeCommand, takeSetCalendar, invalid, id_eq]
  · subst hx
    exact readSecond_date span

end Sys2Proof.Machine
end

section
/-! An accepted SET_CALENDAR: the anchor, the slots taken back and placed again, and the pass it ends and the pass it
starts (R86, R97 to R100). -/

namespace Sys2Proof.Machine

open Sys2Proof

/-! ### The slots taken back -/

/-- A started slot is RESOLVING once it is taken back, and no other slot is (R97 steps 3 and 5). -/
theorem takenBack_eq (x : Slot) :
    x.takenBack = (if x.started then { x with event := x.event.map fun e => { e with run := .resolving } } else x) ∧
      x.takenBack.calendarIn (fun r => r = .resolving) = x.started := by
  obtain ⟨g, n, _ | ⟨d, run, remaining, done⟩⟩ := x
  · exact ⟨rfl, rfl⟩
  · cases hc : d.isCalendar <;> cases run <;> simp [Slot.takenBack, Slot.started, Slot.calendarIn, Run.isArmed, hc]

theorem calendarResolving_takeBack (s : State) : calendarResolving (takeBack s) = startedSlots s := by
  refine List.filter_congr fun i _ => ?_
  have slot : (takeBack s).slots[i] = (s.slots[i]).takenBack := by simp [takeBack]
  rw [slot, (takenBack_eq _).2]

/-- The items join the queue in order, all with the second and its begin at the timebase (R88, R97 step 5). -/
theorem pushItems_eq (l : List SlotId) (s : State) :
    l.foldl (fun t i => pushItem i true t) s =
      { s with resolver :=
          { s.resolver with
            queue := s.resolver.queue ++ l.map fun i =>
              { slot := i, base := s.time.secondAt s.time.timebase.toNat
                beginTick := BitVec.ofNat 64 (s.time.secondBegin s.time.timebase.toNat), member := true } } } := by
  induction l generalizing s with
  | nil => rw [List.foldl_nil, List.map_nil, List.append_nil]
  | cons i l ih =>
    rw [List.foldl_cons, ih, List.map_cons, List.append_cons]
    rfl

/-- With the anchor at the timebase, its second begins there (R80, R88). -/
theorem anchor_second (u : TimeUnit) {c : Nat} (range : c < Config.calendarSpan) :
    let v : TimeUnit :=
      { u with anchorTick := u.timebase, anchorSecond := c, nextBoundary := u.timebase.toNat + 100000000, dueBoundaries := [] }
    v.secondAt v.timebase.toNat = c ∧ BitVec.ofNat 64 (v.secondBegin v.timebase.toNat) = u.timebase := by
  simp [TimeUnit.secondAt, TimeUnit.secondBegin, Nat.mod_eq_of_lt range]

/-- Steps 2 to 5 of R97 under the new anchor. -/
theorem rePlace_setAnchor {c : Nat} (range : c < Config.calendarSpan) (s : State) :
    rePlace (setAnchor c s) = calendarSet c s.resolver.pass s := by
  obtain ⟨base, begins⟩ := anchor_second s.time range
  have slots : Slot.takenBack = fun x : Slot =>
      if x.started then { x with event := x.event.map fun e => { e with run := .resolving } } else x :=
    funext fun x => (takenBack_eq x).1
  have items : ∀ i : SlotId,
      ({ slot := i, base := (setAnchor c s).time.secondAt (setAnchor c s).time.timebase.toNat
         beginTick := BitVec.ofNat 64 ((setAnchor c s).time.secondBegin (setAnchor c s).time.timebase.toNat)
         member := true } : Item) = { slot := i, base := c, beginTick := s.time.timebase, member := true } :=
    fun i => by rw [Item.mk.injEq]; exact ⟨rfl, base, begins, rfl⟩
  have started : startedSlots (setAnchor c s) = startedSlots s := rfl
  have time : (takeBack (setAnchor c s)).time = (setAnchor c s).time := rfl
  rw [rePlace, calendarResolving_takeBack, pushItems_eq, started, time]
  simp only [items]
  rw [takeBack, slots]
  rfl

/-! ### The pass that ends and the pass that starts -/

/-- The pass that a SET_CALENDAR naming second `n` starts (R98). -/
def newPass (c : CommandRef) (n : Nat) (s : State) : Pass :=
  { ring := c.ring, ident := c.ident, takeIndex := c.takeIndex, anchorTick := s.time.timebase, anchorSecond := n
    placed := (startedSlots s).length, matched := 0, noMatch := 0, stopped := 0 }

theorem startPass_calendarSet (c : CommandRef) (n : Nat) (o : Option Pass) (s : State) :
    startPass c (calendarSet n o s) = newPass c n s := by
  simp only [startPass, newPass, calendarSet, List.length_map]

theorem supersede_none {s : State} (none : s.resolver.pass = none) : supersede s = s := by
  simp only [supersede, none]

theorem supersede_some {s : State} {p : Pass} (pass : s.resolver.pass = some p) :
    supersede s = passEnded p .superseded s := by
  simp only [supersede, pass, endPass_eq]

theorem supersede_pass (s : State) : (supersede s).resolver.pass = none := by
  cases pass : s.resolver.pass with
  | none => rw [supersede_none pass, pass]
  | some p => rw [supersede_some pass]; rfl

/-- The new anchor is set apart from the end of the old pass. -/
theorem supersede_calendarSet (n : Nat) (o : Option Pass) (s : State) :
    calendarSet n o (supersede s) =
      { calendarSet n o s with intake := (supersede s).intake, notices := (supersede s).notices } := by
  cases pass : s.resolver.pass with
  | none => rw [supersede_none pass]; rfl
  | some p => rw [supersede_some pass]; rfl

theorem supersede_advanceTake (r : CommandRingId) (s : State) :
    supersede (advanceTake r s) = advanceTake r (supersede s) := by
  have resolver : (advanceTake r s).resolver = s.resolver := by rw [advanceTake_eq]
  cases pass : s.resolver.pass with
  | none => rw [supersede_none pass, supersede_none (by rw [resolver]; exact pass)]
  | some p =>
    rw [supersede_some pass, supersede_some (by rw [resolver]; exact pass), passEnded, passEnded, ← owedEnded_advanceTake]
    exact congrArg (owedEnded _ _ _)
      (advanceTake_comm (fun u => { u with resolver := { u.resolver with pass := none } }) (fun _ => rfl) rfl)

theorem supersede_bound (r : CommandRingId) (s : State) :
    (supersede s).intake.rings[r].bound? = s.intake.rings[r].bound? := by
  cases pass : s.resolver.pass with
  | none => rw [supersede_none pass]
  | some p => rw [supersede_some pass, passEnded, owedEnded_bound]

/-! ### SET_CALENDAR -/

section Accepted

variable {f : CalendarFields} {n : Nat} (named : calendarSecondOf f = some n)

include named

theorem calendarSecond_range : n < Config.calendarSpan := (calendarSecondOf_reading named).1

/-- What an accepted SET_CALENDAR leaves is the new anchor after the end of the old pass (R86, R97, R99). -/
theorem takeSetCalendar_accepted (c : CommandRef) (s : State) :
    takeSetCalendar c f s =
      if startedSlots s = [] then
        (calendarSet n none (supersede s), .complete .ok (.calendar s.time.timebase n 0 0 0 0))
      else (calendarSet n (some (newPass c n s)) (supersede s), .owe .setCalendar) := by
  have started : startedSlots (supersede s) = startedSlots s := by simp only [startedSlots, supersede_frame]
  have pass : newPass c n (supersede s) = newPass c n s := by simp only [newPass, started, supersede_frame]
  have placed : (newPass c n s).placed = 0 ↔ startedSlots s = [] := List.length_eq_zero_iff
  simp only [takeSetCalendar, named]
  rw [rePlace_setAnchor (calendarSecond_range named), startPass_calendarSet, pass, supersede_pass]
  by_cases none : startedSlots s = []
  · rw [if_pos (placed.mpr none), if_pos none]
    simp only [Pass.result, newPass, none, List.length_nil]
  · rw [if_neg (mt placed.mp none), if_neg none]
    rfl

/-- With the fetch of its record taken first, too. -/
theorem takeSetCalendar_advanceTake (c : CommandRef) (r : CommandRingId) (s : State) :
    takeSetCalendar c f (advanceTake r s) =
      (advanceTake r (takeSetCalendar c f s).1, (takeSetCalendar c f s).2) := by
  have set : ∀ o, calendarSet n o (supersede (advanceTake r s)) = advanceTake r (calendarSet n o (supersede s)) :=
    fun o => by rw [supersede_advanceTake]; exact advanceTake_comm (calendarSet n o) (fun _ => rfl) rfl
  have started : startedSlots (advanceTake r s) = startedSlots s := by rw [advanceTake_eq]; rfl
  have pass : newPass c n (advanceTake r s) = newPass c n s := by rw [advanceTake_eq]; rfl
  have time : (advanceTake r s).time = s.time := by rw [advanceTake_eq]
  rw [takeSetCalendar_accepted named, takeSetCalendar_accepted named, set, set, started, pass, time]
  split <;> rfl

end Accepted

/-- The entry of a command and the taking of its record do not meet in the ring (R146, R151). -/
theorem addOwed_advanceTake (r : CommandRingId) (o : Owed) (s : State) :
    addOwed r o (advanceTake r s) = advanceTake r (addOwed r o s) := by
  have ring : ∀ (u : State) (j : CommandRingId), (addOwed r o u).intake.rings[j] =
      if j = r then { u.intake.rings[r] with outstanding := u.intake.rings[r].outstanding ++ [o] } else u.intake.rings[j] :=
    fun u j => setRing_get r j _ u
  obtain ⟨turn, count, ended⟩ := advanceTake_turn r s
  obtain ⟨turn', count', ended'⟩ := advanceTake_turn r (addOwed r o s)
  refine state_eq_of_rings ?_ (turn.trans turn'.symm) (count.trans count'.symm) (ended.trans ended'.symm) (fun j => ?_)
    fun j => ?_
  · rw [advanceTake_eq r (addOwed r o s), advanceTake_eq r s]
    rfl
  · rw [ring, advanceTake_rings, advanceTake_rings, advanceTake_rings, ring]
    by_cases hj : j = r
    · subst hj
      simp only [if_true]
      rfl
    · simp only [if_neg hj]
  · rw [advanceTake_notices]
    exact congrArg (·[j]) (advanceTake_notices r s)

/-- A command that its owner leaves to be completed later, whatever it does elsewhere: the owner leaves `w` with the
fetch taken. -/
theorem commandFetched_owing {s w : State} {r : CommandRingId} {k : NoticeRingId} {h : Header} {m : Command}
    {kind : OwedKind} {o : Owed} (hf : Fetching s r k)
    (take : takeCommand { ring := r, ident := h.ident, takeIndex := s.intake.rings[r].nextTake } h m (advanceTake r s) =
      (advanceTake r w, .owe kind))
    (bound : w.intake.rings[r].bound? = some k)
    (owed : o = { kind, ident := h.ident, takeIndex := s.intake.rings[r].nextTake }) :
    commandFetched h m s =
      settle (afterTake r k []
        (setRing r { w.intake.rings[r] with outstanding := w.intake.rings[r].outstanding ++ [o] } w)) := by
  have taken : takeFetched h (some m) r s = advanceTake r (addOwed r o w) := by
    simp only [takeFetched]
    rw [take, ← addOwed_advanceTake, owed]
    rfl
  rw [commandFetched, endFetch_live hf, taken]
  refine congrArg settle (stallIfFaulted_afterTake ?_ ?_)
  · rw [setRing_get, if_pos rfl]
    exact bound
  · have notices : ∀ u : State, u.notices.set k (u.notices[k].handed []) = u.notices := fun u => Vector.set_getElem_self _
    rw [notices, advanceTake_eq, advanceTake_intake]
    rfl

section Fetched

variable {f : CalendarFields} {n : Nat} {s : State} {r : CommandRingId} {k : NoticeRingId} (h : Header)
  (hf : Fetching s r k) (named : calendarSecondOf f = some n)

include hf named

/-- With no slot to place, a SET_CALENDAR completes, after the pass that it ends (R98, R99). -/
theorem setCalendar_completed (free : startedSlots s = []) :
    exec (.setCalendar h f) s =
      .next (settle
        (afterTake r k [completionOf s r h .ok (.calendar s.time.timebase n 0 0 0 0)]
          { calendarSet n none s with intake := (supersede s).intake, notices := (supersede s).notices })) := by
  rw [← supersede_calendarSet]
  refine congrArg Host.Outcome.next (commandFetched_completed (m := .setCalendar f) hf ?_ ?_)
  · refine (takeSetCalendar_advanceTake named _ r s).trans ?_
    rw [takeSetCalendar_accepted named, if_pos free]
  · exact (supersede_bound r s).trans hf.bound

/-- With slots to place, a SET_CALENDAR owes its completion to the pass that it starts (R98, R99). -/
theorem setCalendar_owing (busy : startedSlots s ≠ []) :
    exec (.setCalendar h f) s =
      .next (settle
        (afterTake r k []
          (setRing r
            { (supersede s).intake.rings[r] with
              outstanding := (supersede s).intake.rings[r].outstanding ++
                [{ kind := .setCalendar, ident := h.ident, takeIndex := s.intake.rings[r].nextTake }] }
            { calendarSet n
                (some (newPass { ring := r, ident := h.ident, takeIndex := s.intake.rings[r].nextTake } n s)) s with
              intake := (supersede s).intake, notices := (supersede s).notices }))) := by
  rw [← supersede_calendarSet]
  refine congrArg Host.Outcome.next (commandFetched_owing (m := .setCalendar f) hf ?_ ?_ rfl)
  · refine (takeSetCalendar_advanceTake named _ r s).trans ?_
    rw [takeSetCalendar_accepted named, if_neg busy]
  · exact (supersede_bound r s).trans hf.bound

end Fetched

/-- Settles O19: what becomes of the old pass stands before what the SET_CALENDAR itself does. -/
theorem setCalendarStartsAPass : Obligations.SetCalendarStartsAPass := by
  refine ⟨fun h f n s r k hf named pass => ⟨fun free => ?_, fun busy => ?_⟩,
    fun h f n s w r k p hf named pass hw => ⟨fun free => ?_, fun a o busy ha ho => ?_⟩⟩
  · refine ⟨_, setCalendar_completed h hf named free, .of_choice ?_⟩
    rw [supersede_none pass]
  · refine ⟨_, setCalendar_owing h hf named busy, .of_choice ?_⟩
    rw [supersede_none pass]
    rfl
  · rw [setCalendar_completed h hf named free, supersede_some pass, hw]
  · rw [setCalendar_owing h hf named busy, supersede_some pass, hw, ha, ho]
    rfl

end Sys2Proof.Machine
end

section
/-! What each command makes of the clock: the timebase, the anchor and the boundary ticks (R71 to R74, R78, R86, R87). -/

namespace Sys2Proof.Machine

open Sys2Proof

/-! ### The clock stands -/

/-- From `s` to `t` the time unit keeps all but its trims. -/
def SameClock (s t : State) : Prop := t.time = { s.time with trim := t.time.trim, pendingTrim := t.time.pendingTrim }

theorem SameClock.of_time {s t : State} (time : t.time = s.time) : SameClock s t := by rw [SameClock, time]

theorem SameClock.refl (s : State) : SameClock s s := .of_time rfl

theorem SameClock.trans {s t u : State} (a : SameClock s t) (b : SameClock t u) : SameClock s u := by
  rw [SameClock, b, a]

theorem hostWrite_clock {f : State → State} {s : State} (hf : SameClock s (f s)) : SameClock s (hostWrite f s) := by
  unfold hostWrite
  split
  · exact .refl s
  · exact hf

theorem whileRunning_clock {f : State → State} {s : State} (hf : SameClock s (f s)) :
    SameClock s (whileRunning f s) := by
  unfold whileRunning
  split
  · exact hf
  · exact .refl s

theorem whenBit_clock {s t : State} {f : State → State} (v : BitVec 32) (i : Nat) (a : SameClock s t)
    (hf : SameClock t (f t)) : SameClock s (whenBit v i f t) := by
  unfold whenBit
  split
  · exact a.trans hf
  · exact a

theorem settle_clock (s : State) : SameClock s (settle s) := .of_time (by simp)

/-! ### The control unit -/

theorem controlStart_clock (s : State) : SameClock s (controlStart s) := by
  unfold controlStart
  split <;> exact .of_time rfl

theorem latch_clock (f : Control → Control) (s : State) : SameClock s (latch f s) := by
  unfold latch
  split
  · exact .of_time (by simp)
  · exact .of_time rfl

theorem controlResume_clock (m : ResumeMode) (s : State) : SameClock s (controlResume m s) := by
  unfold controlResume
  split
  · exact .of_time rfl
  · split
    · exact .of_time (by simp [leaveHalted])
    · exact .of_time rfl

theorem resumeAlone_clock (m : ResumeMode) (s : State) : SameClock s (resumeAlone m s) := by
  unfold resumeAlone
  split
  · exact (controlResume_clock m s).trans (settle_clock _)
  · exact controlResume_clock m s

/-- A core reset keeps the time, with no trim pending (R87). -/
theorem controlReset_clock (s : State) : SameClock s (controlReset s) := rfl

theorem loadSetup_clock (b : SetupConfig) (s : State) : SameClock s (loadSetup b s) := by
  unfold loadSetup
  split
  · exact .of_time (by simp)
  · exact .of_time (by simp)

theorem writeControl_clock (v : BitVec 32) (s : State) : SameClock s (writeControl v s) := by
  have acted : SameClock s (whenBit v 4 controlClear (whenBit v 3 controlReset
      (whenBit v 2 (controlResume (resumeModeOf v)) (whenBit v 1 controlHalt (whenBit v 0 controlStart s))))) := by
    refine whenBit_clock v 4 (whenBit_clock v 3 (whenBit_clock v 2 (whenBit_clock v 1 (whenBit_clock v 0 (.refl s)
      (controlStart_clock s)) ?_) ?_) ?_) ?_
    · exact latch_clock _ _
    · exact controlResume_clock _ _
    · exact controlReset_clock _
    · exact .of_time rfl
  unfold writeControl
  dsimp only
  split
  · exact acted.trans (settle_clock _)
  · exact acted

/-! ### Register writes -/

theorem writeIntStatus_clock (v : BitVec 32) (s : State) : SameClock s (writeIntStatus v s) := by
  unfold writeIntStatus
  split <;> exact .of_time rfl

theorem writeQueueReset_clock (v : BitVec 32) (s : State) : SameClock s (writeQueueReset v s) := by
  unfold writeQueueReset
  split
  · exact .refl s
  · refine whileRunning_clock (SameClock.trans ?_ (settle_clock _))
    refine whenBit_clock v 3 (whenBit_clock v 2 (whenBit_clock v 1 (whenBit_clock v 0 (whenBit_clock v 5
      (whenBit_clock v 4 (.refl s) ?_) ?_) ?_) ?_) ?_) ?_
    all_goals exact .of_time (by simp)

theorem writePost_clock (r : CommandRingId) (v : BitVec 32) (s : State) : SameClock s (writePost r v s) := by
  unfold writePost
  split <;> exact .of_time (by simp)

theorem writeRelease_clock (k : NoticeRingId) (v : BitVec 32) (s : State) : SameClock s (writeRelease k v s) := by
  unfold writeRelease
  split
  · split
    · exact .of_time (by simp)
    · exact .refl s
  · exact .of_time (by simp)

theorem writeRegister_clock (o : Nat) (v : BitVec 32) (s : State) : SameClock s (writeRegister o v s) := by
  unfold writeRegister
  split
  · exact writeControl_clock v s
  · exact writeIntStatus_clock v s
  · exact .of_time rfl
  · exact writeQueueReset_clock v s
  · exact .of_time rfl
  · exact .of_time rfl
  · exact writePost_clock 0 v s
  · exact writePost_clock 1 v s
  · exact writePost_clock 2 v s
  · exact writePost_clock 3 v s
  · exact writeRelease_clock 0 v s
  · exact writeRelease_clock 1 v s
  · exact .refl s

/-! ### Happenings that are none of the time unit's -/

theorem firing_clock {s t : State} (h : exec .firing s = .next t) : SameClock s t := by
  cases h
  split
  · split
    · exact .of_time (by simp)
    · exact .of_time rfl
  · exact .refl s

theorem pulseEnd_clock {l : LineId} {s t : State} (h : exec (.pulseEnd l) s = .next t) : SameClock s t := by
  cases h
  split
  · split <;> exact .of_time rfl
  all_goals exact .refl s

theorem densityClock_clock {l : LineId} {s t : State} (h : exec (.densityClock l) s = .next t) : SameClock s t := by
  cases h
  split
  · split <;> exact .of_time rfl
  all_goals exact .refl s

theorem frameStart_clock {l : LineId} {s t : State} (h : exec (.frameStart l) s = .next t) : SameClock s t := by
  cases h
  split
  · split <;> exact .of_time rfl
  all_goals exact .refl s

theorem sample_clock {l : CaptureId} {v : Level} {s t : State} (h : exec (.sample l v) s = .next t) :
    SameClock s t := by
  cases h
  split
  · split
    · exact .of_time (by simp)
    · exact .refl s
  · exact .refl s

theorem deadlineExpiry_clock {r : CommandRingId} {s t : State} (h : exec (.deadlineExpiry r) s = .next t) :
    SameClock s t := by
  cases h
  split
  · split
    · split
      · exact .of_time (by simp)
      · exact .refl s
    · exact .refl s
  · exact .refl s

theorem endHeadWrite_clock (k : NoticeRingId) (q : Queued) (e : WriteEnd) (s : State) :
    SameClock s (endHeadWrite k q e s) := by
  cases e with
  | good => exact .of_time rfl
  | busError => exact .of_time (by simp [endHeadWrite])

theorem writeEnd_clock {k : NoticeRingId} {e : WriteEnd} {s t : State} (h : exec (.writeEnd k e) s = .next t) :
    SameClock s t := by
  cases h
  split
  · exact .of_time (by simp)
  · exact SameClock.trans (.of_time (by simp)) (endHeadWrite_clock k _ e _)
  · exact .refl s

theorem setupReadEnd_clock {i : Nat} {e : SetupEnd} {s t : State} (h : exec (.setupReadEnd i e) s = .next t) :
    SameClock s t := by
  cases h
  split
  · dsimp only
    split
    · exact .of_time rfl
    · split
      · exact SameClock.trans
          (t := { s with control := { s.control with setupReads := s.control.setupReads.eraseIdx i } }) (.of_time rfl)
          (loadSetup_clock _ _)
      · exact .of_time rfl
  · exact .refl s

theorem take_clock {s t : State} (h : exec .take s = .next t) : SameClock s t := by
  cases h
  split <;> exact .of_time rfl

theorem workEnd_clock {s t : State} (h : exec .workEnd s = .next t) : SameClock s t := by
  cases h
  split
  · split
    · exact .of_time rfl
    · exact .of_time (by simp)
  · exact .refl s

theorem faultFetch_time (r : CommandRingId) (s : State) : (faultFetch r s).time = s.time := by
  unfold faultFetch
  simp only [offerSystem_frame, setFault_frame]
  split
  · simp
  · rfl

end Sys2Proof.Machine
end

section
/-! R71, R72 and R74 through every command, and so through every step (O58). -/

namespace Sys2Proof.Machine

open Sys2Proof

/-! ### What a command makes of the time unit -/

/-- What command `c` may make of time unit `u`: its trims alone, or with them one move of the clock. -/
inductive ClockMove (c : Instr) (u : TimeUnit) : TimeUnit → Prop
  | kept (trim : Int) (pending : Option PendingTrim) : ClockMove c u { u with trim := trim, pendingTrim := pending }
  | counted : ClockMove c u u.referencePeriod
  | taken {b : Nat} {l : List Nat} (due : u.dueBoundaries = b :: l) :
      ClockMove c u { u with dueBoundaries := l }.trimmed
  | stepped {d : BitVec 64} {v : TimeUnit} (accepted : u.acceptsStep d = true)
      (moved : v = u.stepped d ∨ v = (u.stepped d).trimmed) : ClockMove c u v
  | set {n : Nat} (range : n < Config.calendarSpan) :
      ClockMove c u
        { u with anchorTick := u.timebase, anchorSecond := n, nextBoundary := u.timebase.toNat + 100000000,
                 dueBoundaries := [] }
  | reset (power : c = .powerOn ∨ c = .resetNAssert) : ClockMove c u TimeUnit.reset

theorem SameClock.move {c : Instr} {s t : State} (h : SameClock s t) : ClockMove c s.time t.time := by
  rw [SameClock] at h
  rw [h]
  exact .kept _ _

theorem ClockMove.of_time {c : Instr} {s t : State} (time : t.time = s.time) : ClockMove c s.time t.time :=
  (SameClock.of_time time).move

section Commands

variable {i : Instr}

theorem checked_time {s : State} {hd : Header} {f : Event → State × Answer} (hf : ∀ e, (f e).1.time = s.time) :
    (checked hd s f).1.time = s.time := by
  unfold checked
  split
  · rfl
  · split
    · exact hf _
    · rfl

theorem retimeSlot_time (j : SlotId) (e : Event) (f : RetimeFields) (s : State) :
    (retimeSlot j e f s).1.time = s.time := by
  unfold retimeSlot
  split
  · simp
  all_goals rfl

/-- The slot commands leave the time unit alone. -/
theorem slotCommand_time (c : CommandRef) (hd : Header) (s : State) :
    ∀ m : Command, (m = .start ∨ m = .stop ∨ (∃ f, m = .retime f) ∨ m = .unload ∨ m = .query ∨ ∃ n, m = .wait n) →
      (takeCommand c hd m s).1.time = s.time := by
  rintro m (rfl | rfl | ⟨f, rfl⟩ | rfl | rfl | ⟨n, rfl⟩)
  · refine checked_time fun e => ?_
    split
    · rfl
    · split
      · rfl
      · rw [answerSlot_fst]; simp
  · refine checked_time fun e => ?_
    split
    · rfl
    · rw [answerSlot_fst]; simp
  · refine checked_time fun e => ?_
    split
    · rfl
    · split
      · exact retimeSlot_time _ _ _ _
      · rfl
  · refine checked_time fun e => ?_
    split
    · rfl
    · split <;> rfl
  · exact checked_time fun _ => rfl
  · refine checked_time fun e => ?_
    split
    · rfl
    · split <;> rfl

theorem takeTrimRate_clock (c : CommandRef) (v : BitVec 32) (s : State) : SameClock s (takeTrimRate c v s).1 := by
  unfold takeTrimRate
  split
  · exact .refl s
  · split <;> exact rfl

theorem takeStepTimebase_move (d : BitVec 64) (s : State) : ClockMove i s.time (takeStepTimebase d s).1.time := by
  cases accepted : s.time.acceptsStep d with
  | false => rw [takeStepTimebase_refused accepted]; exact .of_time rfl
  | true => rw [takeStepTimebase_accepted accepted]; exact .stepped accepted (stepTime_time d s)

theorem takeSetCalendar_move (c : CommandRef) (f : CalendarFields) (s : State) :
    ClockMove i s.time (takeSetCalendar c f s).1.time := by
  cases named : calendarSecondOf f with
  | none => simp only [takeSetCalendar, named]; exact .of_time rfl
  | some n =>
    have set : ∀ o, ClockMove i s.time (calendarSet n o (supersede s)).time := fun o => by
      have time : (supersede s).time = s.time := by simp
      rw [← time]
      exact .set (calendarSecond_range named)
    rw [takeSetCalendar_accepted named]
    split
    · exact set _
    · exact set _

theorem takeCommand_move (c : CommandRef) (hd : Header) (m : Command) (s : State) :
    ClockMove i s.time (takeCommand c hd m s).1.time := by
  have slot := fun hm => ClockMove.of_time (c := i) (slotCommand_time c hd s m hm)
  cases m with
  | load d =>
    show ClockMove i s.time (takeLoad hd d s).1.time
    unfold takeLoad
    split
    · exact .of_time rfl
    · split <;> exact .of_time rfl
  | start => exact slot (by simp)
  | stop => exact slot (by simp)
  | retime f => exact slot (by simp)
  | unload => exact slot (by simp)
  | query => exact slot (by simp)
  | wait n => exact slot (by simp)
  | nop => exact .of_time rfl
  | readTime => exact .of_time rfl
  | trimRate v => exact (takeTrimRate_clock c v s).move
  | stepTimebase d => exact takeStepTimebase_move d s
  | setCalendar f => exact takeSetCalendar_move c f s
  | lineSetup f =>
    show ClockMove i s.time (takeLineSetup f s).1.time
    unfold takeLineSetup
    split <;> exact .of_time rfl
  | lineForce w =>
    show ClockMove i s.time (takeLineForce w s).1.time
    unfold takeLineForce
    split
    · exact .of_time rfl
    · split
      · exact .of_time rfl
      · split
        · exact .of_time (by simp)
        · exact .of_time rfl
  | captureSetup f v =>
    show ClockMove i s.time (takeCaptureSetup f v s).1.time
    unfold takeCaptureSetup
    split <;> exact .of_time rfl

theorem takeFetched_move (hd : Header) (m : Option Command) (r : CommandRingId) (s : State) :
    ClockMove i s.time (takeFetched hd m r s).time := by
  have answered : ∀ (c : CommandRef) (a : Answer) (u : State), (answerCommand c a u).time = u.time := fun c a u => by
    cases a <;> simp [answerCommand]
  have advanced : (advanceTake r s).time = s.time := by rw [advanceTake_eq]
  cases m with
  | none => exact .of_time ((answered _ _ _).trans advanced)
  | some m =>
    simp only [takeFetched]
    rw [answered, ← advanced]
    exact takeCommand_move _ hd m _

theorem endFetch_move {f : CommandRingId → State → State} {s : State}
    (hf : ∀ r, ClockMove i s.time (f r s).time) : ClockMove i s.time (endFetch f s).time := by
  unfold endFetch
  split
  · rw [(settle_frame _).2.2.2.2.1, (stallIfFaulted_frame _ _).2.2.2.2.1]
    split
    · exact .of_time (by simp)
    · exact hf _
  · exact .of_time rfl

end Commands

theorem fetchEnd_move {e : FetchEnd} {pins : BitVec 8} {s t : State} (h : exec (.fetchEnd e pins) s = .next t) :
    ClockMove (.fetchEnd e pins) s.time t.time := by
  cases e with
  | good record => cases h; exact endFetch_move fun r => takeFetched_move _ _ r s
  | busError => cases h; exact endFetch_move fun r => .of_time (faultFetch_time r s)

theorem secondBoundary_move {c : Instr} {s t : State} (h : exec .secondBoundary s = .next t) :
    ClockMove c s.time t.time := by
  cases due : s.time.dueBoundaries with
  | nil => cases h; simp only [due]; exact .of_time rfl
  | cons b l =>
    rw [secondBoundary_taken due] at h
    cases h
    rw [applyTrim_time]
    exact .taken due

/-- What every command that carries no record makes of the time unit. -/
theorem exec_clock_plain {c : Instr} {s t : State} (h : exec c s = .next t) (plain : carried c = none) :
    ClockMove c s.time t.time := by
  cases c with
  | controlStart => cases h; exact (hostWrite_clock (controlStart_clock s)).move
  | halt => cases h; exact (hostWrite_clock (latch_clock _ s)).move
  | resume m => cases h; exact (hostWrite_clock (resumeAlone_clock m s)).move
  | coreReset => cases h; exact (hostWrite_clock (controlReset_clock s)).move
  | clearFlags => cases h; exact (hostWrite_clock (.of_time rfl)).move
  | noticeRingReset k => cases h; exact (hostWrite_clock (whileRunning_clock (.of_time (by simp)))).move
  | commandRingReset r => cases h; exact (hostWrite_clock (whileRunning_clock (.of_time (by simp)))).move
  | postIndexWrite r v => cases h; exact (hostWrite_clock (writePost_clock r v s)).move
  | releaseIndexWrite k v => cases h; exact (hostWrite_clock (writeRelease_clock k v s)).move
  | intStatusWrite v => cases h; exact (hostWrite_clock (writeIntStatus_clock v s)).move
  | intEnableWrite v => cases h; exact (hostWrite_clock (.of_time rfl)).move
  | registerWrite o v n =>
    cases h
    split
    · exact (hostWrite_clock (writeRegister_clock o.toNat v s)).move
    · exact .of_time rfl
  | powerOn => cases h; exact .reset (.inl rfl)
  | resetNAssert => cases h; exact .reset (.inr rfl)
  | resetNRelease => cases h; split <;> exact .of_time rfl
  | haltInAssert =>
    cases h
    split
    · exact .of_time rfl
    · split
      · exact .of_time rfl
      · exact (latch_clock _ s).move
  | haltInRelease => cases h; exact .of_time rfl
  | firing => exact (firing_clock h).move
  | pulseEnd l => exact (pulseEnd_clock h).move
  | frameStart l => exact (frameStart_clock h).move
  | secondBoundary => exact secondBoundary_move h
  | sample l v => exact (sample_clock h).move
  | holdoffExpiry k => cases h; split <;> exact .of_time rfl
  | deadlineExpiry r => exact (deadlineExpiry_clock h).move
  | fetchEnd e pins => exact fetchEnd_move h
  | writeEnd k e => exact (writeEnd_clock h).move
  | setupReadEnd i e => exact (setupReadEnd_clock h).move
  | take => exact (take_clock h).move
  | workEnd => exact (workEnd_clock h).move
  | referenceClockPeriod =>
    cases h
    split
    · exact .of_time rfl
    · exact .counted
  | densityClock l => exact (densityClock_clock h).move
  | _ => cases plain

/-- What every command makes of the time unit. -/
theorem exec_clock {c : Instr} {s t : State} (h : exec c s = .next t) : ClockMove c s.time t.time := by
  cases carries : carried c with
  | none => exact exec_clock_plain h carries
  | some p =>
    rw [exec_carried carries] at h
    cases h
    exact endFetch_move fun r => takeFetched_move _ _ r s

/-! ### Every move of the clock -/

theorem stepped_timebase {u : TimeUnit} {d : BitVec 64} (accepted : u.acceptsStep d = true) :
    (u.stepped d).timebase.toNat = u.timebase.toNat + d.toNat := by
  obtain ⟨-, -, range⟩ := (acceptsStep_iff u d).mp accepted
  exact BitVec.toNat_add_of_lt range

/-- A reference period counts two ticks at most (R73). -/
theorem referencePeriod_timebase_bounds (u : TimeUnit) :
    u.timebase.toNat ≤ u.referencePeriod.timebase.toNat ∧
      u.referencePeriod.timebase.toNat ≤ u.timebase.toNat + 2 := by
  have ticks : u.advance.1 ≤ 2 := by
    unfold TimeUnit.advance
    split
    · exact Nat.one_le_ofNat
    · split
      · exact Nat.one_le_ofNat
      · dsimp only
        split <;> decide
  have range := u.timebase.isLt
  rw [referencePeriod_timebase]
  omega

/-- The timebase never decreases, but for power-on and RESET_N (R72). -/
theorem ClockMove.timebase_le {c : Instr} {u v : TimeUnit} (m : ClockMove c u v) (power : c ≠ .powerOn)
    (pin : c ≠ .resetNAssert) : u.timebase.toNat ≤ v.timebase.toNat := by
  cases m with
  | kept => exact Nat.le_refl _
  | counted => exact (referencePeriod_timebase_bounds u).1
  | taken => exact Nat.le_refl _
  | @stepped d v accepted moved =>
    have timebase : v.timebase = (u.stepped d).timebase := by obtain rfl | rfl := moved <;> rfl
    rw [timebase, stepped_timebase accepted]
    exact Nat.le_add_right _ _
  | set => exact Nat.le_refl _
  | reset off => exact (off.elim power pin).elim

/-- R71 and R74 speak of the clock alone. -/
theorem Anchored.same {s t : State} (h : Anchored s) (clock : SameClock s t) : Anchored t := by
  obtain ⟨tick, next, due, once, second⟩ := h
  constructor
  all_goals
    rw [clock]
    assumption

/-- Counting carries the timebase less than a second on, and notes the boundary tick that it reaches (R73, R74). -/
theorem Anchored.counted {s : State} (h : Anchored s) : Anchored { s with time := s.time.referencePeriod } := by
  obtain ⟨tick, ⟨ahead, near, whole⟩, due, once, range⟩ := h
  obtain ⟨later, soon⟩ := referencePeriod_timebase_bounds s.time
  have anchor : s.time.referencePeriod.anchorTick = s.time.anchorTick ∧
      s.time.referencePeriod.anchorSecond = s.time.anchorSecond := by
    rw [referencePeriod_eq]
    exact ⟨rfl, rfl⟩
  have old : ∀ b ∈ s.time.dueBoundaries, s.time.anchorTick.toNat < b ∧ b ≤ s.time.referencePeriod.timebase.toNat ∧
      (b - s.time.anchorTick.toNat) % Machine.second = 0 := fun b hb =>
    ⟨(due b hb).1, (due b hb).2.1.trans later, (due b hb).2.2⟩
  obtain not | reached := Nat.lt_or_ge s.time.referencePeriod.timebase.toNat s.time.nextBoundary
  · obtain ⟨next, dues⟩ := referencePeriod_boundary_ahead not
    constructor <;> simp only [anchor, next, dues]
    · exact tick.trans later
    · exact ⟨not, near.trans (Nat.add_le_add_right later _), whole⟩
    · exact old
    · exact once
    · exact range
  · obtain ⟨next, dues⟩ := referencePeriod_boundary_reached reached
    constructor <;> simp only [anchor, next, dues]
    · exact tick.trans later
    · unfold Machine.second at *
      omega
    · intro b hb
      obtain hb | hb := List.mem_append.mp hb
      · exact old b hb
      · rw [List.mem_singleton.mp hb]
        exact ⟨tick.trans_lt ahead, reached, whole⟩
    · refine List.pairwise_append.mpr ⟨once, List.pairwise_singleton _ _, fun a ha b hb => ?_⟩
      rw [List.mem_singleton.mp hb]
      exact (due a ha).2.1.trans_lt ahead
    · exact range

/-- The boundary tick taken is due no more (R74). -/
theorem Anchored.taken {s : State} {b : Nat} {l : List Nat} (h : Anchored s) (due : s.time.dueBoundaries = b :: l) :
    Anchored { s with time := { s.time with dueBoundaries := l } } := by
  have once := h.once
  rw [due] at once
  exact ⟨h.tick, h.next, fun x hx => h.due x (by rw [due]; exact List.mem_cons_of_mem b hx),
    (List.pairwise_cons.mp once).2, h.second⟩

/-- A step keeps the boundaries due, and finds the least one beyond the new timebase (R74, R78). -/
theorem Anchored.stepped {s : State} {d : BitVec 64} (h : Anchored s) (accepted : s.time.acceptsStep d = true) :
    Anchored { s with time := s.time.stepped d } := by
  obtain ⟨tick, ⟨ahead, near, whole⟩, due, once, range⟩ := h
  have timebase := stepped_timebase accepted
  have later : s.time.timebase.toNat ≤ (s.time.stepped d).timebase.toNat := timebase ▸ Nat.le_add_right _ _
  refine ⟨tick.trans later, ?_, fun b hb => ⟨(due b hb).1, (due b hb).2.1.trans later, (due b hb).2.2⟩, once, range⟩
  obtain short | crossed := Nat.lt_or_ge (s.time.timebase + d).toNat s.time.nextBoundary
  · rw [stepped_short short]
    rw [stepped_short short] at later
    exact ⟨short, near.trans (Nat.add_le_add_right later _), whole⟩
  · rw [stepped_crossed crossed] at later ⊢
    dsimp only at later ⊢
    rw [boundaryAfter_eq]
    unfold Machine.second
    omega

/-- Under a new anchor no boundary is due, and the first lies one second on (R74, R86). -/
theorem anchored_set {n : Nat} (range : n < Config.calendarSpan) (s : State) :
    Anchored { s with time :=
      { s.time with anchorTick := s.time.timebase, anchorSecond := n
                    nextBoundary := s.time.timebase.toNat + 100000000, dueBoundaries := [] } } :=
  ⟨Nat.le_refl _, ⟨Nat.lt_add_of_pos_right (by decide), Nat.le_refl _, by
    rw [Nat.add_sub_cancel_left]; rfl⟩, fun _ hb => absurd hb List.not_mem_nil, List.Pairwise.nil, range⟩

/-- Every command keeps the anchor and the boundary ticks as R71 and R74 have them. -/
theorem ClockMove.keeps_anchored {c : Instr} {s : State} {v : TimeUnit} (m : ClockMove c s.time v) (h : Anchored s) :
    Anchored { s with time := v } := by
  cases m with
  | kept => exact h.same rfl
  | counted => exact h.counted
  | taken due => exact (h.taken due).same rfl
  | stepped accepted moved =>
    obtain rfl | rfl := moved
    · exact h.stepped accepted
    · exact (h.stepped accepted).same rfl
  | set range => exact anchored_set range s
  | reset => exact reset_anchored.same rfl

/-- Settles O58: what each command makes of the clock keeps both. -/
theorem stepKeepsAnchorAndTime : Obligations.StepKeepsAnchorAndTime := by
  refine ⟨fun s t h e => ?_, fun c s t power pin e => (exec_clock e).timebase_le power pin⟩
  unfold step at e
  split at e
  · cases e
    exact h
  · have kept : ∀ l, Anchored { s with pending := l } := fun l => h.same rfl
    exact ((exec_clock e).keeps_anchored (kept _)).same rfl

end Sys2Proof.Machine
end

section
/-! The search of a resolution: the first second that a pattern matches, in a minute, an hour, a day, and over the days
of the horizon (R90, R93). -/

namespace Sys2Proof.Machine

open Sys2Proof

/-! ### The first place of a range -/

/-- A search of `P` over the places from `lo` to below `hi`: the first place, or none where there is none. -/
inductive FirstIn (P : Nat → Prop) (lo hi : Nat) : Option Nat → Prop
  | found {t : Nat} (low : lo ≤ t) (high : t < hi) (fits : P t) (least : ∀ u, lo ≤ u → u < t → ¬ P u) :
      FirstIn P lo hi (some t)
  | absent (fails : ∀ u, lo ≤ u → u < hi → ¬ P u) : FirstIn P lo hi none

section FirstIn

variable {P Q : Nat → Prop} {lo mid hi : Nat} {o : Option Nat}

theorem FirstIn.some_iff (h : FirstIn P lo hi o) (d : Nat) :
    o = some d ↔ lo ≤ d ∧ d < hi ∧ P d ∧ ∀ u, lo ≤ u → u < d → ¬ P u := by
  cases h with
  | found low high fits least =>
    refine ⟨?_, fun ⟨low', _, fits', least'⟩ => congrArg some ?_⟩
    · rintro ⟨rfl⟩
      exact ⟨low, high, fits, least⟩
    · exact Nat.le_antisymm (Nat.le_of_not_lt fun h => least _ low' h fits')
        (Nat.le_of_not_lt fun h => least' _ low h fits)
  | absent fails => exact ⟨nofun, fun ⟨low, high, fits, _⟩ => absurd fits (fails d low high)⟩

theorem FirstIn.none_iff (h : FirstIn P lo hi o) : o = none ↔ ∀ u, lo ≤ u → u < hi → ¬ P u := by
  cases h with
  | found low high fits => exact ⟨nofun, fun fails => absurd fits (fails _ low high)⟩
  | absent fails => exact ⟨fun _ => fails, fun _ => rfl⟩

theorem FirstIn.empty (h : hi ≤ lo) : FirstIn P lo hi none :=
  .absent fun _ low high => absurd (low.trans_lt high) (Nat.not_lt.mpr h)

theorem FirstIn.congr (h : FirstIn P lo hi o) (same : ∀ u, lo ≤ u → u < hi → (Q u ↔ P u)) : FirstIn Q lo hi o := by
  cases h with
  | found low high fits least =>
    exact .found low high ((same _ low high).mpr fits) fun u hu less =>
      mt (same u hu (less.trans high)).mp (least u hu less)
  | absent fails => exact .absent fun u hu less => mt (same u hu less).mp (fails u hu less)

/-- A range searched to `mid` with no place found, and then from `mid` on. -/
theorem FirstIn.after_none (first : FirstIn P lo mid none) (rest : FirstIn P mid hi o) (order : lo ≤ mid) :
    FirstIn P lo hi o := by
  obtain ⟨⟩ | ⟨fails⟩ := first
  cases rest with
  | found low high fits least =>
    exact .found (order.trans low) high fits fun u hu less =>
      (Nat.lt_or_ge u mid).elim (fails u hu) fun h => least u h less
  | absent fails' =>
    exact .absent fun u hu less => (Nat.lt_or_ge u mid).elim (fails u hu) fun h => fails' u h less

theorem FirstIn.extend {t : Nat} (h : FirstIn P lo mid (some t)) (order : mid ≤ hi) : FirstIn P lo hi (some t) := by
  obtain ⟨low, high, fits, least⟩ | ⟨⟩ := h
  exact .found low (high.trans_le order) fits least

/-- A search cut off at `mid`. -/
theorem FirstIn.cut (h : FirstIn P lo hi o) (order : mid ≤ hi) : FirstIn P lo mid (o.filter fun t => t < mid) := by
  cases h with
  | @found t low high fits least =>
    by_cases within : t < mid
    · rw [Option.filter_some, if_pos (decide_eq_true within)]
      exact .found low within fits least
    · rw [Option.filter_some, if_neg (mt of_decide_eq_true within)]
      exact .absent fun u hu less => least u hu (less.trans_le (Nat.le_of_not_lt within))
  | absent fails => exact .absent fun u hu less => fails u hu (less.trans_le order)

/-- A search seen from `b`, of places counted from `a`. -/
theorem FirstIn.shift {a b : Nat} (h : FirstIn P lo hi o) (from_b : b ≤ a + lo)
    (same : ∀ t, lo ≤ t → t < hi → (Q (a + t - b) ↔ P t)) :
    FirstIn Q (a + lo - b) (a + hi - b) (o.map fun t => a + t - b) := by
  have back : ∀ u, a + lo - b ≤ u → u = a + (u + b - a) - b := fun u hu => by omega
  cases h with
  | found low high fits least =>
    refine .found (by dsimp only; omega) (by dsimp only; omega) ((same _ low high).mpr fits) fun u hu less => ?_
    dsimp only at less
    rw [back u hu, same _ (by omega) (by omega)]
    exact least _ (by omega) (by omega)
  | absent fails =>
    refine .absent fun u hu less => ?_
    rw [back u hu, same _ (by omega) (by omega)]
    exact fails _ (by omega) (by omega)

/-- A range of windows, searched window by window. -/
theorem firstFrom_firstIn {f : Nat → Option Nat} {edge : Nat → Nat} (mono : ∀ k, edge k ≤ edge (k + 1)) (n k : Nat)
    (windows : ∀ j, k ≤ j → j < k + n → FirstIn P (edge j) (edge (j + 1)) (f j)) :
    FirstIn P (edge k) (edge (k + n)) (firstFrom f n k) := by
  induction n generalizing k with
  | zero => exact .empty (Nat.le_refl _)
  | succ n ih =>
    have first := windows k (Nat.le_refl k) (by omega)
    have rest := ih (k + 1) fun j low high => windows j (by omega) (by omega)
    have ends : k + 1 + n = k + (n + 1) := by omega
    rw [ends] at rest
    unfold firstFrom
    split
    · rename_i t ht
      rw [ht] at first
      exact first.extend (monotone_nat_of_le_succ mono (by omega))
    · rename_i ht
      rw [ht] at first
      exact first.after_none rest (mono k)

end FirstIn

/-! ### Patterns -/

theorem fieldMatches_iff (o : Option Nat) (v : Nat) : fieldMatches o v = true ↔ ∀ x, o = some x → v = x := by
  cases o with
  | none => exact ⟨fun _ => nofun, fun _ => rfl⟩
  | some y =>
    simp only [fieldMatches, decide_eq_true_eq, Option.some.injEq, forall_eq']
    exact eq_comm

/-- The search matches as R90 has it. -/
theorem matchesSecond_iff (p : Pattern) (c : Nat) : p.matchesSecond c = true ↔ fitsSecond p c := by
  simp only [Pattern.matchesSecond, Pattern.matchesDay, Pattern.matchesTime, Bool.and_eq_true, fieldMatches_iff]
  exact ⟨fun ⟨⟨⟨day, month⟩, weekday⟩, ⟨hour, minute⟩, second⟩ => ⟨second, minute, hour, day, month, weekday⟩,
    fun ⟨second, minute, hour, day, month, weekday⟩ => ⟨⟨⟨day, month⟩, weekday⟩, ⟨hour, minute⟩, second⟩⟩

/-! ### The search of a day -/

/-- The seconds of a minute from `lo` on. -/
theorem firstInMinute_firstIn (p : Pattern) (start lo : Nat) :
    FirstIn (fun t => fieldMatches p.second (t - start) = true) (max lo start) (max lo (start + 60))
      (p.firstInMinute start lo) := by
  unfold Pattern.firstInMinute
  cases p.second with
  | none =>
    dsimp only
    split
    · exact .found (by omega) (by omega) rfl fun u _ _ => by omega
    · exact .empty (by omega)
  | some v =>
    simp only [fieldMatches, decide_eq_true_eq]
    split
    · exact .found (by omega) (by omega) (by omega) fun u _ _ => by omega
    · exact .absent fun u _ _ => by omega

/-- A minute of an hour, whether its own field matches or not. -/
theorem minute_firstIn (p : Pattern) {h m : Nat} (lo : Nat) (hour : fieldMatches p.hour h = true) (minute : m < 60) :
    FirstIn (fun t => p.matchesTime t = true) (max lo (h * 3600 + m * 60)) (max lo (h * 3600 + (m + 1) * 60))
      (if fieldMatches p.minute m then p.firstInMinute (h * 3600 + m * 60) lo else none) := by
  have ends : h * 3600 + (m + 1) * 60 = h * 3600 + m * 60 + 60 := by omega
  have reads : ∀ t, max lo (h * 3600 + m * 60) ≤ t → t < max lo (h * 3600 + (m + 1) * 60) →
      (p.matchesTime t = true ↔
        fieldMatches p.minute m = true ∧ fieldMatches p.second (t - (h * 3600 + m * 60)) = true) := fun t low high => by
    have hours : t / 3600 = h := by omega
    have minutes : t % 3600 / 60 = m := by omega
    have seconds : t % 60 = t - (h * 3600 + m * 60) := by omega
    simp only [Pattern.matchesTime, hours, minutes, seconds, hour, Bool.true_and, Bool.and_eq_true]
  split
  · rename_i fits
    have search := firstInMinute_firstIn p (h * 3600 + m * 60) lo
    rw [← ends] at search
    exact search.congr fun t low high => (reads t low high).trans (and_iff_right fits)
  · rename_i fails
    exact .absent fun t low high time => fails ((reads t low high).mp time).1

theorem firstInHour_firstIn (p : Pattern) (lo h : Nat) :
    FirstIn (fun t => p.matchesTime t = true) (max lo (h * 3600)) (max lo ((h + 1) * 3600)) (p.firstInHour lo h) := by
  unfold Pattern.firstInHour
  split
  · rename_i hour
    have search := firstFrom_firstIn (edge := fun m => max lo (h * 3600 + m * 60)) (fun m => by omega) 60 0
      fun m _ high => minute_firstIn p lo hour (by omega)
    have ends : h * 3600 + (0 + 60) * 60 = (h + 1) * 3600 := by omega
    rwa [ends, Nat.zero_mul, Nat.add_zero] at search
  · rename_i fails
    refine .absent fun t low high time => fails ?_
    have hours : t / 3600 = h := by omega
    simp only [Pattern.matchesTime, Bool.and_eq_true, hours] at time
    exact time.1.1

/-- The seconds of a day from `lo` on. -/
theorem firstOfDay_firstIn (p : Pattern) {lo : Nat} (h : lo < 86400) :
    FirstIn (fun t => p.matchesTime t = true) lo 86400 (p.firstOfDay lo) := by
  have search := firstFrom_firstIn (edge := fun k => max lo (k * 3600)) (fun k => by omega)
    (24 - lo / 3600) (lo / 3600) fun k _ _ => firstInHour_firstIn p lo k
  have begins : max lo (lo / 3600 * 3600) = lo := by omega
  have hours : lo / 3600 + (24 - lo / 3600) = 24 := by omega
  have ends : max lo (24 * 3600) = 86400 := Nat.max_eq_right h.le
  rwa [begins, hours, ends] at search

/-! ### The search over days -/

/-- The `j`-th day from that of the second after base second `b`. -/
def searchDay (b j : Nat) : Nat := (b + 1) / 86400 + j

/-- The second of the `j`-th day at which its search begins: that after `b` on the first day. -/
def searchBegin (b j : Nat) : Nat := if j = 0 then (b + 1) % 86400 else 0

/-- The distance from base second `b` at which the search of the `j`-th day begins. -/
def dayEdge (b j : Nat) : Nat := searchDay b j * 86400 + searchBegin b j - b

theorem distanceInDay_eq (p : Pattern) (b j : Nat) :
    p.distanceInDay b j =
      if p.matchesDay (searchDay b j % 146097) = true then
        (p.firstOfDay (searchBegin b j)).map fun t => searchDay b j * 86400 + t - b
      else none := rfl

/-- The search begins at distance 1, and each day's search begins where the day before ends. -/
theorem dayEdge_eq (b j : Nat) :
    searchBegin b j < 86400 ∧ b ≤ searchDay b j * 86400 + searchBegin b j ∧ dayEdge b 0 = 1 ∧
      dayEdge b (j + 1) = searchDay b j * 86400 + 86400 - b := by
  simp only [dayEdge, searchDay, searchBegin, Nat.succ_ne_zero, if_true, if_false]
  refine ⟨?_, ?_, by omega, by omega⟩ <;> split <;> omega

/-- A second of a day, counted through the wrap (R93). -/
theorem matchesSecond_ofDay (p : Pattern) (d : Nat) {t : Nat} (h : t < 86400) :
    p.matchesSecond ((d * 86400 + t) % 12622780800) = (p.matchesDay (d % 146097) && p.matchesTime t) := by
  have day : (d * 86400 + t) % 12622780800 / 86400 = d % 146097 := by omega
  have time : (d * 86400 + t) % 12622780800 % 86400 = t := by omega
  rw [Pattern.matchesSecond, day, time]

/-- Each day's search covers the distances to its seconds. -/
theorem distanceInDay_firstIn (p : Pattern) (b j : Nat) :
    FirstIn (fun d => p.matchesSecond ((b + d) % 12622780800) = true) (dayEdge b j) (dayEdge b (j + 1))
      (p.distanceInDay b j) := by
  obtain ⟨within, ahead, -, ends⟩ := dayEdge_eq b j
  have reads : ∀ t, searchBegin b j ≤ t → t < 86400 →
      (p.matchesSecond ((b + (searchDay b j * 86400 + t - b)) % 12622780800) = true ↔
        p.matchesDay (searchDay b j % 146097) = true ∧ p.matchesTime t = true) := fun t low high => by
    rw [Nat.add_sub_cancel' (ahead.trans (Nat.add_le_add_left low _)), matchesSecond_ofDay p _ high, Bool.and_eq_true]
  rw [distanceInDay_eq, ends]
  split
  · rename_i day
    exact (firstOfDay_firstIn p within).shift ahead fun t low high => (reads t low high).trans (and_iff_right day)
  · rename_i fails
    have nowhere : FirstIn (fun _ => False) (searchBegin b j) 86400 none := .absent fun _ _ _ => id
    exact nowhere.shift ahead fun t low high => (reads t low high).trans (iff_false_intro fun h => fails h.1)

/-- The search is that of 1,462 days, cut off beyond the horizon. -/
theorem resolve_filter (p : Pattern) (b : Nat) :
    p.resolve b = (firstFrom (p.distanceInDay b) 1462 0).filter fun d => d < 126230401 := by
  unfold Pattern.resolve
  split
  · rename_i d hd
    rw [hd]
    rw [Option.filter_some]
    exact if_congr (Nat.lt_succ_iff.symm.trans decide_eq_true_iff.symm) rfl rfl
  · rename_i hd
    rw [hd, Option.filter_none]

theorem dayEdge_le_succ (b j : Nat) : dayEdge b j ≤ dayEdge b (j + 1) := by
  obtain ⟨within, -, -, ends⟩ := dayEdge_eq b j
  rw [ends, dayEdge]
  omega

/-- The days searched cover the horizon (R93). -/
theorem resolve_firstIn (p : Pattern) (b : Nat) :
    FirstIn (fun d => fitsSecond p ((b + d) % 12622780800)) 1 126230401 (p.resolve b) := by
  have search := firstFrom_firstIn (dayEdge_le_succ b) 1462 0 fun j _ _ => distanceInDay_firstIn p b j
  obtain ⟨-, -, begins, ends⟩ := dayEdge_eq b 1461
  have covers : 126230401 ≤ dayEdge b (0 + 1462) := by
    rw [ends, searchDay]
    omega
  rw [begins] at search
  rw [resolve_filter]
  exact (search.cut covers).congr fun d _ _ => (matchesSecond_iff p _).symm

/-- Settles O20: day by day the windows of the search cover the horizon, and each is searched from its first second. -/
theorem resolutionFindsTheLeastMatch : Obligations.ResolutionFindsTheLeastMatch := by
  intro p b _
  have search := resolve_firstIn p b
  refine ⟨fun d => (search.some_iff d).trans ?_, search.none_iff.trans ?_⟩ <;> simp only [Nat.lt_succ_iff]

end Sys2Proof.Machine
end

section
/-! TAKE, an abandoned work, and a work that ends with a match (R92, R94, R96, R98, R100). -/

namespace Sys2Proof.Machine

open Sys2Proof

/-! ### The ends of works -/

theorem exec_take {s : State} {x : Item} {l : List Item} (work : s.resolver.work = none) (queue : s.resolver.queue = x :: l) :
    exec .take s =
      .next { s with resolver := { s.resolver with queue := l, work := some { item := x, abandoned := false } } } := by
  show execTake s = _
  simp only [execTake, work, queue]

theorem exec_workEnd_abandoned {s : State} {w : Work} (work : s.resolver.work = some w) (abandoned : w.abandoned = true) :
    exec .workEnd s = .next { s with resolver := { s.resolver with work := none } } := by
  show execWorkEnd s = _
  simp only [execWorkEnd, work, abandoned, if_true]

theorem Item.expiry_some {x : Item} {p : Pattern} {d : Nat} (h : p.resolve x.base = some d)
    (near : x.beginTick.toNat + d * second < 2 ^ 64) :
    x.expiry p = some (BitVec.ofNat 64 (x.beginTick.toNat + d * second)) := by
  simp only [Item.expiry, h]
  exact if_pos (Nat.le_of_lt_succ near)

/-- A match arms the slot, and the item's end is counted (R94, R98). -/
theorem exec_workEnd_matched {s : State} {x : Item} {e : Event} {p : Pattern} {t : Tick}
    (work : s.resolver.work = some { item := x, abandoned := false }) (he : s.slots[x.slot].event = some e)
    (timing : e.defn.timing = .calendar p) (matched : x.expiry p = some t) :
    exec .workEnd s =
      .next (itemEnded x.member (fun a => { a with matched := a.matched + 1 })
        (armedAt x.slot e t { s with resolver := { s.resolver with work := none } })) := by
  show execWorkEnd s = _
  simp only [execWorkEnd, work, Bool.false_eq_true, if_false, endWork, he, timing, matched, workMatched, countPass_eq]
  rw [arm_armedAt (s := { s with resolver := { s.resolver with work := none } }) he]

/-! ### The count of an item -/

section Ended

variable {m : Bool} {f : Pass → Pass} {s : State}

theorem itemEnded_apart (h : m = false ∨ s.resolver.pass = none) : itemEnded m f s = s := by
  unfold itemEnded
  obtain rfl | none := h
  · split <;> rfl
  · rw [none]

theorem itemEnded_open {a : Pass} (member : m = true) (pass : s.resolver.pass = some a)
    (more : (f a).matched + (f a).noMatch + (f a).stopped < (f a).placed) :
    itemEnded m f s = { s with resolver := { s.resolver with pass := some (f a) } } := by
  simp only [itemEnded, pass, member, if_true, if_neg (Nat.not_le.mpr more)]

theorem itemEnded_last {a : Pass} (member : m = true) (pass : s.resolver.pass = some a)
    (last : (f a).placed ≤ (f a).matched + (f a).noMatch + (f a).stopped) :
    itemEnded m f s = endPass (f a) .ok s := by
  simp only [itemEnded, pass, member, if_true, if_pos last, endPass_eq]

end Ended

/-- With its entry gone, a completion is discarded (R100, R151). -/
theorem completeOwed_gone {r : CommandRingId} {o : Owed} {s : State} (gone : o ∉ s.intake.rings[r].outstanding)
    (st : Status) (x : Result) : completeOwed r o st x s = s := if_neg gone

/-- Settles O21: the match arms the slot, then the item is counted, and the last one of the pass answers its
SET_CALENDAR. -/
theorem workArmsOnAMatch : Obligations.WorkArmsOnAMatch := by
  refine ⟨⟨fun s x l work queue => exec_take work queue, fun s w work abandoned => exec_workEnd_abandoned work abandoned⟩,
    ?_⟩
  intro s u x e p d work he timing found near hu
  have ended := exec_workEnd_matched work he timing (Item.expiry_some found near)
  rw [← hu] at ended
  have pass : u.resolver.pass = s.resolver.pass := by rw [hu]; rfl
  have intake : u.intake = s.intake := by rw [hu]; rfl
  have notices : u.notices = s.notices := by rw [hu]; rfl
  refine ⟨fun apart => ?_, fun a member inPass => ⟨fun more => ?_, fun o last ho => ?_⟩⟩
  · rw [ended, itemEnded_apart (pass ▸ apart)]
  · rw [ended, itemEnded_open member (pass.trans inPass) (by dsimp only; omega)]
  · rw [itemEnded_last member (pass.trans inPass) (by dsimp only; omega)] at ended
    refine ⟨fun gone => ?_, fun k stands bound => ?_⟩
    · rw [ended, endPass, completeOwed_gone (by dsimp only; rwa [← ho, intake])]
    · rw [ended, endPass, completeOwed_mem (k := k) (by dsimp only; rwa [← ho, intake]) (by dsimp only; rwa [intake])]
      dsimp only
      rw [← ho, intake, notices]
      rfl

end Sys2Proof.Machine
end

section
/-! CAPTURE_SETUP: which values are valid, and the line and result of a valid one (R110, R111). -/

namespace Sys2Proof.Machine

open Sys2Proof

/-! ### The values of a CAPTURE_SETUP -/

theorem captureOf_iff {b : Byte} {c : CaptureId} : captureOf b = some c ↔ b.toNat = c.val := by
  unfold captureOf
  split
  · rw [Option.some_inj, Fin.ext_iff]
  · rename_i h
    exact ⟨nofun, fun hc => absurd (hc ▸ c.isLt) h⟩

/-- The edge mode codes count the modes from 0 (Table 10-1). -/
theorem edgeModeOf_eq (b : Byte) : edgeModeOf b = [EdgeMode.off, .rising, .falling, .both][b.toNat]? := by
  unfold edgeModeOf
  match b.toNat with
  | 0 | 1 | 2 | 3 => rfl
  | n + 4 => rfl

theorem qualifyOf_iff {b : Byte} {q : Nat} : qualifyOf b = some q ↔ b.toNat ∈ [1, 2, 4, 8] ∧ q = b.toNat := by
  unfold qualifyOf
  split
  · rename_i h
    rw [Option.some_inj]
    exact ⟨fun hq => ⟨h, hq.symm⟩, fun ⟨_, hq⟩ => hq.symm⟩
  · rename_i h
    exact ⟨nofun, fun ⟨hb, _⟩ => absurd hb h⟩

theorem captureSetupOf_iff {f : CaptureSetupFields} {c : CaptureSetup} :
    captureSetupOf f = some c ↔
      f.interval ≠ 0 ∧ f.line.toNat = c.line.val ∧
        [EdgeMode.off, .rising, .falling, .both][f.mode.toNat]? = some c.edgeMode ∧
        (f.qualify.toNat ∈ [1, 2, 4, 8] ∧ c.qualify = f.qualify.toNat) ∧ (f.notify.toNat = if c.notify then 1 else 0) ∧
        c.ring.val = f.ring.toNat ∧ c.interval = f.interval.toNat := by
  obtain ⟨line, mode, qualify, interval, notify, ring⟩ := c
  rw [captureSetupOf]
  split
  · rename_i zero
    exact ⟨nofun, fun ⟨h, _⟩ => absurd zero h⟩
  · rename_i positive
    simp only [Option.bind_eq_some_iff, Option.map_eq_some_iff, captureOf_iff, edgeModeOf_eq, qualifyOf_iff, choiceOf_iff,
      noticeRingOf_iff, CaptureSetup.mk.injEq]
    constructor
    · rintro ⟨_, line, _, mode, _, qualify, _, notify, _, ring, rfl, rfl, rfl, rfl, rfl, rfl⟩
      exact ⟨positive, line, mode, qualify, notify, ring, rfl⟩
    · rintro ⟨_, line, mode, qualify, notify, ring, rfl⟩
      exact ⟨_, line, _, mode, _, qualify, _, notify, _, ring, rfl, rfl, rfl, rfl, rfl, rfl⟩

theorem captureSetupOf_undefined {f : CaptureSetupFields}
    (bad : 8 ≤ f.line.toNat ∨ 4 ≤ f.mode.toNat ∨ f.qualify.toNat ∉ [1, 2, 4, 8] ∨ f.interval = 0 ∨ 2 ≤ f.notify.toNat ∨
      2 ≤ f.ring.toNat) : captureSetupOf f = none := by
  have choice : ∀ b : Bool, (if b then 1 else 0) < 2 := by decide
  refine Option.eq_none_iff_forall_ne_some.mpr fun c valid => ?_
  obtain ⟨interval, line, mode, ⟨qualify, _⟩, notify, ring, _⟩ := captureSetupOf_iff.mp valid
  obtain bad | bad | bad | bad | bad | bad := bad
  · exact absurd (line ▸ c.line.isLt) (Nat.not_lt.mpr bad)
  · exact absurd (List.getElem?_eq_some_iff.mp mode).1 (Nat.not_lt.mpr bad)
  · exact bad qualify
  · exact interval bad
  · exact absurd (notify ▸ choice c.notify) (Nat.not_lt.mpr bad)
  · exact absurd (ring ▸ c.ring.isLt) (Nat.not_lt.mpr bad)

/-! ### The command -/

/-- The fields that a setup gives its line, with its own first sample (R111). -/
theorem captureLine_setUp {c : CaptureSetup} {t next : Tick} (v : Level) (x : CaptureLine)
    (hnext : next.toNat = min (t.toNat + c.interval) (2 ^ 64 - 1)) :
    x.setUp c t v =
      { x with
          edgeMode := c.edgeMode, qualify := c.qualify, interval := c.interval, notify := c.notify, ring := c.ring
          sampling :=
            if c.edgeMode = .off then none
            else some { next := next, stable := v, count := 0, first := none,
                        spent := decide (t.toNat = 2 ^ 64 - 1) } } := by
  rw [CaptureLine.setUp, CaptureSetup.sampling, satTick_eq hnext]
  rfl

theorem captureSetup_refused {h : Header} {f : CaptureSetupFields} {s : State} {r : CommandRingId} {k : NoticeRingId}
    (v : Level) (hf : Fetching s r k) (bad : captureSetupOf f = none) :
    ∃ t, exec (.captureSetup h f v) s = .next t ∧ Answered s s t r k (completionOf s r h .badParam .zero) :=
  answered_of_op (m := .captureSetup f v) id hf (fun _ => rfl) rfl fun _ x => by
    show takeCaptureSetup f v { s with intake := x } = _
    simp only [takeCaptureSetup, bad, id_eq]

theorem captureSetup_taken {h : Header} {f : CaptureSetupFields} {s : State} {r : CommandRingId} {k : NoticeRingId}
    {c : CaptureSetup} (v : Level) (hf : Fetching s r k) (valid : captureSetupOf f = some c) :
    ∃ t, exec (.captureSetup h f v) s = .next t ∧
      Answered s (setCapture c.line (s.capture.lines[c.line].setUp c s.time.timebase v) s) t r k
        (completionOf s r h .ok (s.capture.lines[c.line].setUp c s.time.timebase v).result) :=
  answered_of_op (m := .captureSetup f v) (setCapture c.line (s.capture.lines[c.line].setUp c s.time.timebase v)) hf
    (fun _ => rfl) rfl fun _ x => by
      show takeCaptureSetup f v { s with intake := x } = _
      simp only [takeCaptureSetup, valid]

/-- Settles O28: the values decide, and the line that an accepted setup leaves is the one answered. -/
theorem captureSetupRestartsSampling : Obligations.CaptureSetupRestartsSampling := by
  refine fun h f v s r k hf => ⟨fun bad => captureSetup_refused v hf (captureSetupOf_undefined bad), ?_⟩
  intro c m b j next x line mode qualify interval notify ring hnext hx
  have choice : f.notify.toNat = if b then 1 else 0 := by
    rw [notify]
    cases b <;> rfl
  obtain ⟨t, step, answered⟩ := captureSetup_taken (h := h) v hf
    (captureSetupOf_iff (c := ⟨c, m, f.qualify.toNat, f.interval.toNat, b, j⟩).mpr
      ⟨interval, line, mode, ⟨qualify, rfl⟩, choice, ring.symm, rfl⟩)
  rw [captureLine_setUp v _ hnext, ← hx] at answered
  refine ⟨t, step, ?_⟩
  convert answered using 2
  rw [CaptureLine.result, hx]
  by_cases off : m = .off
  · simp only [if_pos off, Option.map_none]
  · simp only [if_neg off, Option.map_some]

end Sys2Proof.Machine
end

section
/-! Triggered starts: what an accepted edge does with a slot of its line's waiting list (R113, R114). -/

namespace Sys2Proof.Machine

open Sys2Proof

/-- The slot is ARMED at the timestamp plus the delay, modulo 2^64, with its remaining set back (R113). -/
theorem armByEdge_armedAt (i : SlotId) (e : Event) (start ts : Tick) (s : State) :
    armByEdge i e start ts s = armedAt i { e with remaining := e.defn.freshRemaining } (ts + start) s :=
  arm_setEvent i _ _ s

section Triggered

variable {s : State} {i : SlotId} {e : Event} {d : CaptureId} {start : Tick} {n : Nat}
  (he : s.slots[i].event = some e) (c : CaptureId) (ts : Tick)

include he

theorem triggerSlot_once (timing : e.defn.timing = .tick (.trigger d .once) start n) (run : e.run = .waiting) :
    triggerSlot c ts s i = leaveWaiting c i (armByEdge i e start ts s) := by
  simp only [triggerSlot, he, timing, run]

theorem triggerSlot_retrigger (timing : e.defn.timing = .tick (.trigger d .retrigger) start n) (run : e.run = .waiting) :
    triggerSlot c ts s i = armByEdge i e start ts s := by
  simp only [triggerSlot, he, timing, run]

theorem triggerSlot_rearm (timing : e.defn.timing = .tick (.trigger d .retrigger) start n)
    (armed : e.run.isArmed = true) : triggerSlot c ts s i = armByEdge i e start ts (removeEntry i s) := by
  cases run : e.run with
  | armed x q => simp only [triggerSlot, he, timing, run]
  | dormant | waiting | resolving =>
    rw [run] at armed
    cases armed

end Triggered

/-- Settles O30, by trigger mode and run. -/
theorem edgeArmsWaitingSlots : Obligations.EdgeArmsWaitingSlots := by
  rintro s c i ts start e _ n d m he timing rfl
  refine ⟨?_, ?_, ?_⟩
  · rintro run rfl
    rw [triggerSlot_once he c ts timing run, armByEdge_armedAt]
    rfl
  · rintro run rfl
    rw [triggerSlot_retrigger he c ts timing run, armByEdge_armedAt]
    rfl
  · rintro armed rfl
    rw [triggerSlot_rearm he c ts timing armed, armByEdge_armedAt]
    rfl

end Sys2Proof.Machine
end

section
/-! Samples: the candidates they count, the edges they complete, and what an accepted edge brings (R104 to R107, R113,
R116). -/

namespace Sys2Proof.Machine

open Sys2Proof

/-! ### One capture line -/

theorem setCapture_own (c : CaptureId) (x : CaptureLine) (s : State) : (setCapture c x s).capture.lines[c] = x := by
  rw [setCapture_get, if_pos rfl]

theorem setCapture_setCapture (c : CaptureId) (x y : CaptureLine) (s : State) :
    setCapture c x (setCapture c y s) = setCapture c x s := by
  simp [setCapture]

/-! ### The sampling fields after a sample -/

section AfterSample

variable {p : Sampling} {interval qualify : Nat} {z next : Tick} {v : Level}
  (hnext : next.toNat = min (z.toNat + interval) (2 ^ 64 - 1))

include hnext

theorem afterSample_stable (same : v = p.stable) :
    p.afterSample interval qualify z v =
      ({ next := next, stable := p.stable, count := 0, first := none, spent := decide (z.toNat = 2 ^ 64 - 1) }, none) := by
  rw [Sampling.afterSample, satTick_eq hnext]
  exact if_pos same

theorem afterSample_candidate (other : v ≠ p.stable) (more : p.count + 1 < qualify) :
    p.afterSample interval qualify z v =
      ({ next := next, stable := p.stable, count := p.count + 1,
         first := some (if p.count = 0 then z else p.first.getD z), spent := decide (z.toNat = 2 ^ 64 - 1) }, none) := by
  rw [Sampling.afterSample, satTick_eq hnext]
  exact (if_neg other).trans (if_neg (Nat.not_le.mpr more))

theorem afterSample_edge (other : v ≠ p.stable) (full : qualify ≤ p.count + 1) :
    p.afterSample interval qualify z v =
      ({ next := next, stable := v, count := 0, first := none, spent := decide (z.toNat = 2 ^ 64 - 1) },
        some (if p.count = 0 then z else p.first.getD z)) := by
  rw [Sampling.afterSample, satTick_eq hnext]
  exact (if_neg other).trans (if_pos full)

end AfterSample

/-! ### A due sample -/

section DueSample

variable {s : State} {c : CaptureId} {p q : Sampling} {v : Level} {z : Tick}
  (sampling : s.capture.lines[c].sampling = some p) (live : p.spent = false)
  (due : p.next.toNat ≤ s.time.timebase.toNat)
  (hz : z = if s.time.timebase.toNat - p.next.toNat < s.capture.lines[c].interval then p.next else s.time.timebase)

include sampling live due

theorem sample_due (v : Level) : exec (.sample c v) s = .next (takeSample c p v s) := by
  have isDue : p.due s.time = true := by simp [Sampling.due, TimeUnit.reached, live, due]
  show execSample c v s = _
  simp only [execSample, sampling, isDue, if_true]

include hz

/-- A sample that completes no edge changes the sampling fields of its line alone. -/
theorem sample_without_edge
    (after : p.afterSample s.capture.lines[c].interval s.capture.lines[c].qualify z v = (q, none)) :
    exec (.sample c v) s = .next (setCapture c { s.capture.lines[c] with sampling := some q } s) := by
  rw [sample_due sampling live due, takeSample, Sampling.sampleTick, ← hz, after]

/-- A sample that completes an edge leaves it to the edge mode. -/
theorem sample_with_edge {ts : Tick}
    (after : p.afterSample s.capture.lines[c].interval s.capture.lines[c].qualify z v = (q, some ts)) :
    exec (.sample c v) s =
      .next
        (if s.capture.lines[c].edgeMode.accepts v then
          acceptEdge c v ts (setCapture c { s.capture.lines[c] with sampling := some q } s)
        else setCapture c { s.capture.lines[c] with sampling := some q } s) := by
  rw [sample_due sampling live due, takeSample, Sampling.sampleTick, ← hz, after]

end DueSample

/-! ### Accepted edges -/

theorem accepts_iff (m : EdgeMode) (v : Level) :
    m.accepts v = true ↔ m = .both ∨ (m = .rising ∧ v = .high) ∨ (m = .falling ∧ v = .low) := by
  cases m <;> cases v <;> decide

theorem accepts_false_iff (m : EdgeMode) (v : Level) :
    m.accepts v = false ↔ m = .off ∨ (m = .rising ∧ v = .low) ∨ (m = .falling ∧ v = .high) := by
  cases m <;> cases v <;> decide

/-- The report of an edge on a line with record `y` (R106 step 2, R107). -/
theorem reportEdge_setCapture (c : CaptureId) (v : Level) (ts : Tick) (y : CaptureLine) (s : State) :
    reportEdge c v ts (setCapture c y s) =
      if y.notify = false then setCapture c y s
      else if y.held.isSome = true then setCapture c { y with lost := min (y.lost + 1) 255 } s
      else if s.notices[y.ring].takesOffer = true then
        setNotice y.ring (s.notices[y.ring].takePlace (.edge c v ts y.edgeSequence 0)) (setCapture c y s)
      else
        setNotice y.ring { s.notices[y.ring] with deferred := s.notices[y.ring].deferred ++ [.line c] }
          (setCapture c
            { y with held := some { direction := v, timestamp := ts, sequence := y.edgeSequence, ring := y.ring } } s) := by
  have commute : ∀ (k : NoticeRingId) (x : NoticeRing) (w : CaptureLine),
      setCapture c w (setNotice k x (setCapture c y s)) = setNotice k x (setCapture c w s) := fun k x w =>
    congrArg (setNotice k x) (setCapture_setCapture c w y s)
  simp only [reportEdge, offerEdge, setCapture_own, setCapture_setCapture, setCapture_frame, commute]
  cases y.notify <;> rfl

/-- An edge report keeps the waiting list of its line. -/
theorem reportEdge_waiting (c : CaptureId) (v : Level) (ts : Tick) (y : CaptureLine) (s : State) :
    (reportEdge c v ts (setCapture c y s)).capture.lines[c].waiting = y.waiting := by
  have own : ∀ w : CaptureLine, w.waiting = y.waiting → (setCapture c w s).capture.lines[c].waiting = y.waiting :=
    fun w hw => by rw [setCapture_own, hw]
  rw [reportEdge_setCapture]
  split
  · exact own _ rfl
  · split
    · exact own _ rfl
    · split
      · exact own _ rfl
      · exact own _ rfl

/-- An accepted edge on a line with record `y` is counted and reported, and treats the waiting list (R106, R116). -/
theorem acceptEdge_setCapture (c : CaptureId) (v : Level) (ts : Tick) (y : CaptureLine) (s : State) :
    acceptEdge c v ts (setCapture c y s) =
      if s.capture.suppressed then
        reportEdge c v ts (setCapture c { y with edgeSequence := y.edgeSequence + 1 } s)
      else
        y.waiting.foldl (triggerSlot c ts)
          (reportEdge c v ts (setCapture c { y with edgeSequence := y.edgeSequence + 1 } s)) := by
  rw [acceptEdge, setCapture_own, setCapture_setCapture, trigger, reportEdge_waiting, reportEdge_suppressed,
    setCapture_suppressed]

/-- Settles O29: a sample by the run it completes, and a completed run by what its edge mode accepts. -/
theorem samplesQualifyEdges : Obligations.SamplesQualifyEdges := by
  refine ⟨?_, ?_⟩
  · rintro s c _ p v z next _ rfl sampling live due hz hnext rfl
    exact ⟨fun same => sample_without_edge sampling live due hz (afterSample_stable hnext same),
      fun other more => sample_without_edge sampling live due hz (afterSample_candidate hnext other more)⟩
  · rintro s u c _ _ p v z next _ _ rfl sampling live due hz hnext rfl other full rfl rfl
    have edge := sample_with_edge sampling live due hz (afterSample_edge hnext other full)
    refine ⟨fun refused => ?_, fun accepted hu => ?_⟩
    · rw [edge, (accepts_false_iff _ _).mpr refused, if_neg Bool.false_ne_true]
    · rw [edge, if_pos ((accepts_iff _ _).mpr accepted), acceptEdge_setCapture, reportEdge_setCapture, hu]

end Sys2Proof.Machine
end

section
/-! The ends of deferred completions as one relation: what an owner may do to the rings while it works (R123, R151,
R153). -/

namespace Sys2Proof.Machine

open Sys2Proof

/-- Between `s` and `t` deferred completions may have ended, and nothing else has touched the rings. -/
inductive Ends : State → State → Prop
  | same {s t : State} (intake : t.intake = s.intake) (notices : t.notices = s.notices) : Ends s t
  | owed (r : CommandRingId) (o : Owed) (st : Status) (x : Result) (s : State) : Ends s (completeOwed r o st x s)
  | wait {r : CommandRingId} {w : WaitInFlight} {s : State} (wait : s.intake.rings[r].wait = some w) (st : Status) :
      Ends s (endWait r w st s)
  | trans {s t u : State} (first : Ends s t) (second : Ends t u) : Ends s u

theorem Ends.refl (s : State) : Ends s s := .same rfl rfl

theorem Ends.after {s t u : State} (second : Ends t u) (first : Ends s t) : Ends s u := first.trans second

/-! ### Dormancy and the pass -/

theorem endWaitOn_ends (i : SlotId) (s : State) (r : CommandRingId) : Ends s (endWaitOn i s r) := by
  unfold endWaitOn
  split
  · rename_i w wait
    split
    · exact .wait wait .ok
    · exact .refl s
  · exact .refl s

theorem reportDormant_ends (i : SlotId) (s : State) : Ends s (reportDormant i s) :=
  (((endWaitOn_ends i s 0).trans (endWaitOn_ends i _ 1)).trans (endWaitOn_ends i _ 2)).trans (endWaitOn_ends i _ 3)

theorem enterDormant_ends (i : SlotId) (s : State) : Ends s (enterDormant i s) :=
  .trans (t := setRun i .dormant s) (.same (by simp) (by simp)) (reportDormant_ends i _)

theorem endPass_ends (p : Pass) (st : Status) (s : State) : Ends s (endPass p st s) :=
  .trans (t := { s with resolver := { s.resolver with pass := none } }) (.same rfl rfl) (.owed _ _ _ _ _)

theorem countPass_ends (m : Bool) (f : Pass → Pass) (s : State) : Ends s (countPass m f s) := by
  unfold countPass
  split
  · split
    · unfold notePass
      split
      · exact endPass_ends _ _ _
      · exact .same rfl rfl
    · exact .refl s
  · exact .refl s

theorem dropItem_ends (i : SlotId) (s : State) : Ends s (dropItem i s) := by
  unfold dropItem
  split
  · exact (countPass_ends _ _ _).after (.same rfl rfl)
  · split
    · split
      · exact (countPass_ends _ _ _).after (.same rfl rfl)
      · exact .refl s
    · exact .refl s

theorem leaveCollections_ends (i : SlotId) (e : Event) (s : State) : Ends s (leaveCollections i e s) := by
  by_cases run : e.run = .resolving
  · rw [leaveCollections_resolving run]
    exact (dropItem_ends i s).trans (.same rfl rfl)
  · obtain ⟨intake, notices⟩ := leaveCollections_rings run i s
    exact .same intake notices

theorem stopSlot_ends (i : SlotId) (e : Event) (s : State) : Ends s (stopSlot i e s) :=
  (leaveCollections_ends i e s).trans (enterDormant_ends i _)

theorem conclude_ends (i : SlotId) (d : Definition) (c : Continuation) (s : State) : Ends s (conclude i d c s) := by
  unfold conclude
  split
  · split
    · exact .same (by simp) (by simp)
    · refine .trans ?_ (enterDormant_ends i _)
      split
      · exact .same rfl rfl
      · exact .refl s
  · split
    · exact .same (by simp) (by simp)
    · exact .same (by simp) (by simp)

/-! ### Actions of a firing -/

theorem stopAction_ends (i : SlotId) (s : State) : Ends s (stopAction i s).1 := by
  unfold stopAction
  split
  · exact .refl s
  · split
    · exact .refl s
    · exact stopSlot_ends i _ s

theorem applyAction_ends (o : Tick) (a : Action) (s : State) : Ends s (applyAction o a s).1 := by
  have line : ∀ l, Ends s (actOnLine l a s) := fun l => .same (by simp) (by simp)
  cases a with
  | drive l v => exact line l
  | toggle l => exact line l
  | pulse l v n => exact line l
  | density l d => exact line l
  | start i => exact .same (startAction_frame i o s).2.1 (startAction_frame i o s).2.2.2.2.1
  | stop i => exact stopAction_ends i s
  | mark => exact .refl s

theorem applyActions_ends (o : Tick) (l : List Action) (s : State) : Ends s (applyActions o l s).1 := by
  induction l generalizing s with
  | nil => exact .refl s
  | cons a l ih => exact (applyAction_ends o a s).trans (ih _)

theorem fireState_ends (x : Entry) (v : Event) (s : State) : Ends s (fireState x v s) :=
  .trans (.same (by simp) (by simp)) (conclude_ends _ _ _ _)

/-! ### The time unit and the resolver -/

theorem applyTrim_ends (n : Nat) (s : State) : Ends s (applyTrim n s) := by
  unfold applyTrim
  split
  · exact (Ends.owed _ _ _ _ _).after (.same rfl rfl)
  · exact .refl s

theorem stepTime_ends (d : BitVec 64) (s : State) : Ends s (stepTime d s) := by
  obtain ⟨-, h⟩ | ⟨-, h⟩ := stepTime_cases d s
  · rw [h]
    exact .same rfl rfl
  · rw [h]
    exact (applyTrim_ends _ _).after (.same rfl rfl)

theorem supersede_ends (s : State) : Ends s (supersede s) := by
  unfold supersede
  split
  · exact endPass_ends _ _ s
  · exact .refl s

theorem takeSetCalendar_ends (c : CommandRef) (f : CalendarFields) (s : State) : Ends s (takeSetCalendar c f s).1 := by
  unfold takeSetCalendar
  split
  · exact .refl s
  · rename_i n _
    have placed : Ends s (rePlace (setAnchor n (supersede s))) := (supersede_ends s).trans (.same (by simp) (by simp))
    dsimp only
    split
    · exact placed
    · exact placed.trans (.same rfl rfl)

/-! ### Commands -/

theorem checked_ends {s : State} {hd : Header} {f : Event → State × Answer} (hf : ∀ e, Ends s (f e).1) :
    Ends s (checked hd s f).1 := by
  unfold checked
  split
  · exact .refl s
  · split
    · exact hf _
    · exact .refl s

theorem retimeSlot_ends (i : SlotId) (e : Event) (f : RetimeFields) (s : State) : Ends s (retimeSlot i e f s).1 := by
  unfold retimeSlot
  split
  · exact .same (by simp) (by simp)
  all_goals exact .same rfl rfl

/-- Every command but WAIT leaves the rings to the ends of deferred completions. -/
theorem takeCommand_ends {m : Command} (c : CommandRef) (hd : Header) (s : State) (other : ∀ n, m ≠ .wait n) :
    Ends s (takeCommand c hd m s).1 := by
  cases m with
  | load d =>
    show Ends s (takeLoad hd d s).1
    unfold takeLoad
    split
    · exact .refl s
    · split
      · exact .refl s
      · exact .same rfl rfl
  | start =>
    refine checked_ends fun e => ?_
    split
    · exact .refl s
    · split
      · exact .refl s
      · exact .same (startSlot_frame _ _ _ s).2.1 (startSlot_frame _ _ _ s).2.2.2.2.1
  | stop =>
    refine checked_ends fun e => ?_
    split
    · exact .refl s
    · exact stopSlot_ends _ _ s
  | retime f =>
    refine checked_ends fun e => ?_
    split
    · exact .refl s
    · split
      · exact retimeSlot_ends _ _ _ s
      · exact .refl s
  | unload =>
    refine checked_ends fun e => ?_
    split
    · exact .refl s
    · split
      · exact .refl s
      · exact .same rfl rfl
  | query => exact checked_ends fun _ => .refl s
  | wait n => exact absurd rfl (other n)
  | nop => exact .refl s
  | readTime => exact .refl s
  | trimRate v =>
    show Ends s (takeTrimRate c v s).1
    unfold takeTrimRate
    split
    · exact .refl s
    · split
      · exact .refl s
      · exact .same rfl rfl
  | stepTimebase d =>
    show Ends s (takeStepTimebase d s).1
    unfold takeStepTimebase
    split
    · exact stepTime_ends d s
    · exact .refl s
  | setCalendar f => exact takeSetCalendar_ends c f s
  | lineSetup f =>
    show Ends s (takeLineSetup f s).1
    unfold takeLineSetup
    split
    · exact .refl s
    · exact .same rfl rfl
  | lineForce w =>
    show Ends s (takeLineForce w s).1
    unfold takeLineForce
    split
    · exact .refl s
    · split
      · exact .refl s
      · split
        · exact .same (by simp) (by simp)
        · exact .refl s
  | captureSetup f v =>
    show Ends s (takeCaptureSetup f v s).1
    unfold takeCaptureSetup
    split
    · exact .refl s
    · exact .same rfl rfl

/-- WAIT may put itself in flight on its own ring; else it leaves the state as it is (R152). -/
theorem takeWait_cases (c : CommandRef) (hd : Header) (n : BitVec 64) (s : State) :
    (takeWait c hd n s).1 = s ∨ takeWait c hd n s = (blockOnWait c hd n s, .owe .wait) := by
  unfold takeWait checked
  split
  · exact .inl rfl
  · split
    · rename_i e _ _
      by_cases long : Config.maxSpan < n.toNat
      · exact .inl (by simp only [if_pos long, answerSlot_fst])
      · by_cases run : e.run = .dormant
        · exact .inl (by simp only [if_neg long, if_pos run, answerSlot_fst])
        · exact .inr (by simp only [if_neg long, if_neg run])
    · exact .inl rfl

/-! ### What the ends leave of the rings -/

/-- Between `s` and `t` an owner has done its work: command rings keep their place, their fetch and their reservation,
and notice rings have been handed completions (R123, R146). -/
structure Serviced (s t : State) : Prop where
  intake : t.intake = { s.intake with rings := t.intake.rings }
  ring : ∀ q : CommandRingId, t.intake.rings[q] =
    { s.intake.rings[q] with
      state := t.intake.rings[q].state, wait := t.intake.rings[q].wait, outstanding := t.intake.rings[q].outstanding }
  notice : ∀ k : NoticeRingId, FedNotice s.notices[k] t.notices[k] ∧ t.notices[k].requests = s.notices[k].requests

theorem Serviced.same {s t : State} (intake : t.intake = s.intake) (notices : t.notices = s.notices) : Serviced s t :=
  ⟨by rw [intake], fun q => by rw [intake], fun k => by rw [notices]; exact ⟨.refl _, rfl⟩⟩

theorem Serviced.trans {s t u : State} (a : Serviced s t) (b : Serviced t u) : Serviced s u := by
  refine ⟨?_, fun q => ?_, fun k => ⟨(a.notice k).1.trans (b.notice k).1, (b.notice k).2.trans (a.notice k).2⟩⟩
  · rw [b.intake, a.intake]
  · rw [b.ring q, a.ring q]

theorem setRing_serviced {s : State} {r : CommandRingId} {x : CommandRing}
    (kept : x = { s.intake.rings[r] with state := x.state, wait := x.wait, outstanding := x.outstanding }) :
    Serviced s (setRing r x s) := by
  refine ⟨rfl, fun q => ?_, fun k => ⟨.refl _, rfl⟩⟩
  rw [setRing_get]
  split
  · rename_i hq
    subst hq
    exact kept
  · rfl

theorem useReservation_serviced (k : NoticeRingId) (n : Notice) (s : State) : Serviced s (useReservation k n s) := by
  refine ⟨by rw [(useReservation_frame k n s).2.1], fun q => by rw [(useReservation_frame k n s).2.1], fun j => ?_⟩
  rw [useReservation_get]
  split
  · rename_i hj
    subst hj
    refine ⟨answered_fed n _, ?_⟩
    unfold NoticeRing.answered
    split <;> rfl
  · exact ⟨.refl _, rfl⟩

theorem handCompletion_serviced (r : CommandRingId) (id : BitVec 16) (n : Nat) (st : Status) (x : Result) (s : State) :
    Serviced s (handCompletion r id n st x s) := by
  unfold handCompletion
  split
  · exact useReservation_serviced _ _ s
  · exact .same rfl rfl

theorem completeOwed_serviced (r : CommandRingId) (o : Owed) (st : Status) (x : Result) (s : State) :
    Serviced s (completeOwed r o st x s) := by
  unfold completeOwed
  split
  · exact Serviced.trans (setRing_serviced rfl) (handCompletion_serviced _ _ _ _ _ _)
  · exact .same rfl rfl

theorem Ends.serviced {s t : State} (ends : Ends s t) : Serviced s t := by
  induction ends with
  | same intake notices => exact .same intake notices
  | owed r o st x s => exact completeOwed_serviced r o st x s
  | wait _ st => exact Serviced.trans (setRing_serviced rfl) (completeOwed_serviced _ _ _ _ _)
  | trans _ _ ih₁ ih₂ => exact ih₁.trans ih₂

theorem takeCommand_serviced (c : CommandRef) (hd : Header) (m : Command) (s : State) :
    Serviced s (takeCommand c hd m s).1 := by
  by_cases wait : ∃ n, m = .wait n
  · obtain ⟨n, rfl⟩ := wait
    show Serviced s (takeWait c hd n s).1
    obtain kept | blocks := takeWait_cases c hd n s
    · rw [kept]
      exact .same rfl rfl
    · rw [blocks]
      exact setRing_serviced rfl
  · exact (takeCommand_ends c hd s fun n e => wait ⟨n, e⟩).serviced

theorem answerCommand_serviced (c : CommandRef) (a : Answer) (s : State) : Serviced s (answerCommand c a s) := by
  cases a with
  | complete st x => exact handCompletion_serviced _ _ _ _ _ s
  | owe kind => exact setRing_serviced rfl

theorem Serviced.bound {s t : State} (h : Serviced s t) (r : CommandRingId) :
    t.intake.rings[r].bound? = s.intake.rings[r].bound? := by
  rw [h.ring r]
  rfl

end Sys2Proof.Machine
end

section
/-! R120 with the account of the reservations, while a command that has been taken may hold its own: what the
operations on rings leave of it. -/

namespace Sys2Proof.Machine

open Sys2Proof

/-! ### The account -/

/-- The reservations of notice ring `k` that command ring `x` holds. -/
def CommandRing.holds (k : NoticeRingId) (x : CommandRing) : Nat := if x.bound? = some k then x.reservations else 0

/-- A command ring that may stand on the request list of notice ring `k` (R122, R145). -/
structure CommandRing.Requests (k : NoticeRingId) (x : CommandRing) : Prop where
  bound : x.bound? = some k
  stalled : x.state = .stalled
  reservation : x.fetchReservation = false
  fetch : x.fetch = none
  wait : x.wait = none

/-- A command ring holds reservations only where it is bound, and is BLOCKED with no fetch while its WAIT is in flight
(R140, R152). -/
structure CommandRing.Accounted (x : CommandRing) : Prop where
  unbound : x.bound? = none → x.reservations = 0
  blocked : x.wait.isSome = true → x.state = .blocked ∧ x.fetch = none

/-- The space law with `d k` reservations of each notice ring `k` held outside the command rings: by a command that has
been taken and not answered. -/
structure SpaceOwing (d : NoticeRingId → Nat) (s : State) : Prop where
  bound : ∀ k : NoticeRingId, s.notices[k].occupied + s.notices[k].reserved ≤ s.notices[k].size
  account : ∀ k : NoticeRingId, s.notices[k].reserved = reservationsOn s k + d k
  once : ∀ k : NoticeRingId, s.notices[k].requests.Nodup
  waiting : ∀ (k : NoticeRingId) (r : CommandRingId), r ∈ s.notices[k].requests → s.intake.rings[r].Requests k
  rings : ∀ r : CommandRingId, s.intake.rings[r].Accounted

/-- `n` reservations more of ring `k`. -/
def plus (k : NoticeRingId) (n : Nat) (d : NoticeRingId → Nat) : NoticeRingId → Nat := fun j => d j + if j = k then n else 0

theorem plus_zero (k : NoticeRingId) (d : NoticeRingId → Nat) : plus k 0 d = d := by
  funext j
  simp [plus]

theorem spaceLaw_iff (s : State) : SpaceLaw s ↔ SpaceOwing (fun _ => 0) s := by
  constructor
  · intro h
    exact ⟨h.bound, h.account, h.once, fun k r hr =>
      let ⟨bound, stalled, reservation, fetch, wait⟩ := h.waiting k r hr
      ⟨bound, stalled, reservation, fetch, wait⟩, fun r => ⟨h.unbound r, h.blocked r⟩⟩
  · intro h
    exact ⟨h.bound, h.account, fun r => (h.rings r).unbound, h.once, fun k r hr =>
      let w := h.waiting k r hr
      ⟨w.bound, w.stalled, w.reservation, w.fetch, w.wait⟩, fun r => (h.rings r).blocked⟩

theorem reservationsOn_eq (s : State) (k : NoticeRingId) :
    reservationsOn s k = ∑ r : CommandRingId, s.intake.rings[r].holds k := by
  rw [Fin.sum_univ_def]
  rfl

/-- The account after a change of one command ring. -/
theorem reservationsOn_change {s t : State} {r : CommandRingId}
    (others : ∀ q : CommandRingId, q ≠ r → t.intake.rings[q] = s.intake.rings[q]) (k : NoticeRingId) :
    reservationsOn t k + s.intake.rings[r].holds k = reservationsOn s k + t.intake.rings[r].holds k := by
  rw [reservationsOn_eq, reservationsOn_eq, ← Finset.add_sum_erase _ _ (Finset.mem_univ r),
    ← Finset.add_sum_erase _ (fun q : CommandRingId => s.intake.rings[q].holds k) (Finset.mem_univ r)]
  have rest : ∑ q ∈ Finset.univ.erase r, t.intake.rings[q].holds k = ∑ q ∈ Finset.univ.erase r, s.intake.rings[q].holds k :=
    Finset.sum_congr rfl fun q hq => by rw [others q (Finset.ne_of_mem_erase hq)]
  omega

theorem holds_bound {x : CommandRing} {k : NoticeRingId} (h : x.bound? = some k) (j : NoticeRingId) :
    x.holds j = if j = k then x.reservations else 0 := by
  unfold CommandRing.holds
  rw [h]
  by_cases hj : j = k
  · rw [if_pos (by rw [hj]), if_pos hj]
  · rw [if_neg fun e => hj (Option.some.inj e).symm, if_neg hj]

/-! ### One change -/

variable {d e : NoticeRingId → Nat} {s t : State}

/-- Operations that leave the rings alone. -/
theorem SpaceOwing.frame (h : SpaceOwing d s) (rings : t.intake.rings = s.intake.rings) (notices : t.notices = s.notices) :
    SpaceOwing d t := by
  have same : ∀ k, reservationsOn t k = reservationsOn s k := fun k => by simp only [reservationsOn, rings]
  refine ⟨?_, ?_, ?_, ?_, ?_⟩
  · rw [notices]; exact h.bound
  · intro k; rw [notices, same]; exact h.account k
  · rw [notices]; exact h.once
  · rw [notices, rings]; exact h.waiting
  · rw [rings]; exact h.rings

/-- Operations on one notice ring: `e` more or fewer reservations are in hand than `d`. -/
theorem SpaceOwing.notice {k : NoticeRingId} (h : SpaceOwing d s) (rings : t.intake.rings = s.intake.rings)
    (others : ∀ j : NoticeRingId, j ≠ k → t.notices[j] = s.notices[j] ∧ e j = d j)
    (bound : t.notices[k].occupied + t.notices[k].reserved ≤ t.notices[k].size)
    (account : t.notices[k].reserved + d k = s.notices[k].reserved + e k) (once : t.notices[k].requests.Nodup)
    (waiting : ∀ r ∈ t.notices[k].requests, s.intake.rings[r].Requests k) : SpaceOwing e t := by
  have same : ∀ k, reservationsOn t k = reservationsOn s k := fun k => by simp only [reservationsOn, rings]
  refine ⟨fun j => ?_, fun j => ?_, fun j => ?_, fun j r hr => ?_, ?_⟩
  · by_cases hj : j = k
    · subst hj; exact bound
    · rw [(others j hj).1]; exact h.bound j
  · rw [same]
    by_cases hj : j = k
    · subst hj
      have := h.account j
      omega
    · rw [(others j hj).1, (others j hj).2]; exact h.account j
  · by_cases hj : j = k
    · subst hj; exact once
    · rw [(others j hj).1]; exact h.once j
  · rw [rings]
    by_cases hj : j = k
    · subst hj; exact waiting r hr
    · rw [(others j hj).1] at hr; exact h.waiting j r hr
  · rw [rings]; exact h.rings

/-- Operations on one command ring, which may take reservations in hand or give them up. -/
theorem SpaceOwing.setRing {r : CommandRingId} {x : CommandRing} (h : SpaceOwing d s)
    (listed : ∀ k, r ∈ s.notices[k].requests → s.intake.rings[r].Requests k → x.Requests k) (accounted : x.Accounted)
    (account : ∀ k, x.holds k + e k = s.intake.rings[r].holds k + d k) : SpaceOwing e (setRing r x s) := by
  have own : (Machine.setRing r x s).intake.rings[r] = x := by rw [setRing_get, if_pos rfl]
  have others : ∀ q : CommandRingId, q ≠ r → (Machine.setRing r x s).intake.rings[q] = s.intake.rings[q] := fun q hq => by
    rw [setRing_get, if_neg hq]
  refine ⟨h.bound, fun k => ?_, h.once, fun k q hq => ?_, fun q => ?_⟩
  · have change := reservationsOn_change others k
    rw [own] at change
    have := h.account k
    have := account k
    show s.notices[k].reserved = _
    omega
  · by_cases hr : q = r
    · subst hr
      rw [own]
      exact listed k hq (h.waiting k q hq)
    · rw [others q hr]; exact h.waiting k q hq
  · by_cases hr : q = r
    · subst hr; rw [own]; exact accounted
    · rw [others q hr]; exact h.rings q

/-- Operations on one command ring bound to ring `k`: of the `m` reservations in hand, `n` are left. -/
theorem SpaceOwing.setBound {r : CommandRingId} {k : NoticeRingId} {x : CommandRing} {m n : Nat}
    (h : SpaceOwing (plus k m d) s) (was : s.intake.rings[r].bound? = some k) (bound : x.bound? = some k)
    (listed : ∀ j, r ∈ s.notices[j].requests → s.intake.rings[r].Requests j → x.Requests j)
    (blocked : x.wait.isSome = true → x.state = .blocked ∧ x.fetch = none)
    (account : x.reservations + n = s.intake.rings[r].reservations + m) : SpaceOwing (plus k n d) (Machine.setRing r x s) := by
  refine h.setRing listed ⟨fun none => absurd (bound.symm.trans none) (by simp), blocked⟩ fun j => ?_
  rw [holds_bound bound, holds_bound was]
  unfold plus
  split <;> omega

/-- Operations that change command rings, but neither their bindings nor their reservations. -/
theorem SpaceOwing.mapRings (h : SpaceOwing d s) (notices : t.notices = s.notices)
    (holds : ∀ (q : CommandRingId) (k : NoticeRingId), t.intake.rings[q].holds k = s.intake.rings[q].holds k)
    (listed : ∀ (q : CommandRingId) (k : NoticeRingId), s.intake.rings[q].Requests k → t.intake.rings[q].Requests k)
    (accounted : ∀ q : CommandRingId, t.intake.rings[q].Accounted) : SpaceOwing d t := by
  refine ⟨?_, fun k => ?_, ?_, ?_, accounted⟩
  · rw [notices]; exact h.bound
  · have same : reservationsOn t k = reservationsOn s k := by
      rw [reservationsOn_eq, reservationsOn_eq]
      exact Finset.sum_congr rfl fun q _ => holds q k
    rw [notices, same]
    exact h.account k
  · rw [notices]; exact h.once
  · rw [notices]; exact fun k q hq => listed q k (h.waiting k q hq)

/-- A ring on no request list. -/
theorem SpaceOwing.unlisted {r : CommandRingId} (h : SpaceOwing d s) (off : ∀ k, ¬ s.intake.rings[r].Requests k)
    (k : NoticeRingId) : r ∉ s.notices[k].requests := fun hr => off k (h.waiting k r hr)

/-! ### Notice rings -/

/-- What changes no count and no request of a notice ring. -/
theorem SpaceOwing.keepNotice {k : NoticeRingId} {x : NoticeRing} (h : SpaceOwing d s)
    (size : x.size = s.notices[k].size) (occupied : x.occupied ≤ s.notices[k].occupied)
    (reserved : x.reserved = s.notices[k].reserved) (requests : x.requests.Sublist s.notices[k].requests) :
    SpaceOwing d (setNotice k x s) := by
  have own : (setNotice k x s).notices[k] = x := by rw [setNotice_get, if_pos rfl]
  refine h.notice (k := k) rfl (fun j hj => ⟨by rw [setNotice_get, if_neg hj], rfl⟩) ?_ ?_ ?_ ?_
  · rw [own]
    have := h.bound k
    omega
  · rw [own, reserved]
  · rw [own]; exact requests.nodup (h.once k)
  · rw [own]; exact fun r hr => h.waiting k r (requests.subset hr)

theorem SpaceOwing.post {k : NoticeRingId} (h : SpaceOwing d s) (n : Notice) (room : s.notices[k].takesOffer = true) :
    SpaceOwing d (postNotice k n s) := by
  have own : (postNotice k n s).notices[k] = s.notices[k].takePlace n := by rw [postNotice, setNotice_get, if_pos rfl]
  have less := ((takesOffer_iff _).mp room).2.1
  refine h.notice (k := k) rfl (fun j hj => ⟨by rw [postNotice, setNotice_get, if_neg hj], rfl⟩) ?_ ?_ ?_ ?_
  · rw [own]
    show s.notices[k].occupied + 1 + s.notices[k].reserved ≤ s.notices[k].size
    omega
  · rw [own]; rfl
  · rw [own]; exact h.once k
  · rw [own]; exact h.waiting k

theorem offerFiring_space (k : NoticeRingId) (i : SlotId) (p : FiringReport) (h : SpaceOwing d s) :
    SpaceOwing d (offerFiring k i p s) := by
  unfold offerFiring
  split
  · rename_i room
    exact h.post _ room
  · have listed : SpaceOwing d (setNotice k { s.notices[k] with deferred := deferFiring i p s.notices[k].deferred } s) :=
      h.keepNotice rfl (Nat.le_refl _) rfl (List.Sublist.refl _)
    exact listed.frame (by simp) (by simp)

theorem offerEdge_space (c : CaptureId) (v : Level) (ts : Tick) (h : SpaceOwing d s) :
    SpaceOwing d (offerEdge c v ts s) := by
  unfold offerEdge
  dsimp only
  split
  · rename_i room
    exact h.post _ room
  · have listed := h.keepNotice (k := s.capture.lines[c].ring) (x := { s.notices[s.capture.lines[c].ring] with
      deferred := s.notices[s.capture.lines[c].ring].deferred ++ [.line c] }) rfl (Nat.le_refl _) rfl (List.Sublist.refl _)
    exact listed.frame (by simp) (by simp)

theorem offerSystem_space (b : SystemBody) (h : SpaceOwing d s) : SpaceOwing d (offerSystem b s) := by
  unfold offerSystem
  dsimp only
  split
  · split
    · rename_i room
      exact h.post _ room
    · exact h.keepNotice rfl (Nat.le_refl _) rfl (List.Sublist.refl _)
  · exact h

/-- A completion handed with its reservation takes the place that the reservation kept, or is lost with it (R123). -/
theorem useReservation_space {k : NoticeRingId} (n : Notice) (h : SpaceOwing (plus k 1 d) s) :
    SpaceOwing d (useReservation k n s) := by
  have own : (useReservation k n s).notices[k] = s.notices[k].answered n := by rw [useReservation_get, if_pos rfl]
  have account := h.account k
  have bound := h.bound k
  have size : (s.notices[k].answered n).size = s.notices[k].size := by
    simp only [NoticeRing.size, (answered_fed n _).config]
  have counts : (s.notices[k].answered n).occupied ≤ s.notices[k].occupied + 1 ∧
      (s.notices[k].answered n).reserved = s.notices[k].reserved - 1 ∧
      (s.notices[k].answered n).requests = s.notices[k].requests := by
    unfold NoticeRing.answered
    split
    · exact ⟨Nat.le_refl _, rfl, rfl⟩
    · exact ⟨Nat.le_succ _, rfl, rfl⟩
  obtain ⟨occupied, reserved, requests⟩ := counts
  simp only [plus, if_true] at account
  refine h.notice (k := k) (by simp) (fun j hj => ⟨?_, ?_⟩) ?_ ?_ ?_ ?_
  · rw [useReservation_get, if_neg hj]
  · simp [plus, hj]
  · rw [own, size]
    omega
  · rw [own, reserved]
    simp only [plus, if_true]
    omega
  · rw [own, requests]; exact h.once k
  · rw [own, requests]; exact h.waiting k

/-! ### Completions -/

/-- An answered command gives up the reservation that it had in hand (R123, R150). -/
theorem handCompletion_space {r : CommandRingId} {k : NoticeRingId} (id : BitVec 16) (n : Nat) (st : Status) (x : Result)
    (bound : s.intake.rings[r].bound? = some k) (h : SpaceOwing (plus k 1 d) s) :
    SpaceOwing d (handCompletion r id n st x s) := by
  simp only [handCompletion, bound]
  exact useReservation_space _ h

/-- An entry that leaves an outstanding list gives up its reservation to the completion (R123, R151). -/
theorem completeOwed_space (r : CommandRingId) (o : Owed) (st : Status) (x : Result) (h : SpaceOwing d s) :
    SpaceOwing d (completeOwed r o st x s) := by
  unfold completeOwed
  split
  · rename_i mem
    have length : (s.intake.rings[r].outstanding.erase o).length + 1 = s.intake.rings[r].outstanding.length := by
      rw [List.length_erase_of_mem mem]
      have := List.length_pos_of_mem mem
      omega
    have fewer : CommandRing.reservations { s.intake.rings[r] with outstanding := s.intake.rings[r].outstanding.erase o } + 1
        = s.intake.rings[r].reservations := by
      simp only [CommandRing.reservations]
      omega
    cases bound : s.intake.rings[r].bound? with
    | none =>
      have := (h.rings r).unbound bound
      omega
    | some k =>
      exact handCompletion_space (k := k) _ _ _ _ (by rw [setRing_get, if_pos rfl]; exact bound)
        (((plus_zero k d).symm ▸ h : SpaceOwing (plus k 0 d) s).setBound bound bound
          (fun j _ w => ⟨w.bound, w.stalled, w.reservation, w.fetch, w.wait⟩) (h.rings r).blocked fewer)
  · exact h

theorem endWait_space {r : CommandRingId} {w : WaitInFlight} (wait : s.intake.rings[r].wait = some w) (st : Status)
    (h : SpaceOwing d s) : SpaceOwing d (endWait r w st s) := by
  unfold endWait
  refine completeOwed_space _ _ _ _ (h.setRing (fun k _ q => ?_) ⟨(h.rings r).unbound, fun some => by cases some⟩
    fun k => rfl)
  rw [q.wait] at wait
  cases wait

/-- The ends of deferred completions keep the space law (R123, R151, R153). -/
theorem Ends.space (ends : Ends s t) (h : SpaceOwing d s) : SpaceOwing d t := by
  induction ends with
  | same intake notices => exact h.frame (by rw [intake]) notices
  | owed r o st x s => exact completeOwed_space r o st x h
  | wait wait st => exact endWait_space wait st h
  | trans _ _ ih₁ ih₂ => exact ih₂ (ih₁ h)

end Sys2Proof.Machine
end

section
/-! R120 through the arbiter, the free places of a ring, and the resets. -/

namespace Sys2Proof.Machine

open Sys2Proof

variable {d : NoticeRingId → Nat} {s : State}

/-! ### Free places -/

theorem serveDeferred_space (k : NoticeRingId) (n : Nat) (h : SpaceOwing d s) : SpaceOwing d (serveDeferred k n s) := by
  obtain ⟨posted, from_s, -, -⟩ := serveDeferred_cases k n s
  have own := from_s.own
  refine h.notice (k := k) (by rw [from_s.blocks]) (fun j hj => ⟨from_s.others j hj, rfl⟩) ?_ ?_ ?_ ?_
  · have size : (serveDeferred k n s).notices[k].size = s.notices[k].size := by rw [own]; rfl
    have reserved : (serveDeferred k n s).notices[k].reserved = s.notices[k].reserved := by rw [own]
    rw [size, reserved]
    exact from_s.room (h.bound k)
  · rw [own]
  · rw [own]; exact h.once k
  · rw [own]; exact h.waiting k

/-- A granted request becomes a reservation of its ring (R124, R145). -/
theorem grantRequest_space {k : NoticeRingId} {r : CommandRingId} {l : List CommandRingId} (h : SpaceOwing d s)
    (requests : s.notices[k].requests = r :: l) (room : s.notices[k].takesOffer = true) :
    SpaceOwing d (grantRequest k r l s) := by
  have own : (setNotice k { s.notices[k] with reserved := s.notices[k].reserved + 1, requests := l } s).notices[k] =
      { s.notices[k] with reserved := s.notices[k].reserved + 1, requests := l } := by rw [setNotice_get, if_pos rfl]
  have less := ((takesOffer_iff _).mp room).2.1
  have asked := h.waiting k r (by rw [requests]; exact List.mem_cons_self)
  have once := h.once k
  rw [requests, List.nodup_cons] at once
  have taken : SpaceOwing (plus k 1 d)
      (setNotice k { s.notices[k] with reserved := s.notices[k].reserved + 1, requests := l } s) := by
    refine h.notice (k := k) rfl (fun j hj => ⟨by rw [setNotice_get, if_neg hj], by simp [plus, hj]⟩) ?_ ?_ ?_ ?_
    · rw [own]
      show s.notices[k].occupied + (s.notices[k].reserved + 1) ≤ s.notices[k].size
      omega
    · rw [own]
      simp only [plus, if_true]
      omega
    · rw [own]; exact once.2
    · rw [own]
      exact fun q hq => h.waiting k q (by rw [requests]; exact List.mem_cons_of_mem r hq)
  have more : CommandRing.reservations { s.intake.rings[r] with
      requestOutstanding := false, fetchReservation := true, state := .active } + 0 = s.intake.rings[r].reservations + 1 := by
    simp only [CommandRing.reservations, asked.reservation, if_true, Bool.false_eq_true, if_false]
    omega
  have granted := taken.setBound (n := 0)
    (x := { s.intake.rings[r] with requestOutstanding := false, fetchReservation := true, state := .active })
    asked.bound asked.bound (fun j listed w => ?_) (fun wait => ?_) more
  · rw [plus_zero] at granted
    exact granted
  · obtain rfl : j = k := Option.some.inj (w.bound.symm.trans asked.bound)
    rw [own] at listed
    exact absurd listed once.1
  · rw [show s.intake.rings[r].wait = none from asked.wait] at wait
    cases wait

theorem serveRequests_space (k : NoticeRingId) (n : Nat) (h : SpaceOwing d s) : SpaceOwing d (serveRequests k n s) := by
  induction n generalizing s with
  | zero => exact h
  | succ n ih =>
    unfold serveRequests
    split
    · exact h
    · rename_i requests
      split
      · rename_i room
        exact ih (grantRequest_space h requests room)
      · exact h

theorem serve_space (k : NoticeRingId) (h : SpaceOwing d s) : SpaceOwing d (serve k s) :=
  serveRequests_space k _ (serveDeferred_space k _ h)

/-- Reservations that go back leave the hand (R123). -/
theorem returnReservations_space {k : NoticeRingId} {n : Nat} (h : SpaceOwing (plus k n d) s) :
    SpaceOwing d (returnReservations k n s) := by
  have own : (setNotice k { s.notices[k] with reserved := s.notices[k].reserved - n } s).notices[k] =
      { s.notices[k] with reserved := s.notices[k].reserved - n } := by rw [setNotice_get, if_pos rfl]
  have account := h.account k
  have bound := h.bound k
  simp only [plus, if_true] at account
  refine serve_space k (h.notice (k := k) rfl (fun j hj => ⟨by rw [setNotice_get, if_neg hj], by simp [plus, hj]⟩)
    ?_ ?_ ?_ ?_)
  · rw [own]
    show s.notices[k].occupied + (s.notices[k].reserved - n) ≤ s.notices[k].size
    omega
  · rw [own]
    simp only [plus, if_true]
    omega
  · rw [own]; exact h.once k
  · rw [own]; exact h.waiting k

/-! ### The arbiter -/

theorem fetchingRing_none (s : State) : s.fetchingRing = none ↔ ∀ r : CommandRingId, s.intake.rings[r].fetch = none := by
  have all : ∀ r : CommandRingId, r ∈ [(0 : CommandRingId), 1, 2, 3] := by decide
  rw [State.fetchingRing, List.find?_eq_none]
  simp only [Bool.not_eq_true, Option.isSome_eq_false_iff, Option.isNone_iff_eq_none]
  exact ⟨fun h r => h r (all r), fun h r _ => h r⟩

theorem eligible_active {x : CommandRing} (h : x.eligible = true) : x.state = .active := by
  simp only [CommandRing.eligible, Bool.and_eq_true, decide_eq_true_eq] at h
  exact h.1

/-- An ACTIVE ring has no WAIT in flight and stands on no request list. -/
theorem SpaceOwing.active {r : CommandRingId} (h : SpaceOwing d s) (active : s.intake.rings[r].state = .active) :
    s.intake.rings[r].wait = none ∧ ∀ k : NoticeRingId, r ∉ s.notices[k].requests := by
  refine ⟨?_, h.unlisted fun k w => ?_⟩
  · by_contra some
    have := ((h.rings r).blocked (Option.isSome_iff_ne_none.mpr some)).1
    rw [active] at this
    cases this
  · have := w.stalled
    rw [active] at this
    cases this

/-- A fetch begins with a reservation: its ring's own, or one in hand (R144). -/
theorem beginFetch_space {r : CommandRingId} {k : NoticeRingId} {n : Nat} (h : SpaceOwing (plus k n d) s)
    (active : s.intake.rings[r].state = .active) (free : s.intake.rings[r].fetch = none)
    (bound : s.intake.rings[r].bound? = some k) (one : (if s.intake.rings[r].fetchReservation then 1 else 0) + n = 1) :
    SpaceOwing d (beginFetch r s) := by
  obtain ⟨wait, unlisted⟩ := h.active active
  have same : CommandRing.reservations { s.intake.rings[r] with
      fetchReservation := false, fetch := some s.intake.rings[r].nextFetch } + 0 = s.intake.rings[r].reservations + n := by
    simp only [CommandRing.reservations, free, Option.elim, CommandRing.nextFetch, Bool.false_eq_true, if_false,
      Bool.not_false, if_true]
    omega
  have begun := h.setBound (n := 0)
    (x := { s.intake.rings[r] with fetchReservation := false, fetch := some s.intake.rings[r].nextFetch })
    bound bound (fun j listed => absurd listed (unlisted j)) (fun some => ?_) same
  · rw [plus_zero] at begun
    exact begun
  · rw [show s.intake.rings[r].wait = none from wait] at some
    cases some

theorem fetchWithGrant_space {r : CommandRingId} {k : NoticeRingId} (h : SpaceOwing d s)
    (active : s.intake.rings[r].state = .active) (free : s.intake.rings[r].fetch = none)
    (bound : s.intake.rings[r].bound? = some k) (unreserved : s.intake.rings[r].fetchReservation = false)
    (room : s.notices[k].takesOffer = true) : SpaceOwing d (fetchWithGrant k r s) := by
  have own : (setNotice k { s.notices[k] with reserved := s.notices[k].reserved + 1 } s).notices[k] =
      { s.notices[k] with reserved := s.notices[k].reserved + 1 } := by rw [setNotice_get, if_pos rfl]
  have less := ((takesOffer_iff _).mp room).2.1
  have granted : SpaceOwing (plus k 1 d) (setNotice k { s.notices[k] with reserved := s.notices[k].reserved + 1 } s) := by
    refine h.notice (k := k) rfl (fun j hj => ⟨by rw [setNotice_get, if_neg hj], by simp [plus, hj]⟩) ?_ ?_ ?_ ?_
    · rw [own]
      show s.notices[k].occupied + (s.notices[k].reserved + 1) ≤ s.notices[k].size
      omega
    · rw [own]
      simp only [plus, if_true]
      omega
    · rw [own]; exact h.once k
    · rw [own]; exact h.waiting k
  refine beginFetch_space granted active free bound ?_
  rw [show (setNotice k _ s).intake.rings[r].fetchReservation = false from unreserved]
  rfl

theorem stallOnRequest_space {r : CommandRingId} {k : NoticeRingId} (h : SpaceOwing d s)
    (active : s.intake.rings[r].state = .active) (free : s.intake.rings[r].fetch = none)
    (bound : s.intake.rings[r].bound? = some k) (unreserved : s.intake.rings[r].fetchReservation = false) :
    SpaceOwing d (stallOnRequest k r s) := by
  obtain ⟨wait, unlisted⟩ := h.active active
  have stalled : SpaceOwing d (setRing r { s.intake.rings[r] with requestOutstanding := true, state := .stalled } s) := by
    refine h.setRing (fun j listed => absurd listed (unlisted j)) ⟨(h.rings r).unbound, fun some => ?_⟩ fun j => rfl
    rw [show s.intake.rings[r].wait = none from wait] at some
    cases some
  have requested : SpaceOwing d (setNotice k { s.notices[k] with requests := s.notices[k].requests ++ [r] }
      (setRing r { s.intake.rings[r] with requestOutstanding := true, state := .stalled } s)) := by
    have own : (setNotice k { s.notices[k] with requests := s.notices[k].requests ++ [r] }
        (setRing r { s.intake.rings[r] with requestOutstanding := true, state := .stalled } s)).notices[k] =
          { s.notices[k] with requests := s.notices[k].requests ++ [r] } := by rw [setNotice_get, if_pos rfl]
    refine stalled.notice (k := k) rfl (fun j hj => ⟨by rw [setNotice_get, if_neg hj], rfl⟩) ?_ ?_ ?_ ?_
    · rw [own]; exact h.bound k
    · rw [own]; rfl
    · rw [own]
      exact (h.once k).append (List.nodup_singleton r) (List.disjoint_singleton.mpr (unlisted k))
    · rw [own]
      intro q hq
      rcases List.mem_append.mp hq with hq | hq
      · exact stalled.waiting k q hq
      · obtain rfl := List.mem_singleton.mp hq
        rw [setRing_get, if_pos rfl]
        exact ⟨bound, rfl, unreserved, free, wait⟩
  exact requested.frame rfl rfl

theorem arbitrate_space (n : Nat) (h : SpaceOwing d s) : SpaceOwing d (arbitrate n s) := by
  induction n generalizing s with
  | zero => exact h
  | succ n ih =>
    unfold arbitrate
    split
    · exact h
    · rename_i path
      have free := (fetchingRing_none s).mp (by simpa using path)
      split
      · exact h
      · rename_i r t hc
        obtain ⟨ht, eligible⟩ := choice_cases hc
        have rings : t.intake.rings = s.intake.rings := by obtain rfl | rfl := ht <;> rfl
        have notices : t.notices = s.notices := by obtain rfl | rfl := ht <;> rfl
        have chosen : SpaceOwing d t := h.frame rings notices
        have active : t.intake.rings[r].state = .active := by rw [rings]; exact eligible_active eligible
        have idle : t.intake.rings[r].fetch = none := by rw [rings]; exact free r
        split
        · rename_i reserved
          cases bound : t.intake.rings[r].bound? with
          | none =>
            have := (chosen.rings r).unbound bound
            rw [CommandRing.reservations, if_pos reserved] at this
            omega
          | some k =>
            exact beginFetch_space (n := 0) ((plus_zero k d).symm ▸ chosen) active idle bound (by rw [if_pos reserved])
        · rename_i reserved
          have unreserved : t.intake.rings[r].fetchReservation = false := by simpa using reserved
          split
          · exact chosen
          · rename_i k bound
            split
            · rename_i room
              have takes : t.notices[k].takesOffer = true := by
                rw [NoticeRing.grantsAtOnce, Bool.and_eq_true] at room
                exact room.1
              exact fetchWithGrant_space chosen active idle bound unreserved takes
            · exact ih (stallOnRequest_space chosen active idle bound unreserved)

theorem settle_space (h : SpaceOwing d s) : SpaceOwing d (settle s) :=
  arbitrate_space 5 (h.frame (noteTurn_rings s) (by simp))

/-! ### Resets -/

/-- A command ring that holds no reservation and has no WAIT in flight. -/
structure CommandRing.Quiet (x : CommandRing) : Prop where
  reservations : x.reservations = 0
  wait : x.wait = none

theorem fresh_quiet (c : Option CommandConfig) (x : CommandRing) : (x.fresh c).Quiet := by
  refine ⟨?_, rfl⟩
  cases h : x.fetch <;> simp [CommandRing.reservations, CommandRing.fresh, CommandRing.reset, h]

theorem CommandRing.Quiet.holds {x : CommandRing} (h : x.Quiet) (k : NoticeRingId) : x.holds k = 0 := by
  unfold CommandRing.holds
  split
  · exact h.reservations
  · rfl

theorem CommandRing.Quiet.accounted {x : CommandRing} (h : x.Quiet) : x.Accounted :=
  ⟨fun _ => h.reservations, fun some => by rw [h.wait] at some; cases some⟩

/-- Empty rings meet the space law. -/
theorem space_of_quiet (rings : ∀ r : CommandRingId, s.intake.rings[r].Quiet)
    (notices : ∀ k : NoticeRingId, s.notices[k].occupied = 0 ∧ s.notices[k].reserved = 0 ∧ s.notices[k].requests = []) :
    SpaceOwing (fun _ => 0) s := by
  refine ⟨fun k => ?_, fun k => ?_, fun k => ?_, fun k r hr => ?_, fun r => (rings r).accounted⟩
  · rw [(notices k).1, (notices k).2.1]
    exact Nat.zero_le _
  · rw [reservationsOn_eq, (notices k).2.1, Nat.add_zero]
    exact (Finset.sum_eq_zero fun r _ => (rings r).holds k).symm
  · rw [(notices k).2.2]; exact List.nodup_nil
  · rw [(notices k).2.2] at hr
    cases hr

/-- A command ring afresh leaves its reservations in hand and its request list (R156). -/
theorem clearRing_space {k : NoticeRingId} {r : CommandRingId} (h : SpaceOwing d s)
    (bound : s.intake.rings[r].bound? = some k) :
    SpaceOwing (plus k s.intake.rings[r].reservations d) (clearRing k r s) := by
  have quiet := fresh_quiet s.intake.rings[r].config s.intake.rings[r]
  have filtered : SpaceOwing (plus k 0 d)
      (setNotice k { s.notices[k] with requests := s.notices[k].requests.filter fun q => q ≠ r } s) := by
    rw [plus_zero]
    exact h.keepNotice rfl (Nat.le_refl _) rfl List.filter_sublist
  have cleared := filtered.setBound (r := r) (x := s.intake.rings[r].fresh s.intake.rings[r].config)
    (n := s.intake.rings[r].reservations) bound bound (fun j listed w => ?_) (fun some => ?_) ?_
  · unfold clearRing
    dsimp only
    split
    · exact cleared.frame rfl rfl
    · exact cleared
  · obtain rfl : j = k := Option.some.inj (w.bound.symm.trans bound)
    rw [setNotice_get, if_pos rfl] at listed
    simp at listed
  · rw [quiet.wait] at some
    cases some
  · rw [quiet.reservations]
    exact Nat.zero_add _

theorem resetCommandRing_space (r : CommandRingId) (h : SpaceOwing d s) : SpaceOwing d (resetCommandRing false r s) := by
  unfold resetCommandRing
  split
  · rename_i k bound
    rw [if_neg Bool.false_ne_true]
    exact returnReservations_space (clearRing_space h bound)
  · exact h

theorem cascaded_holds (k : NoticeRingId) (x : CommandRing) (j : NoticeRingId) :
    (x.cascaded k).holds j = if j = k then 0 else x.holds j := by
  unfold CommandRing.cascaded
  by_cases bound : x.bound? = some k
  · rw [if_pos bound, (fresh_quiet _ x).holds, holds_bound bound]
    split <;> rfl
  · rw [if_neg bound]
    by_cases hj : j = k
    · rw [if_pos hj, CommandRing.holds, hj, if_neg bound]
    · rw [if_neg hj]

theorem cascaded_accounted {k : NoticeRingId} {x : CommandRing} (h : x.Accounted) : (x.cascaded k).Accounted := by
  unfold CommandRing.cascaded
  split
  · exact (fresh_quiet _ x).accounted
  · exact h

/-- The reset of a notice ring takes every reservation on it away with the command rings that held them (R137). -/
theorem resetNoticeRing_space (k : NoticeRingId) (h : SpaceOwing (fun _ => 0) s) :
    SpaceOwing (fun _ => 0) (resetNoticeRing k s) := by
  have all : ∀ r : CommandRingId, r ∈ [(0 : CommandRingId), 1, 2, 3] := by decide
  have after := discarded_cascaded k s
  have rings : ∀ r : CommandRingId, ([0, 1, 2, 3].foldl (cascadeReset k) (discarded k s)).intake.rings[r] =
      s.intake.rings[r].cascaded k := fun r => by
    rw [after.rings, if_pos (all r), discarded_blocks]
    rfl
  have notices : ∀ j : NoticeRingId, ([0, 1, 2, 3].foldl (cascadeReset k) (discarded k s)).notices[j] =
      if j = k then s.notices[k].fresh s.notices[k].config else s.notices[j] := fun j => by
    rw [after.blocks, discarded_blocks]
    exact setNotice_get k j _ s
  have cascade : SpaceOwing (fun _ => 0) ([0, 1, 2, 3].foldl (cascadeReset k) (discarded k s)) := by
    refine ⟨fun j => ?_, fun j => ?_, fun j => ?_, fun j r hr => ?_, fun r => ?_⟩
    · rw [notices]
      split
      · exact Nat.zero_le _
      · exact h.bound j
    · rw [notices, reservationsOn_eq]
      simp only [rings, cascaded_holds]
      by_cases hj : j = k
      · simp only [if_pos hj, Finset.sum_const_zero]
        rfl
      · simp only [if_neg hj]
        rw [← reservationsOn_eq]
        exact h.account j
    · rw [notices]
      split
      · exact List.nodup_nil
      · exact h.once j
    · rw [notices] at hr
      split at hr
      · cases hr
      · rename_i hj
        have listed := h.waiting j r hr
        rw [rings, CommandRing.cascaded, if_neg fun bound => hj (Option.some.inj (listed.bound.symm.trans bound))]
        exact listed
    · rw [rings]
      exact cascaded_accounted (h.rings r)
  unfold resetNoticeRing
  dsimp only
  split
  · exact offerSystem_space _ cascade
  · exact cascade

theorem controlReset_space (s : State) : SpaceOwing (fun _ => 0) (controlReset s) := by
  refine space_of_quiet (fun r => ?_) fun k => ?_
  · rw [show (controlReset s).intake.rings[r] = s.intake.rings[r].fresh none by simp [controlReset]]
    exact fresh_quiet _ _
  · rw [show (controlReset s).notices[k] = s.notices[k].fresh none by simp [controlReset]]
    exact ⟨rfl, rfl, rfl⟩

theorem enterHalted_space (h : SpaceOwing d s) : SpaceOwing d (enterHalted s) := by
  unfold enterHalted
  exact offerSystem_space _ (h.frame rfl rfl)

theorem loadSetup_space (b : SetupConfig) (s : State) : SpaceOwing (fun _ => 0) (loadSetup b s) := by
  have configured : SpaceOwing (fun _ => 0) (configure b s) := by
    refine space_of_quiet (fun r => ?_) fun k => ?_
    · rw [configure_ring]
      exact fresh_quiet _ _
    · rw [configure_notice]
      exact ⟨rfl, rfl, rfl⟩
  unfold loadSetup
  refine settle_space ?_
  split
  · exact enterHalted_space configured
  · exact configured

end Sys2Proof.Machine
end

section
/-! R120 through the ends of fetches, firings, faults and halts. -/

namespace Sys2Proof.Machine

open Sys2Proof

variable {d : NoticeRingId → Nat} {s : State}

/-! ### The end of a fetch -/

/-- A fetch in flight that is not discarded holds a reservation, and keeps its ring off the request lists (R140). -/
theorem liveFetch {r : CommandRingId} (h : SpaceOwing d s) (path : s.fetchingRing = some r)
    (live : s.intake.rings[r].fetch.elim false Fetch.discarded = false) :
    ∃ f k, s.intake.rings[r].fetch = some f ∧ f.discarded = false ∧ s.intake.rings[r].bound? = some k ∧
      (∀ j : NoticeRingId, r ∉ s.notices[j].requests) ∧ s.intake.rings[r].wait = none := by
  obtain ⟨f, fetch⟩ := Option.isSome_iff_exists.mp (fetchingRing_isSome path)
  rw [fetch] at live
  have kept : f.discarded = false := live
  have holds : 1 ≤ s.intake.rings[r].reservations := by
    simp only [CommandRing.reservations, fetch, Option.elim, kept, Bool.not_false, if_true]
    omega
  have bound : ∃ k, s.intake.rings[r].bound? = some k := by
    cases b : s.intake.rings[r].bound? with
    | none =>
      have := (h.rings r).unbound b
      omega
    | some k => exact ⟨k, rfl⟩
  obtain ⟨k, bound⟩ := bound
  refine ⟨f, k, fetch, kept, bound, h.unlisted fun j w => ?_, ?_⟩
  · have := w.fetch
    rw [fetch] at this
    cases this
  · by_contra some
    have := ((h.rings r).blocked (Option.isSome_iff_ne_none.mpr some)).2
    rw [fetch] at this
    cases this

/-- A fetch that is over no longer counts: its reservation is in hand. -/
theorem fetch_ended {x : CommandRing} {f : Fetch} (fetch : x.fetch = some f) (live : f.discarded = false) (y : CommandRing)
    (same : y = { x with take := y.take, state := y.state, fetch := none }) : y.reservations + 1 = x.reservations + 0 := by
  rw [same]
  simp only [CommandRing.reservations, fetch, Option.elim, live, Bool.not_false, if_true, Bool.false_eq_true, if_false]
  omega

theorem advanceTake_space {r : CommandRingId} (h : SpaceOwing d s) (path : s.fetchingRing = some r)
    (live : s.intake.rings[r].fetch.elim false Fetch.discarded = false) :
    ∃ k, s.intake.rings[r].bound? = some k ∧ SpaceOwing (plus k 1 d) (advanceTake r s) ∧
      (advanceTake r s).intake.rings[r].bound? = some k ∧ (advanceTake r s).intake.rings[r].fetch = none ∧
      ∀ j : NoticeRingId, r ∉ (advanceTake r s).notices[j].requests := by
  obtain ⟨f, k, fetch, kept, bound, unlisted, wait⟩ := liveFetch h path live
  have own : (advanceTake r s).intake.rings[r] =
      { s.intake.rings[r] with take := s.intake.rings[r].nextTake, fetch := none } := by
    rw [advanceTake_ring, if_pos rfl]
  refine ⟨k, bound, ?_, by rw [own]; exact bound, by rw [own], by rw [advanceTake_notices]; exact unlisted⟩
  have ended := ((plus_zero k d).symm ▸ h : SpaceOwing (plus k 0 d) s).setBound (r := r) (n := 1)
    (x := { s.intake.rings[r] with take := s.intake.rings[r].nextTake, fetch := none }) bound bound
    (fun j listed => absurd listed (unlisted j)) (fun some => by rw [wait] at some; cases some)
    (fetch_ended fetch kept _ rfl)
  exact ended.frame (by rw [advanceTake_intake]; rfl) (by rw [advanceTake_notices]; rfl)

theorem takeCommand_space {c : CommandRef} (hd : Header) (m : Command) (h : SpaceOwing d s)
    (fetch : s.intake.rings[c.ring].fetch = none) (unlisted : ∀ j : NoticeRingId, c.ring ∉ s.notices[j].requests) :
    SpaceOwing d (takeCommand c hd m s).1 := by
  by_cases wait : ∃ n, m = .wait n
  · obtain ⟨n, rfl⟩ := wait
    show SpaceOwing d (takeWait c hd n s).1
    obtain same | blocks := takeWait_cases c hd n s
    · rw [same]; exact h
    · rw [blocks]
      exact h.setRing (fun j listed => absurd listed (unlisted j)) ⟨(h.rings c.ring).unbound, fun _ => ⟨rfl, fetch⟩⟩
        fun _ => rfl
  · exact (takeCommand_ends c hd s fun n e => wait ⟨n, e⟩).space h

/-- A completion that is owed keeps its reservation with its entry (R151). -/
theorem addOwed_space {r : CommandRingId} {k : NoticeRingId} (o : Owed) (h : SpaceOwing (plus k 1 d) s)
    (bound : s.intake.rings[r].bound? = some k) : SpaceOwing d (addOwed r o s) := by
  have more : CommandRing.reservations { s.intake.rings[r] with outstanding := s.intake.rings[r].outstanding ++ [o] } + 0
      = s.intake.rings[r].reservations + 1 := by
    simp only [CommandRing.reservations, List.length_append, List.length_singleton]
    omega
  have owed := h.setBound (n := 0) (x := { s.intake.rings[r] with outstanding := s.intake.rings[r].outstanding ++ [o] })
    bound bound (fun j _ w => ⟨w.bound, w.stalled, w.reservation, w.fetch, w.wait⟩) (h.rings r).blocked more
  rw [plus_zero] at owed
  exact owed

theorem takeFetched_space {r : CommandRingId} (hd : Header) (m : Option Command) (h : SpaceOwing d s)
    (path : s.fetchingRing = some r) (live : s.intake.rings[r].fetch.elim false Fetch.discarded = false) :
    SpaceOwing d (takeFetched hd m r s) := by
  obtain ⟨k, -, advanced, bound, fetch, unlisted⟩ := advanceTake_space h path live
  cases m with
  | none => exact handCompletion_space _ _ _ _ bound advanced
  | some m =>
    have taken := takeCommand_space (c := { ring := r, ident := hd.ident, takeIndex := s.intake.rings[r].nextTake }) hd m
      advanced fetch unlisted
    have still := ((takeCommand_serviced { ring := r, ident := hd.ident, takeIndex := s.intake.rings[r].nextTake } hd m
      (advanceTake r s)).bound r).trans bound
    unfold takeFetched
    dsimp only
    generalize (takeCommand _ hd m (advanceTake r s)).2 = answer
    cases answer with
    | complete st x => exact handCompletion_space _ _ _ _ still taken
    | owe kind => exact addOwed_space _ taken still

theorem faultFetch_space {r : CommandRingId} (h : SpaceOwing d s) (path : s.fetchingRing = some r)
    (live : s.intake.rings[r].fetch.elim false Fetch.discarded = false) : SpaceOwing d (faultFetch r s) := by
  obtain ⟨f, k, fetch, kept, bound, unlisted, wait⟩ := liveFetch h path live
  have ended := ((plus_zero k d).symm ▸ h : SpaceOwing (plus k 0 d) s).setBound (r := r) (n := 1)
    (x := { s.intake.rings[r] with fetch := none, state := .faulted }) bound bound
    (fun j listed => absurd listed (unlisted j)) (fun some => by rw [wait] at some; cases some)
    (fetch_ended fetch kept _ rfl)
  unfold faultFetch
  simp only [bound]
  exact offerSystem_space _ ((returnReservations_space ended).frame rfl rfl)

theorem dropFetch_space {r : CommandRingId} (h : SpaceOwing d s)
    (gone : s.intake.rings[r].fetch.elim false Fetch.discarded = true) : SpaceOwing d (dropFetch r s) := by
  have same : CommandRing.reservations { s.intake.rings[r] with fetch := none } = s.intake.rings[r].reservations := by
    cases fetch : s.intake.rings[r].fetch with
    | none => rw [fetch] at gone; cases gone
    | some f =>
      rw [fetch] at gone
      have : f.discarded = true := gone
      simp only [CommandRing.reservations, fetch, Option.elim, this, Bool.not_true, Bool.false_eq_true, if_false]
  refine h.setRing (fun j _ w => ⟨w.bound, w.stalled, w.reservation, rfl, w.wait⟩)
    ⟨fun none => same.trans ((h.rings r).unbound none), fun some => ⟨((h.rings r).blocked some).1, rfl⟩⟩ fun k => ?_
  unfold CommandRing.holds
  rw [same]
  rfl

theorem stallIfFaulted_space (r : CommandRingId) (h : SpaceOwing d s) : SpaceOwing d (stallIfFaulted r s) := by
  unfold stallIfFaulted
  split
  · rename_i active
    obtain ⟨wait, unlisted⟩ := h.active active
    exact h.setRing (fun j listed => absurd listed (unlisted j))
      ⟨(h.rings r).unbound, fun some => by rw [show s.intake.rings[r].wait = none from wait] at some; cases some⟩ fun _ => rfl
  · exact h

theorem endFetch_space {f : CommandRingId → State → State} (h : SpaceOwing d s)
    (taken : ∀ r, s.fetchingRing = some r → s.intake.rings[r].fetch.elim false Fetch.discarded = false →
      SpaceOwing d (f r s)) : SpaceOwing d (endFetch f s) := by
  unfold endFetch
  split
  · rename_i r path
    refine settle_space (stallIfFaulted_space r ?_)
    split
    · rename_i gone
      exact dropFetch_space h gone
    · rename_i live
      exact taken r path (by simpa using live)
  · exact h

theorem commandFetched_space (hd : Header) (m : Command) (h : SpaceOwing d s) : SpaceOwing d (commandFetched hd m s) :=
  endFetch_space h fun _ path live => takeFetched_space hd _ h path live

/-! ### Firings and resumes -/

theorem fire_space (x : Entry) (v : Event) (h : SpaceOwing d s) : SpaceOwing d (fire x v s) := by
  have acted := ((fireState_ends x v s).trans (applyActions_ends x.expiry v.defn.actions _)).space h
  unfold fire
  dsimp only
  split
  · exact offerFiring_space _ _ _ acted
  · exact acted

theorem discardEntry_space (x : Entry) (h : SpaceOwing d s) : SpaceOwing d (discardEntry s x) := by
  unfold discardEntry
  split
  · rename_i v _
    have concluded := (conclude_ends x.slot v.defn (v.continuationAt x (removeEntry x.slot s).time.timebase)
      (setEvent x.slot (v.passedOver (v.continuationAt x (removeEntry x.slot s).time.timebase)) (removeEntry x.slot s))).space
        (h.frame rfl rfl)
    unfold passOver
    dsimp only
    split
    · exact offerFiring_space _ _ _ concluded
    · exact concluded
  · exact h.frame rfl rfl

theorem discardEntries_space (l : List Entry) (h : SpaceOwing d s) : SpaceOwing d (l.foldl discardEntry s) := by
  induction l generalizing s with
  | nil => exact h
  | cons x l ih => exact ih (discardEntry_space x h)

theorem leaveHalted_space (m : ResumeMode) (h : SpaceOwing d s) : SpaceOwing d (leaveHalted m s) := by
  have offered := offerSystem_space (s := clearCauses s) (.resumed m) (h.frame rfl rfl)
  cases m with
  | catchup => exact offered.frame rfl rfl
  | discard => exact (discardEntries_space _ offered).frame rfl rfl

theorem latch_space (f : Control → Control) (h : SpaceOwing d s) : SpaceOwing d (latch f s) := by
  unfold latch
  split
  · exact enterHalted_space (h.frame rfl rfl)
  · exact h.frame rfl rfl

/-! ### Works, samples and record writes -/

theorem workUnmatched_space (x : Item) (k : NoticeRingId) (h : SpaceOwing d s) :
    SpaceOwing d (workUnmatched x k s) := by
  have dropped : SpaceOwing d (dropStarted (enterDormant x.slot s)) :=
    ((enterDormant_ends x.slot s).space h).frame (by rw [(dropStarted_frame _).2.1]) (by simp)
  have offered := offerFiring_space k x.slot (x.noMatchReport s.time.timebase) dropped
  unfold workUnmatched
  exact settle_space ((countPass_ends _ _ _).space offered)

theorem workMatched_space (x : Item) (n : Tick) (h : SpaceOwing d s) : SpaceOwing d (workMatched x n s) := by
  have armed : SpaceOwing d (arm x.slot n s) := h.frame (by simp) (by simp)
  unfold workMatched
  exact (countPass_ends _ _ _).space armed

theorem endWork_space (x : Item) (h : SpaceOwing d s) : SpaceOwing d (endWork x s) := by
  unfold endWork
  split
  · split
    · split
      · exact workMatched_space x _ h
      · exact workUnmatched_space x _ h
    · exact h
  · exact h

theorem acceptEdge_space (c : CaptureId) (v : Level) (ts : Tick) (h : SpaceOwing d s) :
    SpaceOwing d (acceptEdge c v ts s) := by
  have counted : SpaceOwing d
      (setCapture c { s.capture.lines[c] with edgeSequence := s.capture.lines[c].edgeSequence + 1 } s) := h.frame rfl rfl
  have reported : SpaceOwing d (reportEdge c v ts
      (setCapture c { s.capture.lines[c] with edgeSequence := s.capture.lines[c].edgeSequence + 1 } s)) := by
    unfold reportEdge
    split
    · split
      · exact counted.frame rfl rfl
      · exact offerEdge_space _ _ _ counted
    · exact counted
  exact reported.frame (by rw [acceptEdge, (trigger_frame c ts _).2.1]) (by simp [acceptEdge])

theorem takeSample_space (c : CaptureId) (p : Sampling) (v : Level) (h : SpaceOwing d s) :
    SpaceOwing d (takeSample c p v s) := by
  unfold takeSample
  dsimp only
  split
  · split
    · exact acceptEdge_space c v _ (h.frame rfl rfl)
    · exact h.frame rfl rfl
  · exact h.frame rfl rfl

/-- A command ring STALLED with its notice ring keeps its account (R132). -/
theorem faultBound_space (k : NoticeRingId) (h : SpaceOwing d s) : SpaceOwing d (faultBound k s) := by
  have ring : ∀ q : CommandRingId, (faultBound k s).intake.rings[q] =
      if s.intake.rings[q].bound? = some k ∧ s.intake.rings[q].state = .active ∧ s.intake.rings[q].fetch.isNone = true then
        { s.intake.rings[q] with state := .stalled }
      else s.intake.rings[q] := fun q => by
    have own : (faultBound k s).intake.rings[q] =
        if s.intake.rings[q].bound? = some k then s.intake.rings[q].boundFault else s.intake.rings[q] :=
      Vector.getElem_map _ q.isLt
    rw [own]
    unfold CommandRing.boundFault
    by_cases bound : s.intake.rings[q].bound? = some k
    · simp only [bound, true_and, if_true, Bool.and_eq_true, decide_eq_true_eq]
    · rw [if_neg bound, if_neg fun a => bound a.1]
  refine h.mapRings rfl (fun q j => ?_) (fun q j w => ?_) fun q => ?_
  · rw [ring]
    split <;> rfl
  · rw [ring]
    split
    · exact ⟨w.bound, rfl, w.reservation, w.fetch, w.wait⟩
    · exact w
  · rw [ring]
    split
    · rename_i active
      exact ⟨(h.rings q).unbound, fun some => by
        rw [show s.intake.rings[q].wait = none from (h.active active.2.1).1] at some; cases some⟩
    · exact h.rings q

theorem faultNotices_space (k : NoticeRingId) (h : SpaceOwing d s) : SpaceOwing d (faultNotices k s) := by
  have faulted : SpaceOwing d (setNotice k s.notices[k].faultWrite s) :=
    h.keepNotice rfl (Nat.le_refl _) rfl (List.Sublist.refl _)
  have bound := faultBound_space k faulted
  unfold faultNotices
  dsimp only
  refine settle_space ?_
  split
  · exact offerSystem_space _ (bound.frame rfl rfl)
  · exact bound.frame rfl rfl

theorem evalReady_space (k : NoticeRingId) (h : SpaceOwing d s) : SpaceOwing d (evalReady k s) :=
  h.keepNotice rfl (Nat.le_refl _) rfl (List.Sublist.refl _)

end Sys2Proof.Machine
end

section
/-! R120 through every command, and so through every step (O56). -/

namespace Sys2Proof.Machine

open Sys2Proof

/-- The space law with no command in hand. -/
abbrev Spacious (s : State) : Prop := SpaceOwing (fun _ => 0) s

variable {s : State}

/-! ### Register writes -/

theorem hostWrite_space {f : State → State} (h : Spacious s) (hf : Spacious (f s)) : Spacious (hostWrite f s) := by
  unfold hostWrite
  split
  · exact h
  · exact hf

theorem whileRunning_space {f : State → State} (h : Spacious s) (hf : Spacious (f s)) : Spacious (whileRunning f s) := by
  unfold whileRunning
  split
  · exact hf
  · exact h

theorem whenBit_space {f : State → State} (v : BitVec 32) (i : Nat) (hf : ∀ {u}, Spacious u → Spacious (f u))
    (h : Spacious s) : Spacious (whenBit v i f s) := by
  unfold whenBit
  split
  · exact hf h
  · exact h

theorem controlStart_space (h : Spacious s) : Spacious (controlStart s) := by
  unfold controlStart
  split <;> exact h.frame rfl rfl

theorem controlResume_space (m : ResumeMode) (h : Spacious s) : Spacious (controlResume m s) := by
  unfold controlResume
  split
  · exact h.frame rfl rfl
  · split
    · exact leaveHalted_space m h
    · exact h.frame rfl rfl

theorem resumeAlone_space (m : ResumeMode) (h : Spacious s) : Spacious (resumeAlone m s) := by
  unfold resumeAlone
  split
  · exact settle_space (controlResume_space m h)
  · exact controlResume_space m h

theorem writeControl_space (v : BitVec 32) (h : Spacious s) : Spacious (writeControl v s) := by
  have acted : Spacious (whenBit v 4 controlClear (whenBit v 3 controlReset
      (whenBit v 2 (controlResume (resumeModeOf v)) (whenBit v 1 controlHalt (whenBit v 0 controlStart s))))) :=
    whenBit_space v 4 (fun hu => hu.frame rfl rfl) (whenBit_space v 3 (fun _ => controlReset_space _)
      (whenBit_space v 2 (controlResume_space _) (whenBit_space v 1 (latch_space _) (whenBit_space v 0 controlStart_space h))))
  unfold writeControl
  dsimp only
  split
  · exact settle_space acted
  · exact acted

theorem writeIntStatus_space (v : BitVec 32) (h : Spacious s) : Spacious (writeIntStatus v s) := by
  unfold writeIntStatus
  split
  · exact h.frame rfl rfl
  · exact h

theorem writeQueueReset_space (v : BitVec 32) (h : Spacious s) : Spacious (writeQueueReset v s) := by
  unfold writeQueueReset
  split
  · exact h
  · refine whileRunning_space h (settle_space ?_)
    exact whenBit_space v 3 (resetCommandRing_space 3) (whenBit_space v 2 (resetCommandRing_space 2)
      (whenBit_space v 1 (resetCommandRing_space 1) (whenBit_space v 0 (resetCommandRing_space 0)
        (whenBit_space v 5 (resetNoticeRing_space 1) (whenBit_space v 4 (resetNoticeRing_space 0) h)))))

theorem rejectIndex_space (o : Nat) (h : Spacious s) : Spacious (rejectIndex o s) :=
  offerSystem_space _ (h.frame rfl rfl)

theorem writePost_space (r : CommandRingId) (v : BitVec 32) (h : Spacious s) : Spacious (writePost r v s) := by
  unfold writePost
  split
  · exact settle_space (h.setRing (fun j _ w => ⟨w.bound, w.stalled, w.reservation, w.fetch, w.wait⟩)
      ⟨(h.rings r).unbound, (h.rings r).blocked⟩ fun _ => rfl)
  · exact rejectIndex_space _ h

theorem writeRelease_space (k : NoticeRingId) (v : BitVec 32) (h : Spacious s) : Spacious (writeRelease k v s) := by
  unfold writeRelease
  split
  · split
    · refine settle_space (evalReady_space k (serve_space k ?_))
      exact h.keepNotice rfl (Nat.sub_le _ _) rfl (List.Sublist.refl _)
    · exact h
  · exact rejectIndex_space _ h

theorem writeRegister_space (o : Nat) (v : BitVec 32) (h : Spacious s) : Spacious (writeRegister o v s) := by
  unfold writeRegister
  split
  · exact writeControl_space v h
  · exact writeIntStatus_space v h
  · exact h.frame rfl rfl
  · exact writeQueueReset_space v h
  · exact h.frame rfl rfl
  · exact h.frame rfl rfl
  · exact writePost_space 0 v h
  · exact writePost_space 1 v h
  · exact writePost_space 2 v h
  · exact writePost_space 3 v h
  · exact writeRelease_space 0 v h
  · exact writeRelease_space 1 v h
  · exact h

/-! ### Happenings -/

theorem firing_space (h : Spacious s) {t : State} (e : exec .firing s = .next t) : Spacious t := by
  cases e
  split
  · split
    · exact settle_space (fire_space _ _ (h.frame rfl rfl))
    · exact h.frame rfl rfl
  · exact h

theorem secondBoundary_space (h : Spacious s) {t : State} (e : exec .secondBoundary s = .next t) : Spacious t := by
  cases e
  split
  · exact (applyTrim_ends _ _).space (h.frame rfl rfl)
  · exact h

theorem sample_space (h : Spacious s) {c : CaptureId} {v : Level} {t : State} (e : exec (.sample c v) s = .next t) :
    Spacious t := by
  cases e
  split
  · split
    · exact takeSample_space c _ v h
    · exact h
  · exact h

theorem deadlineExpiry_space (h : Spacious s) {r : CommandRingId} {t : State}
    (e : exec (.deadlineExpiry r) s = .next t) : Spacious t := by
  cases e
  split
  · rename_i wait
    split
    · split
      · exact settle_space (endWait_space wait _ h)
      · exact h
    · exact h
  · exact h

theorem fetchEnd_space (h : Spacious s) {f : FetchEnd} {pins : BitVec 8} {t : State}
    (e : exec (.fetchEnd f pins) s = .next t) : Spacious t := by
  cases e
  cases f with
  | good record => exact endFetch_space h fun r path live => takeFetched_space _ _ h path live
  | busError => exact endFetch_space h fun r path live => faultFetch_space h path live

theorem writeEnd_space (h : Spacious s) {k : NoticeRingId} {w : WriteEnd} {t : State}
    (e : exec (.writeEnd k w) s = .next t) : Spacious t := by
  cases e
  split
  · have gone : Spacious (setNotice k { s.notices[k] with stale := none } s) :=
      h.keepNotice rfl (Nat.le_refl _) rfl (List.Sublist.refl _)
    exact gone.frame (by simp) (by simp)
  · rename_i q _ _ _
    have written : Spacious (endWriteInMemory q w s) := h.frame (by simp) (by simp)
    cases w with
    | good => exact evalReady_space k (written.keepNotice rfl (Nat.le_refl _) rfl (List.Sublist.refl _))
    | busError => exact faultNotices_space k written
  · exact h

theorem setupReadEnd_space (h : Spacious s) {i : Nat} {r : SetupEnd} {t : State}
    (e : exec (.setupReadEnd i r) s = .next t) : Spacious t := by
  cases e
  split
  · dsimp only
    split
    · exact h.frame rfl rfl
    · split
      · exact loadSetup_space _ _
      · exact h.frame rfl rfl
  · exact h

theorem workEnd_space (h : Spacious s) {t : State} (e : exec .workEnd s = .next t) : Spacious t := by
  cases e
  split
  · split
    · exact h.frame rfl rfl
    · exact endWork_space _ (h.frame rfl rfl)
  · exact h

theorem haltInAssert_space (h : Spacious s) {t : State} (e : exec .haltInAssert s = .next t) : Spacious t := by
  cases e
  split
  · exact h
  · split
    · exact h.frame rfl rfl
    · exact latch_space _ h

theorem fullReset_space (s : State) : Spacious (fullReset s) := (controlReset_space s).frame rfl rfl

/-- The happenings of the lines, the work that begins, and the reference clock touch no ring. -/
theorem elsewhere_space (h : Spacious s) {c : Instr} {t : State}
    (which : (∃ l, c = .pulseEnd l ∨ c = .frameStart l ∨ c = .densityClock l) ∨ c = .take ∨ c = .referenceClockPeriod)
    (e : exec c s = .next t) : Spacious t := by
  obtain ⟨l, rfl | rfl | rfl⟩ | rfl | rfl := which
  · cases e
    split
    · split
      · exact h.frame rfl rfl
      · exact h
    all_goals exact h
  · cases e
    split
    · split
      · exact h.frame rfl rfl
      · exact h
    all_goals exact h
  · cases e
    split
    · split
      · exact h.frame rfl rfl
      · exact h
    all_goals exact h
  · cases e
    split
    · exact h.frame rfl rfl
    all_goals exact h
  · cases e
    split
    · exact h
    · exact h.frame rfl rfl

/-! ### Every command -/

theorem exec_space {c : Instr} {t : State} (h : Spacious s) (e : exec c s = .next t) : Spacious t := by
  cases carries : carried c with
  | some p =>
    obtain ⟨hd, m⟩ := p
    rw [exec_carried carries] at e
    cases e
    exact commandFetched_space hd m h
  | none =>
    cases c with
    | controlStart => cases e; exact hostWrite_space h (controlStart_space h)
    | halt => cases e; exact hostWrite_space h (latch_space _ h)
    | resume m => cases e; exact hostWrite_space h (resumeAlone_space m h)
    | coreReset => cases e; exact hostWrite_space h (controlReset_space s)
    | clearFlags => cases e; exact hostWrite_space h (h.frame rfl rfl)
    | noticeRingReset k =>
      cases e
      exact hostWrite_space h (whileRunning_space h (settle_space (resetNoticeRing_space k h)))
    | commandRingReset r =>
      cases e
      exact hostWrite_space h (whileRunning_space h (settle_space (resetCommandRing_space r h)))
    | postIndexWrite r v => cases e; exact hostWrite_space h (writePost_space r v h)
    | releaseIndexWrite k v => cases e; exact hostWrite_space h (writeRelease_space k v h)
    | intStatusWrite v => cases e; exact hostWrite_space h (writeIntStatus_space v h)
    | intEnableWrite v => cases e; exact hostWrite_space h (h.frame rfl rfl)
    | registerWrite o v n =>
      cases e
      split
      · exact hostWrite_space h (writeRegister_space _ v h)
      · exact h
    | powerOn => cases e; exact fullReset_space s
    | resetNAssert => cases e; exact fullReset_space _
    | resetNRelease =>
      cases e
      split
      · exact h.frame rfl rfl
      · exact h
    | haltInAssert => exact haltInAssert_space h e
    | haltInRelease => cases e; exact h.frame rfl rfl
    | firing => exact firing_space h e
    | pulseEnd l => exact elsewhere_space h (.inl ⟨l, .inl rfl⟩) e
    | frameStart l => exact elsewhere_space h (.inl ⟨l, .inr (.inl rfl)⟩) e
    | densityClock l => exact elsewhere_space h (.inl ⟨l, .inr (.inr rfl)⟩) e
    | secondBoundary => exact secondBoundary_space h e
    | sample c v => exact sample_space h e
    | holdoffExpiry k =>
      cases e
      split
      · exact h
      · exact evalReady_space k h
    | deadlineExpiry r => exact deadlineExpiry_space h e
    | fetchEnd f pins => exact fetchEnd_space h e
    | writeEnd k w => exact writeEnd_space h e
    | setupReadEnd i r => exact setupReadEnd_space h e
    | take => exact elsewhere_space h (.inr (.inl rfl)) e
    | workEnd => exact workEnd_space h e
    | referenceClockPeriod => exact elsewhere_space h (.inr (.inr rfl)) e
    | _ => cases carries

/-- Settles O56: the space law, with the reservations of a command in hand counted apart, is kept by every command. -/
theorem stepKeepsTheSpaceLaw : Obligations.StepKeepsTheSpaceLaw := by
  intro s t h e
  rw [spaceLaw_iff] at h ⊢
  unfold step at e
  split at e
  · cases e
    exact h
  · rename_i _ cs _
    have queued : Spacious { s with pending := cs } := h.frame rfl rfl
    exact exec_space queued e

end Sys2Proof.Machine
end

section
/-! Writes of the index registers (R129, R131, R142, R171). -/

namespace Sys2Proof.Machine

open Sys2Proof

theorem hostWrite_open {s : State} (f : State → State) (released : s.control.resetAsserted = false) : hostWrite f s = f s := by
  rw [hostWrite, released, if_neg Bool.false_ne_true]

/-- A rejected index write while RUNNING: BAD_INDEX is set and the notice is offered to NR0 (R129, R131). -/
theorem rejectIndex_running {s : State} (offset : Nat) (running : s.control.core = .running) :
    rejectIndex offset s =
      setNotice 0
        (if s.notices[(0 : NoticeRingId)].takesOffer then
          s.notices[(0 : NoticeRingId)].takePlace
            (.system { body := .badIndex (BitVec.ofNat 8 offset), tick := s.time.timebase } 0)
         else
          { s.notices[(0 : NoticeRingId)] with
            deferred := deferSystem { body := .badIndex (BitVec.ofNat 8 offset), tick := s.time.timebase }
              s.notices[(0 : NoticeRingId)].deferred })
        { s with control := { s.control with badIndex := true } } :=
  offerSystem_running (s := { s with control := { s.control with badIndex := true } }) running rfl

theorem rejectIndex_outside {s : State} (offset : Nat) (outside : s.control.core ≠ .running) :
    rejectIndex offset s = { s with control := { s.control with badIndex := true } } := if_neg outside

/-- A rejected index write, ring by ring. -/
theorem rejectIndex_reports {s : State} {o : Byte} {offset : Nat} (ho : o.toNat = offset) (n : SystemNotice)
    (hn : n = { body := .badIndex o, tick := s.time.timebase }) :
    rejectIndex offset s =
        { s with control := { s.control with badIndex := true }, notices := (rejectIndex offset s).notices } ∧
      (rejectIndex offset s).notices[(1 : NoticeRingId)] = s.notices[(1 : NoticeRingId)] ∧
      (rejectIndex offset s).notices[(0 : NoticeRingId)] =
        if s.control.core ≠ .running then s.notices[(0 : NoticeRingId)]
        else if s.notices[(0 : NoticeRingId)].takesOffer then s.notices[(0 : NoticeRingId)].takePlace (.system n 0)
        else { s.notices[(0 : NoticeRingId)] with deferred := deferSystem n s.notices[(0 : NoticeRingId)].deferred } := by
  have named : BitVec.ofNat 8 offset = o := by rw [← ho, BitVec.ofNat_toNat, BitVec.setWidth_eq]
  subst hn
  by_cases running : s.control.core = .running
  · rw [rejectIndex_running offset running, named, if_neg (not_not_intro running)]
    exact ⟨rfl, by rw [setNotice_get, if_neg (by decide)], by rw [setNotice_get, if_pos rfl]⟩
  · rw [rejectIndex_outside offset running, if_pos running]
    exact ⟨rfl, rfl, rfl⟩

theorem acceptsPost_iff (x : CommandRing) (p : Nat) :
    x.acceptsPost p = true ↔
      match x.config with
      | some c => p < c.size
      | none => p = 0 := by
  unfold CommandRing.acceptsPost
  cases x.config <;> exact decide_eq_true_iff

theorem acceptsRelease_iff (x : NoticeRing) (p : Nat) :
    x.acceptsRelease p = true ↔
      match x.config with
      | some c => p < c.size ∧ (p + c.size - x.releaseIndex) % c.size ≤ x.occupied
      | none => p = 0 := by
  unfold NoticeRing.acceptsRelease NoticeRing.freedBy NoticeRing.size
  cases x.config with
  | none => exact decide_eq_true_iff
  | some c => exact Bool.and_eq_true_iff.trans (and_congr decide_eq_true_iff decide_eq_true_iff)

theorem toNat_eq_zero_iff (v : BitVec 32) : v.toNat = 0 ↔ v = 0 := BitVec.toNat_inj (y := 0)

theorem postIndexWrite_valid {s : State} {r : CommandRingId} {v : BitVec 32} (released : s.control.resetAsserted = false)
    (valid : match s.intake.rings[r].config with
      | some c => v.toNat < c.size
      | none => v = 0) :
    exec (.postIndexWrite r v) s = .next (settle (setRing r { s.intake.rings[r] with post := v.toNat } s)) := by
  have accepted : s.intake.rings[r].acceptsPost v.toNat = true := by
    rw [acceptsPost_iff]
    split <;> rename_i config <;> rw [config] at valid
    · exact valid
    · exact (toNat_eq_zero_iff v).mpr valid
  show Host.Outcome.next _ = _
  rw [hostWrite_open _ released, writePost, if_pos accepted]

theorem postIndexWrite_invalid {s : State} {r : CommandRingId} {v : BitVec 32} (released : s.control.resetAsserted = false)
    (invalid : match s.intake.rings[r].config with
      | some c => c.size ≤ v.toNat
      | none => v ≠ 0) :
    exec (.postIndexWrite r v) s = .next (rejectIndex (0x1C + 4 * r.val) s) := by
  have rejected : ¬s.intake.rings[r].acceptsPost v.toNat = true := by
    rw [acceptsPost_iff]
    split <;> rename_i config <;> rw [config] at invalid
    · exact Nat.not_lt.mpr invalid
    · exact mt (toNat_eq_zero_iff v).mp invalid
  show Host.Outcome.next _ = _
  rw [hostWrite_open _ released, writePost, if_neg rejected, postOffset]

theorem releaseIndexWrite_invalid {s : State} {k : NoticeRingId} {v : BitVec 32}
    (released : s.control.resetAsserted = false)
    (invalid : match s.notices[k].config with
      | some c => c.size ≤ v.toNat ∨ s.notices[k].occupied < (v.toNat + c.size - s.notices[k].releaseIndex) % c.size
      | none => v ≠ 0) :
    exec (.releaseIndexWrite k v) s = .next (rejectIndex (0x2C + 4 * k.val) s) := by
  have rejected : ¬s.notices[k].acceptsRelease v.toNat = true := by
    rw [acceptsRelease_iff]
    split <;> rename_i config <;> rw [config] at invalid
    · rw [not_and_or, Nat.not_lt, Nat.not_le]
      exact invalid
    · exact mt (toNat_eq_zero_iff v).mp invalid
  show Host.Outcome.next _ = _
  rw [hostWrite_open _ released, writeRelease, if_neg rejected, releaseOffset]

/-- Settles O12: a valid post index is stored, and a rejected index is reported, whichever register it was for. -/
theorem indexWrites : Obligations.IndexWrites := by
  refine ⟨fun r v s released valid => ⟨_, postIndexWrite_valid released valid, settle_arbiterOnly _⟩, ?_⟩
  rintro _ o s n released (⟨r, v, rfl, ho, invalid⟩ | ⟨k, v, rfl, ho, invalid⟩) hn
  · exact ⟨_, postIndexWrite_invalid released invalid, rejectIndex_reports ho n hn⟩
  · exact ⟨_, releaseIndexWrite_invalid released invalid, rejectIndex_reports ho n hn⟩

end Sys2Proof.Machine
end

section
/-! The ends of record writes (R121, R132 to R135, R138, R139, R174). -/

namespace Sys2Proof.Machine

open Sys2Proof

/-! ### Memory and readiness -/

theorem read_writeRecord (q : Queued) (m : Memory) (a : Nat) :
    Memory.read (Memory.writeRecord q m) a =
      if q.address ≤ a ∧ a < q.address + 32 then
        some ((noticeRecord q.phase q.notice).extractLsb' (8 * (a - q.address)) 8)
      else Memory.read m a := by
  rw [Memory.writeRecord, Memory.read_writeBytes]
  rfl

/-- A record write touches memory alone, but for free values: a good end puts the record there, and no end touches a byte
outside it (log entries 5 and 6). -/
theorem endWriteInMemory_eq (q : Queued) (e : WriteEnd) (s : State) :
    ∃ m n, endWriteInMemory q e s = { s with memory := m, freeCount := n } ∧
      (∀ a : Nat, (a < q.address ∨ q.address + 32 ≤ a) → Memory.read m a = Memory.read s.memory a) ∧
      (e = .good → n = s.freeCount ∧ ∀ a : Nat, q.address ≤ a → a < q.address + 32 →
        Memory.read m a = some ((noticeRecord q.phase q.notice).extractLsb' (8 * (a - q.address)) 8)) := by
  cases e with
  | good =>
    refine ⟨_, _, rfl, fun a outside => ?_, fun _ => ⟨rfl, fun a low high => ?_⟩⟩
    · rw [read_writeRecord, if_neg (by omega)]
    · rw [read_writeRecord, if_pos ⟨low, high⟩]
  | busError =>
    refine ⟨_, _, rfl, fun a outside => ?_, fun good => by cases good⟩
    rw [Memory.spoilRecord, Memory.read_writeBytes, if_neg (by omega)]

/-- Ready, as R135 defines it: by the count, or by the holdoff of the oldest record. -/
theorem isReady_iff {x : NoticeRing} {c : NoticeConfig} (config : x.config = some c) (u : TimeUnit) :
    x.isReady u = true ↔ ∃ o, x.written.head? = some o ∧
      (c.threshold ≤ x.written.length ∨ min (o.toNat + c.holdoff) (2 ^ 64 - 1) ≤ u.timebase.toNat) := by
  simp only [NoticeRing.isReady, config]
  cases h : x.written.head? with
  | none => simp [NoticeRing.oldest, h]
  | some o =>
    simp only [NoticeRing.oldest, h, NoticeRing.unreleased, TimeUnit.reached, satTick_toNat, Bool.or_eq_true,
      decide_eq_true_eq, Option.some.injEq, exists_eq_left']
    exact or_congr_left decide_eq_true_iff

/-! ### The ends -/

theorem writeEnd_head {s : State} {k : NoticeRingId} {q : Queued} {l : List Queued} (e : WriteEnd)
    (stale : s.notices[k].stale = none) (queue : s.notices[k].queue = q :: l) :
    exec (.writeEnd k e) s = .next (endHeadWrite k q e (endWriteInMemory q e s)) := by
  show execWriteEnd k e s = _
  simp only [execWriteEnd, stale, queue]

theorem writeEnd_stale {s : State} {k : NoticeRingId} {q : Queued} (e : WriteEnd) (stale : s.notices[k].stale = some q) :
    exec (.writeEnd k e) s = .next (endWriteInMemory q e (setNotice k { s.notices[k] with stale := none } s)) := by
  show execWriteEnd k e s = _
  simp only [execWriteEnd, stale]

/-- The good end of the head record: its ring, with ready re-evaluated (R121, R135). -/
theorem endHeadWrite_good_ring (k : NoticeRingId) (q : Queued) (s : State) :
    (endHeadWrite k q .good s).notices[k] =
      { s.notices[k].headWritten q s.time.timebase with
        ready := (s.notices[k].headWritten q s.time.timebase).isReady s.time } := by
  show (evalReady k (setNotice k _ s)).notices[k] = _
  rw [evalReady, setNotice_get, if_pos rfl, setNotice_get, if_pos rfl]
  rfl

theorem endHeadWrite_good_other {k j : NoticeRingId} (q : Queued) (s : State) (h : j ≠ k) :
    (endHeadWrite k q .good s).notices[j] = s.notices[j] := by
  show (evalReady k (setNotice k _ s)).notices[j] = _
  rw [evalReady, setNotice_get, if_neg h, setNotice_get, if_neg h]

/-- Settles O40: the good end of the head record, and the end of a write from before a reset. -/
theorem recordWriteEndsGoodOrStale : Obligations.RecordWriteEndsGoodOrStale := by
  refine ⟨fun k s q l w stale queue hw => ?_, fun k e s q stale => ?_⟩
  · obtain ⟨m, f, memory, outside, inside⟩ := endWriteInMemory_eq q .good s
    obtain ⟨rfl, bytes⟩ := inside rfl
    have ends := writeEnd_head .good stale queue
    rw [memory] at ends
    have ring : s.notices[k].headWritten q s.time.timebase = { s.notices[k] with queue := l, written := w } := by
      rw [NoticeRing.headWritten, queue, hw]
      rfl
    have after : (endHeadWrite k q .good { s with memory := m }).notices[k] =
        { s.notices[k] with
          queue := l, written := w
          ready := NoticeRing.isReady { s.notices[k] with queue := l, written := w } s.time } := by
      exact (endHeadWrite_good_ring k q { s with memory := m }).trans
        (congrArg (fun x : NoticeRing => { x with ready := x.isReady s.time }) ring)
    refine ⟨_, ends, rfl, fun a => ?_, ?_, fun c config => ?_, fun j hj => endHeadWrite_good_other q _ hj⟩
    · show Memory.read m a = _
      split
      · rename_i within
        exact bytes a within.1 within.2
      · exact outside a (by omega)
    · rw [after]
    · rw [after]
      exact isReady_iff (x := { s.notices[k] with queue := l, written := w }) config s.time
  · obtain ⟨m, f, memory, outside, inside⟩ :=
      endWriteInMemory_eq q e (setNotice k { s.notices[k] with stale := none } s)
    have ends := writeEnd_stale e stale
    rw [memory] at ends
    exact ⟨_, ends, rfl, outside, fun good => inside good⟩

/-! ### A bus error -/

/-- A command ring at the fault of notice ring `k` (R132 step 4). -/
theorem boundFault_eq (k : NoticeRingId) (z : CommandRing) :
    (if z.bound? = some k then z.boundFault else z) =
      if z.bound? = some k ∧ z.state = .active ∧ z.fetch = none then { z with state := .stalled } else z := by
  by_cases bound : z.bound? = some k
  · rw [if_pos bound]
    by_cases idle : z.state = .active ∧ z.fetch = none
    · rw [if_pos ⟨bound, idle⟩]
      simp [CommandRing.boundFault, idle]
    · rw [if_neg fun h => idle h.2]
      simpa [CommandRing.boundFault] using fun active free => absurd ⟨active, free⟩ idle
  · rw [if_neg bound, if_neg fun h => bound h.1]

/-- `s` with notice ring `k` FAULTED as `x`, the command rings bound to it STALLED, and FAULT set (R132 steps 1 to 5). -/
def writeFaulted (k : NoticeRingId) (x : NoticeRing) (s : State) : State :=
  setNotice k x
    { s with
      control := { s.control with fault := true }
      intake :=
        { s.intake with rings := s.intake.rings.map fun z =>
            if z.bound? = some k ∧ z.state = .active ∧ z.fetch = none then { z with state := .stalled } else z } }

theorem writeFaulted_eq (k : NoticeRingId) (s : State) :
    setFault (faultBound k (setNotice k s.notices[k].faultWrite s)) = writeFaulted k s.notices[k].faultWrite s := by
  simp only [writeFaulted, ← boundFault_eq]
  rfl

theorem faultWrite_eq {x : NoticeRing} {q : Queued} {l : List Queued} (queue : x.queue = q :: l) :
    x.faultWrite =
      { x with queue := [], state := .faulted, lostRecords := min (x.lostRecords + (l.length + 1)) 65535 } := by
  rw [NoticeRing.faultWrite, queue]
  rfl

/-- `s` with the QUEUE_FAULT of NR1 offered to NR0, posted with the count as `n` carries it (R132, R134). -/
def faultReported (n : SystemNotice) (s : State) : State :=
  setNotice 0
    (if s.notices[(0 : NoticeRingId)].takesOffer then s.notices[(0 : NoticeRingId)].takePlace (.system n 0)
     else
      { s.notices[(0 : NoticeRingId)] with
        deferred := deferSystem { n with body := .noticeFault 1 0 } s.notices[(0 : NoticeRingId)].deferred }) s

theorem offerFault_eq {s : State} (running : s.control.core = .running) :
    offerSystem (.noticeFault 1 0) s =
      faultReported { body := .noticeFault 1 s.notices[(1 : NoticeRingId)].lostRecords, tick := s.time.timebase } s := by
  rw [faultReported]
  cases takes : s.notices[(0 : NoticeRingId)].takesOffer with
  | true => rw [offerSystem_posted _ running takes, if_pos rfl]; rfl
  | false => rw [offerSystem_deferred _ running takes, if_neg Bool.false_ne_true]

/-- The bus error of a record write while RUNNING: the fault, its notice where NR1 faulted, and the arbiter (R132,
R134). -/
theorem faultNotices_running {s : State} {k : NoticeRingId} {n : SystemNotice} (running : s.control.core = .running)
    (hn : n = { body := .noticeFault 1 s.notices[k].faultWrite.lostRecords, tick := s.time.timebase }) :
    faultNotices k s =
      settle
        (if k = 1 then faultReported n (writeFaulted k s.notices[k].faultWrite s)
         else writeFaulted k s.notices[k].faultWrite s) := by
  rw [faultNotices]
  simp only [writeFaulted_eq]
  by_cases one : k = 1
  · subst one
    have lost : (writeFaulted 1 s.notices[(1 : NoticeRingId)].faultWrite s).notices[(1 : NoticeRingId)] =
        s.notices[(1 : NoticeRingId)].faultWrite := (setNotice_get 1 1 _ _).trans (if_pos rfl)
    have on : (writeFaulted 1 s.notices[(1 : NoticeRingId)].faultWrite s).control.core = .running := running
    rw [if_pos rfl, if_pos rfl, offerFault_eq on, lost, hn]
    rfl
  · rw [if_neg one, if_neg one]

/-- NR0, to which the fault of NR1 is reported, is not touched by the fault itself. -/
theorem faultReported_writeFaulted (n : SystemNotice) (x : NoticeRing) (s : State) :
    faultReported n (writeFaulted 1 x s) =
      setNotice 0
        (if s.notices[(0 : NoticeRingId)].takesOffer then s.notices[(0 : NoticeRingId)].takePlace (.system n 0)
         else
          { s.notices[(0 : NoticeRingId)] with
            deferred := deferSystem { n with body := .noticeFault 1 0 } s.notices[(0 : NoticeRingId)].deferred })
        (writeFaulted 1 x s) := by
  have other : (writeFaulted 1 x s).notices[(0 : NoticeRingId)] = s.notices[(0 : NoticeRingId)] :=
    (setNotice_get 1 0 _ _).trans (if_neg (by decide))
  rw [faultReported, other]

/-- Settles O41: the records lost and the ring FAULTED, then the notice of NR1, then the arbiter's choice. -/
theorem recordWriteErrorFaultsTheRing : Obligations.RecordWriteErrorFaultsTheRing := by
  intro k s q l x n running stale queue hx hn
  obtain ⟨m, f, memory, outside, -⟩ := endWriteInMemory_eq q .busError s
  have ends := writeEnd_head .busError stale queue
  rw [← faultWrite_eq queue] at hx
  subst hx
  have fault := faultNotices_running (s := { s with memory := m, freeCount := f }) (k := k) running hn
  rw [memory, endHeadWrite, fault] at ends
  have named : ∃ w, writeFaulted k s.notices[k].faultWrite { s with memory := m, freeCount := f } = w := ⟨_, rfl⟩
  obtain ⟨w, hw⟩ := named
  replace ends : exec (.writeEnd k .busError) s = .next (settle (if k = 1 then faultReported n w else w)) := by
    rw [← hw]
    exact ends
  have frame : (settle (if k = 1 then faultReported n w else w)).memory = m ∧
      (settle (if k = 1 then faultReported n w else w)).freeCount = f := by
    rw [← hw]
    simp only [settle_frame]
    split <;> exact ⟨rfl, rfl⟩
  obtain ⟨kept, count⟩ := frame
  refine ⟨_, ends, ?_, fun a away => ?_, ?_⟩
  · rw [(settle_arbiterOnly _).blocks, ← hw]
    split <;> rfl
  · rw [kept]
    exact outside a away
  · rintro y rfl
    rw [kept, count]
    convert settle_arbiterOnly (if k = 1 then faultReported n w else w) using 1
    by_cases one : k = 1
    · subst one
      rw [if_pos rfl, if_pos rfl, ← hw, faultReported_writeFaulted]
      rfl
    · rw [if_neg one, if_neg one, ← hw]
      rfl

end Sys2Proof.Machine
end

section
/-! Serving free places one by one (R124, R127 to R129, R132, R145). -/

namespace Sys2Proof.Machine

open Sys2Proof

/-! ### When nothing is served -/

theorem serve_of_full {k : NoticeRingId} {s : State}
    (full : s.notices[k].state ≠ .active ∨ s.notices[k].size ≤ s.notices[k].occupied + s.notices[k].reserved) :
    serve k s = s := by
  have closed : ¬(s.notices[k].state = .active ∧ s.notices[k].hasRoom = true) := by
    rintro ⟨active, room⟩
    have : s.notices[k].occupied + s.notices[k].reserved < s.notices[k].size := decide_eq_true_iff.mp room
    exact full.elim (fun h => h active) (by omega)
  have deferred : ∀ n, serveDeferred k n s = s := by
    rintro (_ | n)
    · rfl
    · rw [serveDeferred]
      split
      · rfl
      · exact if_neg fun h => closed (by simpa using h)
  have requests : ∀ n, serveRequests k n s = s := by
    rintro (_ | n)
    · rfl
    · rw [serveRequests]
      split
      · rfl
      · refine if_neg fun h => closed ?_
        obtain ⟨active, room, -⟩ := (takesOffer_iff _).mp h
        exact ⟨active, decide_eq_true room⟩
  simp only [serve, deferred, requests]

theorem serve_of_nothing {k : NoticeRingId} {s : State} (deferred : s.notices[k].deferred = [])
    (requests : s.notices[k].requests = []) : serve k s = s := by
  simp only [serve, deferred, List.length_nil, serveDeferred, requests, serveRequests]

/-! ### One place -/

theorem serve_deferred {k : NoticeRingId} {s : State} {d : Deferred} {l : List Deferred} (active : s.notices[k].state = .active)
    (room : s.notices[k].occupied + s.notices[k].reserved < s.notices[k].size) (deferred : s.notices[k].deferred = d :: l) :
    serve k s = serve k (postDeferred k d (setNotice k { s.notices[k] with deferred := l } s)) := by
  have rest := (postDeferred_head deferred (decide_eq_true room)).deferred
  rw [deferred, List.singleton_append, List.cons.injEq] at rest
  have first : serveDeferred k (l.length + 1) s =
      serveDeferred k l.length (postDeferred k d (setNotice k { s.notices[k] with deferred := l } s)) := by
    simp only [serveDeferred, deferred]
    exact if_pos (Bool.and_eq_true_iff.mpr ⟨decide_eq_true active, decide_eq_true room⟩)
  simp only [serve, ← rest.2, deferred, List.length_cons, first]

theorem serve_request {k : NoticeRingId} {s : State} {r : CommandRingId} {l : List CommandRingId}
    (active : s.notices[k].state = .active)
    (room : s.notices[k].occupied + s.notices[k].reserved < s.notices[k].size) (deferred : s.notices[k].deferred = [])
    (requests : s.notices[k].requests = r :: l) : serve k s = serve k (grantRequest k r l s) := by
  have after : (grantRequest k r l s).notices[k] =
      { s.notices[k] with reserved := s.notices[k].reserved + 1, requests := l } :=
    (setNotice_get k k _ s).trans (if_pos rfl)
  have first : serveRequests k (l.length + 1) s = serveRequests k l.length (grantRequest k r l s) := by
    simp only [serveRequests, requests]
    exact if_pos ((takesOffer_iff _).mpr ⟨active, room, deferred⟩)
  simp only [serve, after, deferred, requests, List.length_nil, List.length_cons, serveDeferred, first]

theorem setNotice_setNotice (k : NoticeRingId) (x y : NoticeRing) (s : State) :
    setNotice k y (setNotice k x s) = setNotice k y s :=
  congrArg (fun v => { s with notices := v }) (Vector.set_set ..)

/-- A record posted by ring `k` once the head of its deferred list has left it. -/
theorem postNotice_left (k : NoticeRingId) (n : Notice) (x : NoticeRing) (s : State) :
    postNotice k n (setNotice k x s) = setNotice k (x.takePlace n) s := by
  rw [postNotice, setNotice_get, if_pos rfl, setNotice_setNotice]

theorem posted_eq (p : FiringReport) :
    p.posted = { p with flags := { p.flags with coalesced := p.flags.coalesced || decide (1 < p.count) } } := by
  unfold FiringReport.posted
  split <;> rename_i many <;> simp [many]

theorem postDeferred_slot {k : NoticeRingId} {s : State} {i : SlotId} {e : Event} (p : FiringReport) (x : NoticeRing)
    (loaded : s.slots[i].event = some e) :
    postDeferred k (.slot i p) (setNotice k x s) =
      setSlot i { s.slots[i] with noticePending := false }
        (setNotice k
          (x.takePlace
            (.firing i s.slots[i].generation e.defn.tag
              { p with flags := { p.flags with coalesced := p.flags.coalesced || decide (1 < p.count) } })) s) := by
  rw [postDeferred, firingNotice_loaded (s := setNotice k x s) p.posted loaded, postNotice_left, posted_eq]
  rfl

theorem postDeferred_line {k : NoticeRingId} {s : State} {c : CaptureId} {h : Held} (x : NoticeRing)
    (held : s.capture.lines[c].held = some h) :
    postDeferred k (.line c) (setNotice k x s) =
      setCapture c { s.capture.lines[c] with held := none, lost := 0 }
        (setNotice k (x.takePlace (.edge c h.direction h.timestamp h.sequence s.capture.lines[c].lost)) s) := by
  simp only [postDeferred, setNotice_frame, held, postNotice_left]

theorem postDeferred_system {k : NoticeRingId} {s : State} (n : SystemNotice) (lost : Nat) (x : NoticeRing)
    (kept : (setNotice k x s).notices[(1 : NoticeRingId)].lostRecords = s.notices[(1 : NoticeRingId)].lostRecords) :
    postDeferred k (.system n lost) (setNotice k x s) =
      setNotice k
        (x.takePlace
          (.system
            (match n.body with
              | .noticeFault 1 _ => { n with body := .noticeFault 1 s.notices[(1 : NoticeRingId)].lostRecords }
              | .noticeFault 0 _ | .commandFault _ | .badIndex _ | .halted _ _ | .resumed _ => n) lost)) s := by
  obtain ⟨b, tick⟩ := n
  have posting := atPosting_cases b tick (setNotice k x s)
  rw [kept] at posting
  rw [postDeferred, postNotice_left]
  exact congrArg (fun m => setNotice k (x.takePlace (.system m lost)) s) posting

/-! ### What serving leaves alone -/

theorem serve_own (k : NoticeRingId) (s : State) :
    (serve k s).notices[k].config = s.notices[k].config ∧ (serve k s).notices[k].written = s.notices[k].written := by
  obtain ⟨t, posted, granted, post, grant, -⟩ := serve_cases k s
  rw [grant.own, post.own]
  exact ⟨rfl, rfl⟩

theorem serve_blocks (k : NoticeRingId) (s : State) :
    serve k s = { s with intake := (serve k s).intake, notices := (serve k s).notices
                         slots := (serve k s).slots, capture := (serve k s).capture } := by
  ext1 <;> simp

/-- Serving touches no command ring without a request on the ring served. -/
theorem serve_ring {k : NoticeRingId} {s : State} {r : CommandRingId} (h : r ∉ s.notices[k].requests) :
    (serve k s).intake.rings[r] = s.intake.rings[r] := by
  obtain ⟨t, posted, granted, post, grant, -⟩ := serve_cases k s
  have requests : t.notices[k].requests = s.notices[k].requests := by rw [post.own]
  have ungranted : r ∉ granted := fun hr => h (by rw [← requests, grant.requests]; exact List.mem_append_left _ hr)
  rw [grant.rings, if_neg ungranted, post.blocks]

theorem serve_turn (k : NoticeRingId) (s : State) : (serve k s).intake.turn = s.intake.turn := by
  obtain ⟨t, posted, granted, post, grant, -⟩ := serve_cases k s
  rw [grant.blocks, post.blocks]

theorem postDeferred_endTurn (k : NoticeRingId) (d : Deferred) (s : State) :
    postDeferred k d (endTurn s) = endTurn (postDeferred k d s) := by
  cases d with
  | slot i p => rfl
  | line c =>
    cases held : s.capture.lines[c].held with
    | none => simp only [postDeferred, endTurn_frame, held]
    | some h =>
      simp only [postDeferred, endTurn_frame, held]
      rfl
  | system n lost => rfl

theorem serveDeferred_endTurn (k : NoticeRingId) (n : Nat) (s : State) :
    serveDeferred k n (endTurn s) = endTurn (serveDeferred k n s) := by
  induction n generalizing s with
  | zero => rfl
  | succ n ih =>
    cases deferred : s.notices[k].deferred with
    | nil => simp only [serveDeferred, endTurn_frame, deferred]
    | cons d ds =>
      simp only [serveDeferred, endTurn_frame, deferred]
      split
      · rw [← ih, ← postDeferred_endTurn]
        rfl
      · rfl

theorem serveRequests_endTurn (k : NoticeRingId) (n : Nat) (s : State) :
    serveRequests k n (endTurn s) = endTurn (serveRequests k n s) := by
  induction n generalizing s with
  | zero => rfl
  | succ n ih =>
    cases requests : s.notices[k].requests with
    | nil => simp only [serveRequests, endTurn_frame, requests]
    | cons r rs =>
      simp only [serveRequests, endTurn_frame, requests]
      split
      · rw [← ih]
        rfl
      · rfl

theorem setNotice_endTurn (k : NoticeRingId) (x : NoticeRing) (s : State) :
    setNotice k x (endTurn s) = endTurn (setNotice k x s) := rfl

/-- The mark of a turn plays no part in serving. -/
theorem serve_endTurn (k : NoticeRingId) (s : State) : serve k (endTurn s) = endTurn (serve k s) := by
  simp only [serve, serveDeferred_endTurn, serveRequests_endTurn, endTurn_frame]

/-- The arbiter marks a turn whose ring is not eligible itself (R143). -/
theorem settle_endTurn {s : State} {r : CommandRingId} (turn : r = s.intake.turn)
    (idle : s.intake.rings[r].eligible = false) : settle (endTurn s) = settle s := by
  subst turn
  have noted : noteTurn (endTurn s) = noteTurn s := by
    rw [noteTurn, endTurn_rings, noteTurn]
    show (if s.intake.rings[s.intake.turn].eligible = true then _ else _) = _
    rw [idle, if_neg Bool.false_ne_true, if_neg Bool.false_ne_true]
    rfl
  rw [settle, noted, settle]

end Sys2Proof.Machine
end

section
/-! Releases and the holdoff (R130, R135, R136). -/

namespace Sys2Proof.Machine

open Sys2Proof

/-! ### Marking records released -/

theorem markReleased_zero (l : List Queued) : markReleased 0 l = l := by cases l <;> rfl

theorem markReleased_map (n : Nat) (l : List Queued) :
    (markReleased n l).map (fun q => (q.place, q.address, q.phase, q.notice)) =
      l.map fun q => (q.place, q.address, q.phase, q.notice) := by
  induction l generalizing n with
  | nil => cases n <;> rfl
  | cons q l ih =>
    cases n with
    | zero => rw [markReleased_zero]
    | succ n =>
      rw [markReleased]
      split
      · rw [List.map_cons, List.map_cons, ih]
      · rw [List.map_cons, List.map_cons, ih]

/-- With the records released before at the front, the next `n` are marked, in their order. -/
theorem markReleased_append (n : Nat) (a b : List Queued) (released : ∀ q ∈ a, q.released = true)
    (queued : ∀ q ∈ b, q.released = false) :
    markReleased n (a ++ b) = a ++ (b.take n).map (fun q => { q with released := true }) ++ b.drop n := by
  cases n with
  | zero => simp [markReleased_zero]
  | succ n =>
    induction a with
    | cons q a ih =>
      rw [List.cons_append, markReleased, if_pos (released q List.mem_cons_self),
        ih fun x hx => released x (List.mem_cons_of_mem _ hx)]
      rfl
    | nil =>
      clear released
      induction b generalizing n with
      | nil => rfl
      | cons q b ih =>
        have head : ¬q.released = true := by rw [queued q List.mem_cons_self]; exact Bool.false_ne_true
        have rest := fun x hx => queued x (List.mem_cons_of_mem q hx)
        rw [List.nil_append, markReleased, if_neg head]
        cases n with
        | zero =>
          rw [markReleased_zero]
          rfl
        | succ n =>
          have tail := ih rest n
          rw [List.nil_append, List.nil_append] at tail
          rw [tail]
          rfl

/-! ### Release -/

theorem releaseIndexWrite_unconfigured {s : State} {k : NoticeRingId} (released : s.control.resetAsserted = false)
    (config : s.notices[k].config = none) : exec (.releaseIndexWrite k 0) s = .next s := by
  have accepted : s.notices[k].acceptsRelease (0 : BitVec 32).toNat = true := by
    rw [acceptsRelease_iff, config]
    rfl
  show Host.Outcome.next _ = _
  rw [hostWrite_open _ released, writeRelease, if_pos accepted, config]
  rfl

/-- A ring after a release that frees `d` places. -/
theorem release_eq {x : NoticeRing} {c : NoticeConfig} {r d : Nat} (config : x.config = some c)
    (freed : d = (r + c.size - x.releaseIndex) % c.size) :
    x.release r =
      { x with
        releaseIndex := r, occupied := x.occupied - d, written := x.written.drop d
        queue := markReleased (d - x.written.length) x.queue } := by
  have : x.freedBy r = d := by
    rw [NoticeRing.freedBy, NoticeRing.size, config, freed]
    rfl
  rw [NoticeRing.release, this]

theorem releaseIndexWrite_valid {s : State} {k : NoticeRingId} {c : NoticeConfig} {v : BitVec 32}
    (released : s.control.resetAsserted = false) (config : s.notices[k].config = some c) (inside : v.toNat < c.size)
    (few : (v.toNat + c.size - s.notices[k].releaseIndex) % c.size ≤ s.notices[k].occupied) :
    exec (.releaseIndexWrite k v) s =
      .next (settle (evalReady k (serve k (setNotice k (s.notices[k].release v.toNat) s)))) := by
  have accepted : s.notices[k].acceptsRelease v.toNat = true := by
    rw [acceptsRelease_iff, config]
    exact ⟨inside, few⟩
  show Host.Outcome.next _ = _
  rw [hostWrite_open _ released, writeRelease, if_pos accepted, config, Option.isSome_some, if_pos rfl]

/-- Ready after a release: by the records left unreleased (R135). -/
theorem ready_after_serve {s : State} {k : NoticeRingId} {x : NoticeRing} {c : NoticeConfig} (config : x.config = some c) :
    (serve k (setNotice k x s)).notices[k].isReady (serve k (setNotice k x s)).time = true ↔
      ∃ o, x.written.head? = some o ∧
        (c.threshold ≤ x.written.length ∨ min (o.toNat + c.holdoff) (2 ^ 64 - 1) ≤ s.time.timebase.toNat) := by
  obtain ⟨own, written⟩ := serve_own k (setNotice k x s)
  rw [setNotice_get, if_pos rfl] at own written
  rw [isReady_iff (own.trans config), written, (serve_frame _ _).2.2.2.1]
  rfl

/-! ### The holdoff -/

theorem holdoffExpiry_due {s : State} {k : NoticeRingId} {c : NoticeConfig} {o : Tick} {l : List Tick}
    (config : s.notices[k].config = some c) (written : s.notices[k].written = o :: l)
    (due : min (o.toNat + c.holdoff) (2 ^ 64 - 1) ≤ s.time.timebase.toNat) :
    exec (.holdoffExpiry k) s = .next (setNotice k { s.notices[k] with ready := true } s) := by
  show execHoldoffExpiry k s = _
  rw [execHoldoffExpiry]
  split
  · rename_i ready
    have same : { s.notices[k] with ready := true } = s.notices[k] := by rw [← ready]
    rw [same, setNotice_self]
  · have ready : s.notices[k].isReady s.time = true :=
      (isReady_iff config _).mpr ⟨o, by rw [written]; rfl, .inr due⟩
    rw [evalReady, ready]

/-- Settles O42: the release, the service of the freed places place by place, and the holdoff. -/
theorem releaseAndHoldoff : Obligations.ReleaseAndHoldoff := by
  refine ⟨fun k v s released => ⟨?_, fun c d config inside freed few => ?_⟩, ?_,
    fun k s c o l config written due => holdoffExpiry_due config written due⟩
  · rintro config rfl
    exact releaseIndexWrite_unconfigured released config
  · have after := release_eq config freed
    refine ⟨_, s.notices[k].release v.toNat, _, _, releaseIndexWrite_valid released config inside (freed ▸ few), rfl,
      settle_arbiterOnly _, ?_, ?_, ?_, ?_, ?_⟩
    · rw [after]
    · rw [after]
      exact markReleased_map _ _
    · intro all
      rw [after, Nat.sub_eq_zero_of_le all, markReleased_zero]
    · intro a b queue done queued
      rw [after]
      show markReleased _ s.notices[k].queue = _
      rw [queue, markReleased_append _ a b done queued]
    · have config' : (s.notices[k].release v.toNat).config = some c := by
        rw [after]
        exact config
      rw [ready_after_serve config', after, List.length_drop]
  · rintro k s x rfl
    refine ⟨?_, fun active room => ⟨?_, ?_, ?_, ?_⟩⟩
    · rintro (idle | full | ⟨deferred, requests⟩)
      · exact serve_of_full (.inl idle)
      · exact serve_of_full (.inr full)
      · exact serve_of_nothing deferred requests
    · intro i p l e deferred loaded
      rw [serve_deferred active room deferred, postDeferred_slot p _ loaded]
    · intro c l h deferred held
      rw [serve_deferred active room deferred, postDeferred_line _ held]
    · intro n lost l deferred
      have kept : (setNotice k { s.notices[k] with deferred := l } s).notices[(1 : NoticeRingId)].lostRecords =
          s.notices[(1 : NoticeRingId)].lostRecords := by
        rw [setNotice_get]
        split
        · rename_i one
          subst one
          rfl
        · rfl
      exact (serve_deferred active room deferred).trans (congrArg (serve k) (postDeferred_system n lost _ kept))
    · intro r l deferred requests
      rw [serve_request active room deferred requests]
      rfl

end Sys2Proof.Machine
end

section
/-! The reset of a command ring (R123, R156, R170). -/

namespace Sys2Proof.Machine

open Sys2Proof

/-- `s` with ring `r`, bound to notice ring `k`, afresh and off the request list (R156 steps 1 to 3, 6 and 7). -/
def ringCleared (k : NoticeRingId) (r : CommandRingId) (s : State) : State :=
  setNotice k { s.notices[k] with requests := s.notices[k].requests.filter fun q => q ≠ r }
    (setRing r (s.intake.rings[r].fresh s.intake.rings[r].config) s)

theorem clearRing_eq (k : NoticeRingId) (r : CommandRingId) (s : State) :
    clearRing k r s = if r = s.intake.turn then endTurn (ringCleared k r s) else ringCleared k r s := rfl

theorem ringCleared_notice (k : NoticeRingId) (r : CommandRingId) (s : State) :
    (ringCleared k r s).notices[k] =
      { s.notices[k] with requests := s.notices[k].requests.filter fun q => q ≠ r } :=
  (setNotice_get k k _ _).trans (if_pos rfl)

theorem ringCleared_ring (k : NoticeRingId) (r : CommandRingId) (s : State) :
    (ringCleared k r s).intake.rings[r] = s.intake.rings[r].fresh s.intake.rings[r].config :=
  (setRing_get r r _ s).trans (if_pos rfl)

theorem returnReservations_endTurn (k : NoticeRingId) (n : Nat) (s : State) :
    returnReservations k n (endTurn s) = endTurn (returnReservations k n s) := by
  rw [returnReservations, setNotice_endTurn, serve_endTurn, returnReservations]
  rfl

theorem returnReservations_ringCleared (k : NoticeRingId) (r : CommandRingId) (n : Nat) (s : State) :
    returnReservations k n (ringCleared k r s) =
      serve k
        (setNotice k
          { s.notices[k] with
            reserved := s.notices[k].reserved - n, requests := s.notices[k].requests.filter fun q => q ≠ r }
          (setRing r (s.intake.rings[r].fresh s.intake.rings[r].config) s)) := by
  rw [returnReservations, ringCleared_notice, ringCleared, setNotice_setNotice]

/-- A ring that is cleared stays idle while the places it frees are served. -/
theorem returnReservations_ringCleared_idle (k : NoticeRingId) (r : CommandRingId) (n : Nat) (s : State) :
    (returnReservations k n (ringCleared k r s)).intake.rings[r].eligible = false := by
  have unlisted : r ∉ (setNotice k
      { (ringCleared k r s).notices[k] with reserved := (ringCleared k r s).notices[k].reserved - n }
      (ringCleared k r s)).notices[k].requests := by
    rw [setNotice_get, if_pos rfl, ringCleared_notice]
    simp
  rw [returnReservations, serve_ring unlisted, (setNotice_frame _ _ _).2.1, ringCleared_ring]
  exact fresh_not_eligible _ _

theorem commandRingReset_ignored {s : State} (r : CommandRingId) (released : s.control.resetAsserted = false)
    (outside : s.control.core ≠ .running) : exec (.commandRingReset r) s = .next s := by
  show Host.Outcome.next _ = _
  rw [hostWrite_open _ released, whileRunning, if_neg outside]

/-- The reset while RUNNING, but for the mark of the turn, which the arbiter sets itself (R143, R156). -/
theorem commandRingReset_running {s : State} {r : CommandRingId} {k : NoticeRingId}
    (released : s.control.resetAsserted = false) (running : s.control.core = .running)
    (bound : s.intake.rings[r].bound? = some k) :
    exec (.commandRingReset r) s =
      .next (settle (returnReservations k s.intake.rings[r].reservations (ringCleared k r s))) := by
  show Host.Outcome.next _ = _
  rw [hostWrite_open _ released, whileRunning, if_pos running, resetCommandRing, bound]
  simp only [Bool.false_eq_true, if_false]
  rw [clearRing_eq]
  split
  · rename_i turn
    have same : r = (returnReservations k s.intake.rings[r].reservations (ringCleared k r s)).intake.turn := by
      rw [returnReservations, serve_turn]
      exact turn
    rw [returnReservations_endTurn, settle_endTurn same (returnReservations_ringCleared_idle k r _ s)]
  · rfl

theorem reservations_eq (x : CommandRing) :
    x.reservations = (if x.fetchReservation then 1 else 0) + (if x.fetch.map Fetch.discarded = some false then 1 else 0) +
      x.outstanding.length := by
  rw [CommandRing.reservations]
  cases x.fetch with
  | none => rfl
  | some f => cases hd : f.discarded <;> simp [hd]

/-- Settles O48: the ring afresh, its reservations returned and the freed places served. -/
theorem commandRingResetClearsTheRing : Obligations.CommandRingResetClearsTheRing := by
  refine fun r s released => ⟨commandRingReset_ignored r released, ?_⟩
  rintro c n u running config hn hu
  have bound : s.intake.rings[r].bound? = some c.bound := by rw [CommandRing.bound?, config]; rfl
  rw [← reservations_eq] at hn
  have reset := commandRingReset_running released running bound
  have fresh := commandRing_fresh_eq c s.intake.rings[r]
  rw [returnReservations_ringCleared, ← hn, config, fresh] at reset
  replace hu : u = setNotice c.bound
      { s.notices[c.bound] with
        reserved := s.notices[c.bound].reserved - n
        requests := s.notices[c.bound].requests.filter fun q => q ≠ r } _ := hu
  replace reset : exec (.commandRingReset r) s = .next (settle (serve c.bound u)) := by
    rw [hu]
    exact reset
  refine ⟨_, reset, settle_arbiterOnly _, fun deferred requests => ?_⟩
  have own := congrArg (fun z : State => z.notices[c.bound]) hu
  simp only [setNotice_get, if_true] at own
  rw [serve_of_nothing]
  · exact settle_arbiterOnly _
  · rw [own]
    exact deferred
  · rw [own]
    simpa using requests

end Sys2Proof.Machine
end

section
/-! The bus error of a fetch (R123, R129, R147). -/

namespace Sys2Proof.Machine

open Sys2Proof

/-- `s` with the fetch of ring `r` over and the ring FAULTED, its reservation returned to notice ring `k` and the places
there served (R123, R147). -/
def fetchFaulted (k : NoticeRingId) (r : CommandRingId) (s : State) : State :=
  returnReservations k 1 (setRing r { s.intake.rings[r] with fetch := none, state := .faulted } s)

/-- NR0 after a system offer (R129). -/
def NoticeRing.systemOffered (n : SystemNotice) (x : NoticeRing) : NoticeRing :=
  if x.takesOffer then x.takePlace (.system n 0) else { x with deferred := deferSystem n x.deferred }

theorem faultFetch_running {s : State} {r : CommandRingId} {k : NoticeRingId} (running : s.control.core = .running)
    (bound : s.intake.rings[r].bound? = some k) :
    faultFetch r s =
      setNotice 0
        ((fetchFaulted k r s).notices[(0 : NoticeRingId)].systemOffered
          { body := .commandFault r, tick := s.time.timebase })
        (setFault (fetchFaulted k r s)) := by
  have time : (setFault (fetchFaulted k r s)).time = s.time := by simp [fetchFaulted]
  have core : (setFault (fetchFaulted k r s)).control.core = .running := by
    simpa [fetchFaulted, setFault] using running
  have offered := offerSystem_running (b := .commandFault r) core rfl
  rw [faultFetch, bound]
  show offerSystem (.commandFault r) (setFault (fetchFaulted k r s)) = _
  rw [offered, time]
  rfl

theorem fetchFaulted_eq (k : NoticeRingId) (r : CommandRingId) (s : State) :
    fetchFaulted k r s =
      serve k
        (setNotice k { s.notices[k] with reserved := s.notices[k].reserved - 1 }
          (setRing r { s.intake.rings[r] with fetch := none, state := .faulted } s)) := rfl

theorem fetchFaulted_blocks (k : NoticeRingId) (r : CommandRingId) (s : State) :
    fetchFaulted k r s =
      { s with intake := (fetchFaulted k r s).intake, notices := (fetchFaulted k r s).notices
               slots := (fetchFaulted k r s).slots, capture := (fetchFaulted k r s).capture } := by
  conv_lhs => rw [fetchFaulted_eq, serve_blocks]
  rfl

theorem fetchFaulted_ring {k : NoticeRingId} {r : CommandRingId} {s : State} (unlisted : r ∉ s.notices[k].requests) :
    (fetchFaulted k r s).intake.rings[r] = { s.intake.rings[r] with fetch := none, state := .faulted } := by
  rw [fetchFaulted_eq, serve_ring]
  · exact (setRing_get r r _ s).trans (if_pos rfl)
  · rw [setNotice_get, if_pos rfl]
    exact unlisted

/-- Where nothing waits on the notice ring the reservation goes back and no more. -/
theorem fetchFaulted_quiet {k : NoticeRingId} {r : CommandRingId} {s : State} (deferred : s.notices[k].deferred = [])
    (requests : s.notices[k].requests = []) :
    fetchFaulted k r s =
      setNotice k { s.notices[k] with reserved := s.notices[k].reserved - 1 }
        (setRing r { s.intake.rings[r] with fetch := none, state := .faulted } s) := by
  rw [fetchFaulted_eq, serve_of_nothing]
  · rw [setNotice_get, if_pos rfl]
    exact deferred
  · rw [setNotice_get, if_pos rfl]
    exact requests

theorem faulted_not_eligible (x : CommandRing) : CommandRing.eligible { x with fetch := none, state := .faulted } = false := by
  simp [CommandRing.eligible]

theorem settle_ring_of_not_eligible {s : State} {r : CommandRingId} (idle : s.intake.rings[r].eligible = false) :
    (settle s).intake.rings[r] = s.intake.rings[r] :=
  ((settle_cases s).rings r).elim id fun h => by rw [idle] at h; exact absurd h.1 Bool.false_ne_true

/-- The end of a fetch with a bus error, whole. -/
theorem fetchEnd_busError {s : State} {r : CommandRingId} {k : NoticeRingId} (pins : BitVec 8) (fetching : Fetching s r k)
    (running : s.control.core = .running) (unlisted : r ∉ s.notices[k].requests) :
    exec (.fetchEnd .busError pins) s =
      .next (settle
        (setNotice 0
          ((fetchFaulted k r s).notices[(0 : NoticeRingId)].systemOffered
            { body := .commandFault r, tick := s.time.timebase })
          (setFault (fetchFaulted k r s)))) := by
  have state : (setNotice 0
      ((fetchFaulted k r s).notices[(0 : NoticeRingId)].systemOffered
        { body := .commandFault r, tick := s.time.timebase })
      (setFault (fetchFaulted k r s))).intake.rings[r].state = .faulted := by
    show (fetchFaulted k r s).intake.rings[r].state = _
    rw [fetchFaulted_ring unlisted]
  show Host.Outcome.next (endFetch faultFetch s) = _
  rw [endFetch_live fetching, faultFetch_running running fetching.bound, stallIfFaulted, state, if_neg (by decide)]

/-- Beside the rings and what the served notices carry, FAULT alone is set (R147, R172). -/
theorem settle_faultFetch_blocks (k : NoticeRingId) (r : CommandRingId) (x : NoticeRing) (s t : State)
    (ht : t = settle (setNotice 0 x (setFault (fetchFaulted k r s)))) :
    t = { s with control := { s.control with fault := true }, intake := t.intake, notices := t.notices
                 slots := t.slots, capture := t.capture } := by
  obtain ⟨i, n, kept⟩ : ∃ i n, t = { setNotice 0 x (setFault (fetchFaulted k r s)) with intake := i, notices := n } :=
    ⟨_, _, by rw [ht]; exact (settle_arbiterOnly _).blocks⟩
  obtain ⟨j, m, slots, capture, served⟩ : ∃ i n slots capture, fetchFaulted k r s =
      { s with intake := i, notices := n, slots := slots, capture := capture } := ⟨_, _, _, _, fetchFaulted_blocks k r s⟩
  rw [kept, served]
  rfl

/-- Settles O11: the ring FAULTED, its reservation returned, the notice offered, then the arbiter's choice. -/
theorem fetchErrorFaultsTheRing : Obligations.FetchErrorFaultsTheRing := by
  rintro pins s r k x y u n fetching running unlisted rfl rfl hu hn
  rw [← fetchFaulted_eq] at hu
  have ends := fetchEnd_busError pins fetching running unlisted
  rw [← hu, ← hn] at ends
  have own : u.intake.rings[r] = { s.intake.rings[r] with fetch := none, state := .faulted } := by
    rw [hu, fetchFaulted_ring unlisted]
  refine ⟨_, ends, settle_arbiterOnly _, settle_faultFetch_blocks k r _ s _ (by rw [hu]), ?_, ?_⟩
  · rw [settle_ring_of_not_eligible]
    · exact own
    · show u.intake.rings[r].eligible = false
      rw [own]
      exact faulted_not_eligible _
  · intro deferred requests active room nothing others
    rw [fetchFaulted_quiet deferred requests] at hu
    have ring : ∀ q : CommandRingId, q ≠ r → u.intake.rings[q] = s.intake.rings[q] := fun q hq => by
      rw [hu, (setNotice_frame _ _ _).2.1, setRing_get, if_neg hq]
    have idle : ∀ q : CommandRingId, u.intake.rings[q].eligible = false := fun q => by
      by_cases hq : q = r
      · rw [hq, own]
        exact faulted_not_eligible _
      · rw [ring q hq]
        exact others q hq
    have notice : ∀ j : NoticeRingId, u.notices[j] =
        if j = k then { s.notices[k] with reserved := s.notices[k].reserved - 1 } else s.notices[j] := fun j => by
      rw [hu, setNotice_get]
      rfl
    have takes : u.notices[(0 : NoticeRingId)].takesOffer = true := by
      rw [takesOffer_iff, notice]
      split
      · rename_i zero
        subst zero
        exact ⟨active, Nat.lt_of_le_of_lt (Nat.add_le_add_left (Nat.sub_le _ 1) _) room, nothing⟩
      · exact ⟨active, room, nothing⟩
    have settled := settle_of_none_eligible
      (s := setNotice 0 (u.notices[(0 : NoticeRingId)].systemOffered n) (setFault u)) idle
    rw [settled]
    refine ⟨?_, ?_, fun q hq => ?_, fun j => ?_⟩
    · rw [(noteTurn_frame _).2.1, hu]
      rfl
    · rw [(noteTurn_frame _).2.2.2.2.2.2.1, hu]
      rfl
    · rw [noteTurn_rings]
      exact ring q hq
    · rw [(noteTurn_frame _).2.2.2.2.2.2.2.1, setNotice_get, NoticeRing.systemOffered, if_pos takes]
      split
      · rename_i zero
        subst zero
        rw [notice]
        simp only [eq_comm]
      · exact notice j

end Sys2Proof.Machine
end

section
/-! The fields of a command record (R174, R175, Tables 10-2 to 10-6). -/

namespace Sys2Proof.Machine

open Sys2Proof

theorem extract_toNat {w : Nat} (p : BitVec w) (i n : Nat) : (p.extractLsb' i n).toNat = p.toNat / 2 ^ i % 2 ^ n := by
  rw [BitVec.extractLsb'_toNat, Nat.shiftRight_eq_div_pow]

theorem actionWordAt_stands (x : CommandRecord) (o : Nat) : wordStandsAt x o (actionWordAt x o) :=
  ⟨fieldAt_byte x o, fieldAt_byte x _, fieldAt_byte x _, fieldAt_byte x _, fieldAt_word x _⟩

theorem loadFieldsOf_words (x : CommandRecord) (i : Fin 4) : wordStandsAt x (0x20 + 8 * i.val) (loadFieldsOf x).words[i] := by
  match i with
  | 0 => exact actionWordAt_stands x _
  | 1 => exact actionWordAt_stands x _
  | 2 => exact actionWordAt_stands x _
  | 3 => exact actionWordAt_stands x _

/-- The bit fields of the word at 06h of a LOAD (Table 10-5). -/
theorem loadFieldsOf_bits (x : CommandRecord) (i n : Nat) :
    ((fieldAt x 6 16 : BitVec 16).extractLsb' i n).toNat = recordField x 6 2 / 2 ^ i % 2 ^ n := by
  rw [extract_toNat, fieldAt_half]

theorem retimeValue_map (x : CommandRecord) (bit o : Nat) :
    (retimeValue x bit o).map BitVec.toNat =
      if recordField x 1 1 / 2 ^ bit % 2 = 1 then some (recordField x o 8) else none := by
  rw [retimeValue, ← BitVec.testBit_toNat, fieldAt_byte, Nat.testBit_eq_decide_div_mod_eq, apply_ite (Option.map BitVec.toNat)]
  simp only [decide_eq_true_eq, Option.map_some, Option.map_none, fieldAt_double]

theorem headerOf_fields (x : CommandRecord) :
    (headerOf x).ident.toNat = recordField x 0x02 2 ∧ (headerOf x).slot.val = recordField x 0x04 1 ∧
      (headerOf x).generation.toNat = recordField x 0x05 1 :=
  ⟨fieldAt_half x 2, fieldAt_byte x 4, fieldAt_byte x 5⟩

theorem commandOf_none_iff (x : CommandRecord) (pins : BitVec 8) :
    commandOf x pins = none ↔ recordField x 0 1 = 0 ∨ 16 ≤ recordField x 0 1 := by
  rw [commandOf, fieldAt_byte]
  generalize recordField x 0 1 = kind
  split
  case h_16 =>
    simp only [imp_false] at *
    simp only [true_iff]
    omega
  all_goals simp

/-! ### The command that a record carries -/

theorem fetchEnd_carries {record : CommandRecord} {pins : BitVec 8} {m : Command} (reads : commandOf record pins = some m)
    (s : State) : exec (.fetchEnd (.good record) pins) s = .next (commandFetched (headerOf record) m s) :=
  exec_carried (c := .fetchEnd (.good record) pins) (congrArg (Option.map fun m => (headerOf record, m)) reads) s

theorem nextTake_configured {x : CommandRing} {c : CommandConfig} (config : x.config = some c) (inside : x.take < c.size) :
    x.nextTake = (x.take + 1) % c.size := by
  rw [CommandRing.nextTake, config]
  show (if x.take + 1 < c.size then _ else _) = _
  split
  · rename_i more
    rw [Nat.mod_eq_of_lt more]
  · have wraps : x.take + 1 = c.size := by omega
    rw [wraps, Nat.mod_self]

/-- A record of an unknown kind completes BAD_COMMAND (R149). -/
theorem fetchEnd_unknown {record : CommandRecord} {pins : BitVec 8} {s : State} {r : CommandRingId} {k : NoticeRingId}
    (fetching : Fetching s r k) (reads : commandOf record pins = none) :
    ∃ t, exec (.fetchEnd (.good record) pins) s = .next t ∧
      Answered s s t r k (completionOf s r (headerOf record) .badCommand .zero) := by
  obtain ⟨t, ends, answered⟩ := endFetch_answered (h := headerOf record) (m := none) (u := advanceTake r s) fetching rfl rfl
    (by rw [advanceTake_eq])
  refine ⟨t, ?_, answered.congr ?_⟩
  · show Host.Outcome.next (endFetch (takeFetched (headerOf record) (commandOf record pins)) s) = _
    rw [reads, ends]
  · conv_lhs => rw [advanceTake_eq]
    rw [advanceTake_eq]

/-! ### Fetches that are discarded -/

theorem setRing_setRing (r : CommandRingId) (x y : CommandRing) (s : State) :
    setRing r y (setRing r x s) = setRing r y s :=
  congrArg (fun v => { s with intake := { s.intake with rings := v } }) (Vector.set_set ..)

theorem servedState_stalls (x : CommandRing) (s : State) :
    servedState x s = if ∃ k, x.bound? = some k ∧ s.notices[k].state = .faulted then .stalled else .active := by
  rw [servedState]
  cases x.bound? with
  | none => simp
  | some k => simp

/-- The end of a discarded fetch, whatever it brings: the fetch is over, and an ACTIVE ring whose notice ring is FAULTED
is STALLED (R148, log entry 32). -/
theorem endFetch_discarded {s : State} {r : CommandRingId} {f : Fetch} (g : CommandRingId → State → State)
    (path : s.fetchingRing = some r) (fetch : s.intake.rings[r].fetch = some f) (discarded : f.discarded = true) :
    endFetch g s =
      settle
        (setRing r
          { s.intake.rings[r] with
            fetch := none
            state :=
              if s.intake.rings[r].state = .active ∧ ∃ k, s.intake.rings[r].bound? = some k ∧ s.notices[k].state = .faulted
              then .stalled else s.intake.rings[r].state } s) := by
  have gone : s.intake.rings[r].fetch.elim false Fetch.discarded = true := by rw [fetch]; exact discarded
  have dropped : (dropFetch r s).intake.rings[r] = { s.intake.rings[r] with fetch := none } :=
    (setRing_get r r _ s).trans (if_pos rfl)
  simp only [endFetch, path, gone, if_true]
  refine congrArg settle ?_
  rw [stallIfFaulted, dropped]
  by_cases active : s.intake.rings[r].state = .active
  · rw [if_pos active, servedState_stalls, dropFetch, setRing_setRing]
    simp only [active, true_and]
    rfl
  · rw [if_neg active, if_neg fun h => active h.1]
    rfl

/-- Settles O10: the record read field by field, and the end of a fetch that brings no command. -/
theorem endOfAFetch : Obligations.EndOfAFetch := by
  refine ⟨fun record pins s => ⟨fun m reads => ?_, fun r k fetching unknown => ?_⟩,
    fun x pins => ⟨headerOf_fields x, commandOf_none_iff x pins, fun m reads => ?_⟩, ?_⟩
  · rw [fetchEnd_carries reads]
    cases m <;> rfl
  · have reads : commandOf record pins = none := by
      rw [commandOf_none_iff, ← fieldAt_byte]
      exact unknown.imp_left (congrArg BitVec.toNat)
    obtain ⟨t, ends, answered⟩ := fetchEnd_unknown fetching reads
    exact ⟨t, ends, answered, fun c config inside => nextTake_configured config inside⟩
  · rw [commandOf, fieldAt_byte] at reads
    split at reads
    case h_1 kind =>
      cases reads
      exact ⟨kind, (loadFieldsOf_bits x 0 2).trans (by rw [Nat.pow_zero, Nat.div_one]; rfl), loadFieldsOf_bits x 2 2,
        loadFieldsOf_bits x 4 1, loadFieldsOf_bits x 5 3, loadFieldsOf_bits x 8 2,
        loadFieldsOf_bits x 10 1, loadFieldsOf_bits x 11 3,
        fieldAt_double x 0x08, fieldAt_double x 0x10, fieldAt_toNat x 0x18 6, fieldAt_half x 0x1E, loadFieldsOf_words x⟩
    case h_4 kind =>
      cases reads
      exact ⟨kind, (retimeValue_map x 0 0x08).trans (by rw [Nat.pow_zero, Nat.div_one]), retimeValue_map x 1 0x10,
        retimeValue_map x 2 0x18⟩
    case h_7 kind => cases reads; exact ⟨kind, fieldAt_double x 0x08⟩
    case h_10 kind =>
      cases reads
      exact ⟨kind, fieldAt_half x 0x08, fieldAt_byte x 0x0A, fieldAt_byte x 0x0B, fieldAt_byte x 0x0C, fieldAt_byte x 0x0D,
        fieldAt_byte x 0x0E⟩
    case h_11 kind => cases reads; exact ⟨kind, fieldAt_double x 0x08⟩
    case h_12 kind => cases reads; exact ⟨kind, fieldAt_word x 0x08⟩
    case h_13 kind =>
      cases reads
      exact ⟨kind, fieldAt_byte x 0x08, fieldAt_byte x 0x09, fieldAt_byte x 0x0A, fieldAt_byte x 0x0B⟩
    case h_14 kind => cases reads; exact ⟨kind, actionWordAt_stands x 0x08⟩
    case h_15 kind =>
      cases reads
      exact ⟨kind, fieldAt_byte x 0x08, fieldAt_byte x 0x09, fieldAt_byte x 0x0A, fieldAt_byte x 0x0B, fieldAt_byte x 0x0C,
        fieldAt_half x 0x0E, by rw [levelOfBool, fieldAt_byte]⟩
    case h_16 => cases reads
    all_goals
      rename_i kind
      cases reads
      exact kind
  · intro c s r f row path fetch discarded
    obtain ⟨g, ends⟩ : ∃ g, exec c s = .next (endFetch g s) := by
      rcases row with ⟨h, d, rfl⟩ | ⟨h, rfl | rfl | rfl | rfl | rfl | rfl⟩ | ⟨h, f, rfl⟩ | ⟨h, n, rfl⟩ | ⟨h, v, rfl⟩ |
        ⟨h, d, rfl⟩ | ⟨h, f, rfl⟩ | ⟨h, f, rfl⟩ | ⟨h, w, rfl⟩ | ⟨h, f, v, rfl⟩ | ⟨e, p, rfl⟩
      rotate_right
      · cases e <;> exact ⟨_, rfl⟩
      all_goals exact ⟨_, rfl⟩
    refine ⟨_, ends, ?_⟩
    rw [endFetch_discarded g path fetch discarded]
    exact settle_arbiterOnly _

end Sys2Proof.Machine
end

section
/-! What a taken command leaves of the intake (R143, R146). -/

namespace Sys2Proof.Machine

open Sys2Proof

theorem stallIfFaulted_serviced (r : CommandRingId) (s : State) : Serviced s (stallIfFaulted r s) := by
  unfold stallIfFaulted
  split
  · exact setRing_serviced rfl
  · exact .same rfl rfl

theorem takeFetched_serviced (h : Header) (m : Option Command) (r : CommandRingId) (s : State) :
    Serviced (advanceTake r s) (takeFetched h m r s) := by
  cases m with
  | some m => exact (takeCommand_serviced _ h m _).trans (answerCommand_serviced _ _ _)
  | none => exact answerCommand_serviced _ (.complete .badCommand .zero) _

theorem exec_takes {c : Instr} (takes : (carried c).isSome = true ∨ ∃ record pins, c = .fetchEnd (.good record) pins)
    (s : State) : ∃ h m, exec c s = .next (endFetch (takeFetched h m) s) := by
  obtain known | ⟨record, pins, rfl⟩ := takes
  · obtain ⟨⟨h, m⟩, carries⟩ := Option.isSome_iff_exists.mp known
    exact ⟨h, some m, exec_carried carries s⟩
  · exact ⟨_, _, rfl⟩

/-- The end of a fetch with a good read, before the arbiter's choice: the take index and the count have gone on, and the
command's owner moves no index and no request (R143, R146). -/
theorem exec_takes_intake {c : Instr} {s : State} {r : CommandRingId} {k : NoticeRingId} (fetching : Fetching s r k)
    (takes : (carried c).isSome = true ∨ ∃ record pins, c = .fetchEnd (.good record) pins) :
    ∃ v, exec c s = .next (settle v) ∧
      v.intake =
        { s.intake with
          rings := v.intake.rings, count := if r = s.intake.turn then s.intake.count + 1 else s.intake.count } ∧
      (∀ q : CommandRingId, v.intake.rings[q] =
        { s.intake.rings[q] with
          take := if q = r then s.intake.rings[r].nextTake else s.intake.rings[q].take
          fetch := if q = r then none else s.intake.rings[q].fetch
          state := v.intake.rings[q].state, wait := v.intake.rings[q].wait
          outstanding := v.intake.rings[q].outstanding }) ∧
      ∀ j : NoticeRingId, FedNotice s.notices[j] v.notices[j] ∧ v.notices[j].requests = s.notices[j].requests := by
  obtain ⟨h, m, ends⟩ := exec_takes takes s
  have served := (takeFetched_serviced h m r s).trans (stallIfFaulted_serviced r _)
  refine ⟨_, by rw [ends, endFetch_live fetching], ?_, fun q => ?_, fun j => ?_⟩
  · rw [served.intake, advanceTake_intake]
  · rw [served.ring q, advanceTake_ring]
    by_cases own : q = r
    · subst own
      simp only [if_true]
    · simp only [if_neg own]
  · have notices : (advanceTake r s).notices = s.notices := by rw [advanceTake_eq]
    rw [← notices]
    exact served.notice j

end Sys2Proof.Machine
end

section
/-! The choice of the arbiter, whole (R122, R143 to R145). -/

namespace Sys2Proof.Machine

open Sys2Proof

/-! ### Eligible rings -/

theorem pending_iff {n p t : Nat} (post : p < n) (take : t < n) : (p + n - t) % n ≠ 0 ↔ p ≠ t := by
  by_cases below : p < t
  · rw [Nat.mod_eq_of_lt (by omega)]
    omega
  · have : p + n - t = p - t + n := by omega
    rw [this, Nat.add_mod_right, Nat.mod_eq_of_lt (by omega)]
    omega

theorem eligible_iff {x : CommandRing} {c : CommandConfig} (config : x.config = some c) (take : x.take < c.size)
    (post : x.post < c.size) : x.eligible = true ↔ x.state = .active ∧ x.post ≠ x.take := by
  rw [← pending_iff post take]
  simp [CommandRing.eligible, CommandRing.pendingCount, config]

theorem eligible_configured {x : CommandRing} (eligible : x.eligible = true) : ∃ c, x.config = some c := by
  cases config : x.config with
  | none => simp [CommandRing.eligible, CommandRing.pendingCount, config] at eligible
  | some c => exact ⟨c, rfl⟩

theorem noteTurn_eq (s : State) :
    noteTurn s =
      { s with intake := { s.intake with turnOver := s.intake.turnOver || !s.intake.rings[s.intake.turn].eligible } } := by
  rw [noteTurn]
  cases eligible : s.intake.rings[s.intake.turn].eligible with
  | true => rw [if_pos rfl, Bool.not_true, Bool.or_false]
  | false =>
    rw [if_neg Bool.false_ne_true, Bool.not_false, Bool.or_true]
    rfl

/-- With the path busy or no ring eligible the turn is marked, and no more. -/
theorem settle_marks_only {s : State}
    (nothing : s.fetchingRing ≠ none ∨ ∀ q : CommandRingId, s.intake.rings[q].eligible = false) :
    settle s = noteTurn s := by
  obtain busy | idle := nothing
  · have same : (noteTurn s).fetchingRing = s.fetchingRing := by rw [noteTurn_eq]; rfl
    rw [settle_eq, same, if_pos (Option.isSome_iff_ne_none.mpr busy)]
  · exact settle_of_none_eligible idle

theorem fetchingRing_eq_some {s : State} {q : CommandRingId} (fetch : s.intake.rings[q].fetch.isSome = true)
    (alone : ∀ r : CommandRingId, r ≠ q → s.intake.rings[r].fetch = none) : s.fetchingRing = some q := by
  obtain ⟨r, path⟩ : ∃ r, s.fetchingRing = some r := by
    refine Option.ne_none_iff_exists'.mp fun free => ?_
    rw [(fetchingRing_none s).mp free q] at fetch
    cases fetch
  have is := fetchingRing_isSome path
  by_cases other : r = q
  · rw [path, other]
  · rw [alone r other] at is
    cases is

/-! ### The ring chosen -/

/-- The turn ring keeps its turn as far as the mark and the burst go (R143). -/
def State.turnKept (s : State) : Prop :=
  s.intake.turnOver = false ∧ ∃ b, s.intake.rings[s.intake.turn].config = some b ∧ s.intake.count < b.burst

theorem turnGoesOn_iff (s : State) :
    turnGoesOn s = true ↔ s.intake.rings[s.intake.turn].eligible = true ∧ s.turnKept := by
  simp only [turnGoesOn, State.turnKept, Bool.and_eq_true, Bool.not_eq_true', and_assoc]
  refine and_congr_right' (and_congr_right' (decide_eq_true_iff.trans ?_))
  cases s.intake.rings[s.intake.turn].config with
  | none => simp
  | some b => simp

/-- Positions after the turn ring, counted round. -/
theorem position_of (a e : CommandRingId) : a + 1 + e - a - 1 = e := by revert a e; decide

theorem of_position (a q : CommandRingId) : a + 1 + (q - a - 1) = q := by revert a q; decide

theorem find?_of_four {p : CommandRingId → Bool} {f : CommandRingId → CommandRingId} {e : CommandRingId}
    (fits : p (f e) = true) (before : ∀ d : CommandRingId, d.val < e.val → p (f d) = false) :
    [f 0, f 1, f 2, f 3].find? p = some (f e) := by
  match e with
  | 0 => rw [List.find?_cons_of_pos fits]
  | 1 => rw [List.find?_cons_of_neg (by simp [before 0]), List.find?_cons_of_pos fits]
  | 2 =>
    rw [List.find?_cons_of_neg (by simp [before 0]), List.find?_cons_of_neg (by simp [before 1]),
      List.find?_cons_of_pos fits]
  | 3 =>
    rw [List.find?_cons_of_neg (by simp [before 0]), List.find?_cons_of_neg (by simp [before 1]),
      List.find?_cons_of_neg (by simp [before 2]), List.find?_cons_of_pos fits]

theorem nextEligible_eq {s : State} {q : CommandRingId} (eligible : s.intake.rings[q].eligible = true)
    (before : ∀ d : CommandRingId, d.val < (q - s.intake.turn - 1).val →
      s.intake.rings[s.intake.turn + 1 + d].eligible = false) : nextEligible s = some q := by
  have rounds : nextEligible s =
      [s.intake.turn + 1 + 0, s.intake.turn + 1 + 1, s.intake.turn + 1 + 2, s.intake.turn + 1 + 3].find? fun r =>
        s.intake.rings[r].eligible := by
    simp only [nextEligible, add_assoc, add_zero]
    rfl
  have place := of_position s.intake.turn q
  rw [rounds, find?_of_four (f := fun d => s.intake.turn + 1 + d) (e := q - s.intake.turn - 1) ?_ before, place]
  simp only [place]
  exact eligible

end Sys2Proof.Machine
end

section
/-! The choice of the arbiter, ring by ring (R122, R143 to R145). -/

namespace Sys2Proof.Machine

open Sys2Proof

/-! ### The ring chosen -/

/-- The choice of R143 falls on ring `q`; `u` is `s` with the turn passed to it where it was passed. -/
def State.Chosen (s : State) (q : CommandRingId) (u : State) : Prop :=
  (q = s.intake.turn ∧ s.turnKept ∧ u = s) ∨
    (¬(s.intake.rings[s.intake.turn].eligible = true ∧ s.turnKept) ∧
      (∀ d : CommandRingId, d.val < (q - s.intake.turn - 1).val →
        s.intake.rings[s.intake.turn + 1 + d].eligible = false) ∧
      u = passTurn q s)

/-- The first ring after `a` in ring order of which `P` holds. -/
theorem first_after (a : CommandRingId) {P : CommandRingId → Prop} (some : ∃ r, P r) :
    ∃ q, P q ∧ ∀ d : CommandRingId, d.val < (q - a - 1).val → ¬P (a + 1 + d) := by
  obtain ⟨r, hr⟩ := some
  have any : {d : CommandRingId | P (a + 1 + d)}.Nonempty := ⟨r - a - 1, by
    show P _
    rw [of_position]
    exact hr⟩
  obtain ⟨e, he, least⟩ := WellFounded.has_min (measure Fin.val).wf _ any
  refine ⟨a + 1 + e, he, fun d hd h => least d h ?_⟩
  rw [position_of] at hd
  exact hd

theorem exists_chosen {s : State} (some : ∃ r : CommandRingId, s.intake.rings[r].eligible = true) :
    ∃ q u, s.intake.rings[q].eligible = true ∧ s.Chosen q u := by
  by_cases kept : s.intake.rings[s.intake.turn].eligible = true ∧ s.turnKept
  · exact ⟨_, s, kept.1, .inl ⟨rfl, kept.2, rfl⟩⟩
  · obtain ⟨q, eligible, before⟩ := first_after s.intake.turn some
    exact ⟨q, _, eligible, .inr ⟨kept, fun d hd => Bool.eq_false_iff.mpr (before d hd), rfl⟩⟩

theorem choice_noteTurn {s u : State} {q : CommandRingId} (eligible : s.intake.rings[q].eligible = true)
    (chosen : s.Chosen q u) : choice (noteTurn s) = some (q, u) := by
  obtain ⟨rfl, kept, rfl⟩ | ⟨given, before, rfl⟩ := chosen
  · have noted : noteTurn u = u := if_pos eligible
    rw [noted, choice, if_pos ((turnGoesOn_iff u).mpr ⟨eligible, kept⟩)]
  · have stops : turnGoesOn (noteTurn s) = false := by
      rw [← Bool.not_eq_true, turnGoesOn_iff]
      by_cases turn : s.intake.rings[s.intake.turn].eligible = true
      · rw [noteTurn, if_pos turn]
        exact given
      · rw [noteTurn, if_neg turn]
        exact fun h => turn h.1
    have next : nextEligible (noteTurn s) = some q := by
      rw [noteTurn_eq]
      exact nextEligible_eq eligible before
    rw [choice, stops, if_neg Bool.false_ne_true, next, noteTurn_eq]
    rfl

theorem State.Chosen.frame {s u : State} {q : CommandRingId} (chosen : s.Chosen q u) :
    u.intake.rings = s.intake.rings ∧ u.notices = s.notices ∧ u.intake.turn = q := by
  obtain ⟨rfl, -, rfl⟩ | ⟨-, -, rfl⟩ := chosen <;> exact ⟨rfl, rfl, rfl⟩

/-- A request finds notice ring `x` ACTIVE with room and both lists empty (R122). -/
def NoticeRing.grants (x : NoticeRing) : Prop :=
  x.state = .active ∧ x.occupied + x.reserved < x.size ∧ x.deferred = [] ∧ x.requests = []

theorem grantsAtOnce_iff (x : NoticeRing) : x.grantsAtOnce = true ↔ x.grants := by
  rw [NoticeRing.grantsAtOnce, Bool.and_eq_true, takesOffer_iff, List.isEmpty_iff, and_assoc, and_assoc]
  rfl

/-- The choice whole, for the ring that it falls on (R122, R143 to R145). -/
theorem settle_chosen {s u : State} {q : CommandRingId} {c : CommandConfig} (free : s.fetchingRing = none)
    (eligible : s.intake.rings[q].eligible = true) (config : s.intake.rings[q].config = some c) (chosen : s.Chosen q u) :
    settle s =
      if s.intake.rings[q].fetchReservation = true then beginFetch q u
      else if s.notices[c.bound].grantsAtOnce then fetchWithGrant c.bound q u
      else settle (stallOnRequest c.bound q u) := by
  have path : (noteTurn s).fetchingRing.isSome = false := by
    rw [noteTurn_eq]
    exact Option.isSome_eq_false_iff.mpr (Option.isNone_iff_eq_none.mpr free)
  have bound : s.intake.rings[q].bound? = some c.bound := by rw [CommandRing.bound?, config]; rfl
  obtain ⟨rings, notices, -⟩ := chosen.frame
  rw [settle_eq, path, if_neg Bool.false_ne_true, choice_noteTurn eligible chosen]
  simp only [rings, notices, bound]

/-! ### Rings that the choice can serve -/

/-- Ring `r` is eligible and has a reservation, or is granted one at once (R144, R145). -/
def State.serves (s : State) (r : CommandRingId) : Prop :=
  s.intake.rings[r].eligible = true ∧
    (s.intake.rings[r].fetchReservation = true ∨
      ∃ c, s.intake.rings[r].config = some c ∧ s.notices[c.bound].grants)

theorem beginFetch_fetching {s u : State} {q : CommandRingId} (free : s.fetchingRing = none)
    (rings : u.intake.rings = s.intake.rings) : (beginFetch q u).fetchingRing = some q := by
  refine fetchingRing_eq_some ?_ fun r other => ?_
  · rw [beginFetch, setRing_get, if_pos rfl]
    rfl
  · rw [beginFetch, setRing_get, if_neg other, rings]
    exact (fetchingRing_none s).mp free r

/-- The ring chosen is served: its fetch begins, with the turn as the choice left it. -/
theorem settle_served {s u : State} {q : CommandRingId} (free : s.fetchingRing = none) (serves : s.serves q)
    (chosen : s.Chosen q u) :
    (settle s).fetchingRing = some q ∧ (settle s).intake.turn = q ∧ (settle s).intake.count = u.intake.count ∧
      (settle s).intake.turnOver = u.intake.turnOver := by
  obtain ⟨eligible, reserved⟩ := serves
  obtain ⟨c, config⟩ := eligible_configured eligible
  obtain ⟨rings, -, turn⟩ := chosen.frame
  rw [settle_chosen free eligible config chosen]
  split
  · exact ⟨beginFetch_fetching free rings, turn, rfl, rfl⟩
  · rename_i without
    obtain ⟨d, config', grants⟩ := reserved.resolve_left without
    cases config.symm.trans config'
    rw [if_pos ((grantsAtOnce_iff _).mpr grants)]
    exact ⟨beginFetch_fetching free rings, turn, rfl, rfl⟩

/-- The ring chosen is refused: it is STALLED on its request, and the choice goes on. -/
theorem settle_refused {s u : State} {q : CommandRingId} {c : CommandConfig} (free : s.fetchingRing = none)
    (eligible : s.intake.rings[q].eligible = true) (config : s.intake.rings[q].config = some c) (refused : ¬s.serves q)
    (chosen : s.Chosen q u) : settle s = settle (stallOnRequest c.bound q u) := by
  rw [settle_chosen free eligible config chosen, if_neg fun h => refused ⟨eligible, .inl h⟩,
    if_neg fun h => refused ⟨eligible, .inr ⟨c, config, (grantsAtOnce_iff _).mp h⟩⟩]

/-! ### The state after a refusal -/

/-- `t` is `s` with ring `p`, bound to notice ring `k`, refused: the turn is over, the ring STALLED and on the request
list. -/
structure Refused (s t : State) (p : CommandRingId) (k : NoticeRingId) : Prop where
  turn : t.intake.turn = p
  ended : t.intake.turnOver = true
  rings : ∀ r : CommandRingId, t.intake.rings[r] =
    if r = p then { s.intake.rings[p] with requestOutstanding := true, state := .stalled } else s.intake.rings[r]
  notices : ∀ j : NoticeRingId, t.notices[j] =
    if j = k then { s.notices[k] with requests := s.notices[k].requests ++ [p] } else s.notices[j]

theorem stallOnRequest_refused {s u : State} {p : CommandRingId} (k : NoticeRingId) (chosen : s.Chosen p u) :
    Refused s (stallOnRequest k p u) p k := by
  obtain ⟨rings, notices, turn⟩ := chosen.frame
  refine ⟨turn, rfl, fun r => ?_, fun j => ?_⟩
  · rw [stallOnRequest_rings, rings]
  · show (setNotice k _ u).notices[j] = _
    rw [setNotice_get, notices]

theorem Refused.free {s t : State} {p : CommandRingId} {k : NoticeRingId} (h : Refused s t p k)
    (free : s.fetchingRing = none) : t.fetchingRing = none := by
  rw [fetchingRing_none] at free ⊢
  intro r
  rw [h.rings]
  split
  · exact free p
  · exact free r

theorem Refused.grants {s t : State} {p : CommandRingId} {k : NoticeRingId} (h : Refused s t p k)
    (full : ¬s.notices[k].grants) (j : NoticeRingId) : t.notices[j].grants ↔ s.notices[j].grants := by
  rw [h.notices]
  by_cases own : j = k
  · subst own
    rw [if_pos rfl]
    exact iff_of_false (fun g => List.append_ne_nil_of_right_ne_nil _ (List.cons_ne_nil p []) g.2.2.2) full
  · rw [if_neg own]

/-- A refusal changes nothing about which rings can be served. -/
theorem Refused.serves {s t : State} {p : CommandRingId} {c : CommandConfig} (h : Refused s t p c.bound)
    (eligible : s.intake.rings[p].eligible = true) (config : s.intake.rings[p].config = some c) (refused : ¬s.serves p)
    (r : CommandRingId) : t.serves r ↔ s.serves r := by
  have ring := h.rings r
  by_cases own : r = p
  · subst own
    rw [if_pos rfl] at ring
    refine iff_of_false (fun serves => ?_) refused
    have eligible' := serves.1
    rw [ring, stalled_not_eligible] at eligible'
    cases eligible'
  · rw [if_neg own] at ring
    have full : ¬s.notices[c.bound].grants := fun g => refused ⟨eligible, .inr ⟨c, config, g⟩⟩
    simp only [State.serves, ring, h.grants full]

theorem Refused.eligibleCount {s u : State} {p : CommandRingId} (k : NoticeRingId)
    (eligible : s.intake.rings[p].eligible = true) (chosen : s.Chosen p u) :
    eligibleCount (stallOnRequest k p u) < eligibleCount s := by
  have rings := chosen.frame.1
  have fewer := stallOnRequest_eligibleCount (k := k) (r := p) (s := u) (by rw [rings]; exact eligible)
  have same : Machine.eligibleCount u = Machine.eligibleCount s := by simp only [Machine.eligibleCount, rings]
  omega

/-- A ring once refused stays as it is: STALLED, on the request list. -/
theorem Refused.stays {s t : State} {p : CommandRingId} {k : NoticeRingId} (h : Refused s t p k) :
    (settle t).intake.rings[p].state = .stalled ∧ (settle t).intake.rings[p].requestOutstanding = true ∧
      p ∈ (settle t).notices[k].requests := by
  have ring := h.rings p
  rw [if_pos rfl] at ring
  have idle : t.intake.rings[p].eligible = false := by rw [ring, stalled_not_eligible]
  obtain ⟨n, l, -, more⟩ := (settle_cases t).notices k
  have notice := h.notices k
  rw [if_pos rfl] at notice
  refine ⟨?_, ?_, ?_⟩
  · rw [settle_ring_of_not_eligible idle, ring]
  · rw [settle_ring_of_not_eligible idle, ring]
  · rw [more, notice]
    simp

/-! ### The whole round -/

theorem position_between {a p q d : CommandRingId} (first : (p - a - 1).val < (q - a - 1).val)
    (before : d.val < (q - p - 1).val) : (p + 1 + d - a - 1).val < (q - a - 1).val := by revert a p q d; decide

theorem position_beyond {a p q r : CommandRingId} (first : (p - a - 1).val < (r - a - 1).val)
    (before : (r - a - 1).val < (q - a - 1).val) : (r - p - 1).val < (q - p - 1).val := by revert a p q r; decide

theorem position_inj {a p q : CommandRingId} (same : (p - a - 1).val = (q - a - 1).val) : p = q := by
  revert a p q; decide

/-- No eligible ring stands before the ring to which the turn is passed. -/
theorem position_le {s : State} {p r : CommandRingId}
    (before : ∀ d : CommandRingId, d.val < (p - s.intake.turn - 1).val →
      s.intake.rings[s.intake.turn + 1 + d].eligible = false)
    (eligible : s.intake.rings[r].eligible = true) : (p - s.intake.turn - 1).val ≤ (r - s.intake.turn - 1).val := by
  by_contra less
  have idle := before (r - s.intake.turn - 1) (Nat.lt_of_not_le less)
  simp only [of_position] at idle
  rw [eligible] at idle
  cases idle

/-- `t` is `s` with ring `q` fetched, the turn passed to it, and every eligible ring before it STALLED on its request. -/
structure Rounded (s t : State) (q : CommandRingId) : Prop where
  path : t.fetchingRing = some q
  turn : t.intake.turn = q
  count : t.intake.count = 0
  goes : t.intake.turnOver = false
  passed : ∀ r : CommandRingId, s.intake.rings[r].eligible = true →
    (r - s.intake.turn - 1).val < (q - s.intake.turn - 1).val ∨ (r = s.intake.turn ∧ s.turnKept) →
    t.intake.rings[r].state = .stalled ∧ t.intake.rings[r].requestOutstanding = true ∧
      ∃ c, s.intake.rings[r].config = some c ∧ r ∈ t.notices[c.bound].requests

/-- Ring `q` is the first after the turn ring that the choice can serve, and the turn ring is not served again. -/
structure State.Serving (s : State) (q : CommandRingId) : Prop where
  free : s.fetchingRing = none
  given : ¬(s.turnKept ∧ s.serves s.intake.turn)
  serves : s.serves q
  first : ∀ d : CommandRingId, d.val < (q - s.intake.turn - 1).val → ¬s.serves (s.intake.turn + 1 + d)

theorem State.Serving.not_before {s : State} {p q : CommandRingId} (h : s.Serving q) (serves : s.serves p) :
    (q - s.intake.turn - 1).val ≤ (p - s.intake.turn - 1).val := by
  by_contra less
  refine h.first (p - s.intake.turn - 1) (Nat.lt_of_not_le less) ?_
  rw [of_position]
  exact serves

/-- The ring chosen is served at once: it is the first that can be. -/
theorem State.Serving.rounded_of_served {s u : State} {p q : CommandRingId} (h : s.Serving q) (chosen : s.Chosen p u)
    (serves : s.serves p) : Rounded s (settle s) q := by
  obtain ⟨path, turn, count, goes⟩ := settle_served h.free serves chosen
  obtain ⟨rfl, kept, -⟩ | ⟨given, before, rfl⟩ := chosen
  · exact absurd ⟨kept, serves⟩ h.given
  · have same : p = q := position_inj (Nat.le_antisymm (position_le before h.serves.1) (h.not_before serves))
    subst same
    refine ⟨path, turn, count, goes, fun r eligible passed => ?_⟩
    obtain less | ⟨rfl, kept⟩ := passed
    · exact absurd (position_le before eligible) (Nat.not_le.mpr less)
    · exact absurd ⟨eligible, kept⟩ given

/-- The ring chosen is refused: the round goes on after it. -/
theorem State.Serving.refused {s u : State} {p q : CommandRingId} {c : CommandConfig} (h : s.Serving q)
    (chosen : s.Chosen p u) (eligible : s.intake.rings[p].eligible = true) (config : s.intake.rings[p].config = some c)
    (refused : ¬s.serves p) : (stallOnRequest c.bound p u).Serving q := by
  have after := stallOnRequest_refused c.bound chosen
  refine ⟨after.free h.free, fun kept => ?_, (after.serves eligible config refused q).mpr h.serves, fun d hd => ?_⟩
  · rw [State.turnKept, after.ended] at kept
    exact absurd kept.1.1 (by decide)
  · rw [after.turn] at hd ⊢
    rw [after.serves eligible config refused]
    obtain ⟨rfl, -, -⟩ | ⟨-, before, -⟩ := chosen
    · exact h.first d hd
    · have less : (p - s.intake.turn - 1).val < (q - s.intake.turn - 1).val := by
        refine Nat.lt_of_le_of_ne (position_le before h.serves.1) fun same => refused ?_
        rw [position_inj same]
        exact h.serves
      have place := h.first (p + 1 + d - s.intake.turn - 1) (position_between less hd)
      rw [of_position] at place
      exact place

/-- The rings passed over before a refusal and after it. -/
theorem Rounded.of_refused {s u : State} {p q : CommandRingId} {c : CommandConfig} (chosen : s.Chosen p u)
    (config : s.intake.rings[p].config = some c)
    (rest : Rounded (stallOnRequest c.bound p u) (settle (stallOnRequest c.bound p u)) q) :
    Rounded s (settle (stallOnRequest c.bound p u)) q := by
  have after := stallOnRequest_refused c.bound chosen
  refine ⟨rest.path, rest.turn, rest.count, rest.goes, fun r eligible passed => ?_⟩
  by_cases own : r = p
  · subst own
    obtain ⟨state, outstanding, listed⟩ := after.stays
    exact ⟨state, outstanding, c, config, listed⟩
  · have ring := after.rings r
    rw [if_neg own] at ring
    have later := rest.passed r
    rw [ring, after.turn] at later
    refine later eligible (.inl ?_)
    obtain ⟨rfl, -, -⟩ | ⟨given, before, -⟩ := chosen
    · exact passed.resolve_right fun same => own same.1
    · obtain less | ⟨rfl, kept⟩ := passed
      · exact position_beyond
          (Nat.lt_of_le_of_ne (position_le before eligible) fun same => own (position_inj same).symm) less
      · exact absurd ⟨eligible, kept⟩ given

/-- R143 to R145: the first ring after the turn ring that can be served is fetched, and the eligible rings before it are
STALLED on their requests. -/
theorem settle_rounded {s : State} {q : CommandRingId} (h : s.Serving q) : Rounded s (settle s) q := by
  induction n : eligibleCount s using Nat.strong_induction_on generalizing s with
  | _ n ih =>
    subst n
    obtain ⟨p, u, eligible, chosen⟩ := exists_chosen ⟨q, h.serves.1⟩
    by_cases serves : s.serves p
    · exact h.rounded_of_served chosen serves
    · obtain ⟨c, config⟩ := eligible_configured eligible
      rw [settle_refused h.free eligible config serves chosen]
      exact .of_refused chosen config
        (ih _ (Refused.eligibleCount c.bound eligible chosen) (h.refused chosen eligible config serves) rfl)

/-- With no ring to serve no fetch begins. -/
theorem settle_unserved {s : State} (free : s.fetchingRing = none) (unserved : ∀ r : CommandRingId, ¬s.serves r) :
    (settle s).fetchingRing = none := by
  induction n : eligibleCount s using Nat.strong_induction_on generalizing s with
  | _ n ih =>
    subst n
    by_cases some : ∃ r : CommandRingId, s.intake.rings[r].eligible = true
    · obtain ⟨p, u, eligible, chosen⟩ := exists_chosen some
      obtain ⟨c, config⟩ := eligible_configured eligible
      have after := stallOnRequest_refused c.bound chosen
      rw [settle_refused free eligible config (unserved p) chosen]
      exact ih _ (Refused.eligibleCount c.bound eligible chosen) (after.free free)
        (fun r serves => unserved r ((after.serves eligible config (unserved p) r).mp serves)) rfl
    · have idle : ∀ r : CommandRingId, s.intake.rings[r].eligible = false := fun r =>
        Bool.eq_false_iff.mpr fun h => some ⟨r, h⟩
      rw [settle_of_none_eligible idle, fetchingRing_none, noteTurn_rings]
      exact (fetchingRing_none s).mp free

end Sys2Proof.Machine
end

section
/-! The turn of the arbiter, and the obligation (R122, R140, R143 to R146). -/

namespace Sys2Proof.Machine

open Sys2Proof

/-- A ring whose fetch the choice begins reads the place at its take index (R144, R146). -/
theorem settle_fetch {s : State} {q : CommandRingId} {c : CommandConfig} (free : s.fetchingRing = none)
    (path : (settle s).fetchingRing = some q) (config : s.intake.rings[q].config = some c) :
    (settle s).intake.rings[q].fetch =
      some { place := s.intake.rings[q].take, address := c.base.toNat + 64 * s.intake.rings[q].take, discarded := false } := by
  have idle := (fetchingRing_none s).mp free q
  have begun := fetchingRing_isSome path
  obtain same | ⟨-, fetched | stalled⟩ := (settle_cases s).rings q
  · rw [same, idle] at begun
    cases begun
  · rw [fetched, nextFetch_of_config config]
  · rw [stalled] at begun
    simp only [idle] at begun
    cases begun

/-- The turn ring that keeps its turn and can be served is fetched again (R143). -/
theorem settle_keeps_turn {s : State} (free : s.fetchingRing = none) (kept : s.turnKept)
    (serves : s.serves s.intake.turn) :
    (settle s).fetchingRing = some s.intake.turn ∧ (settle s).intake.turn = s.intake.turn ∧
      (settle s).intake.count = s.intake.count := by
  obtain ⟨path, turn, count, -⟩ := settle_served free serves (.inl ⟨rfl, kept, rfl⟩)
  exact ⟨path, turn, count⟩

/-- A ring that is fetched kept its turn, or is the first after the turn ring that can be served. -/
theorem settle_fetching {s : State} {q : CommandRingId} (free : s.fetchingRing = none)
    (path : (settle s).fetchingRing = some q) : s.turnKept ∧ s.serves q ∧ q = s.intake.turn ∨ s.Serving q := by
  by_cases kept : s.turnKept ∧ s.serves s.intake.turn
  · have same := (settle_keeps_turn free kept.1 kept.2).1
    rw [path, Option.some.injEq] at same
    exact .inl ⟨kept.1, same ▸ kept.2, same⟩
  · have some : ∃ r, s.serves r := by
      by_contra nothing
      rw [settle_unserved free fun r serves => nothing ⟨r, serves⟩] at path
      cases path
    obtain ⟨r, serves, first⟩ := first_after s.intake.turn some
    have serving : s.Serving r := ⟨free, kept, serves, first⟩
    have same := (settle_rounded serving).path
    rw [path, Option.some.injEq] at same
    exact .inr (same ▸ serving)

/-- A ring that is fetched, with its turn, its fetch and its count (R143, R144). -/
theorem settle_fetching_turn {s : State} {q : CommandRingId} (free : s.fetchingRing = none)
    (path : (settle s).fetchingRing = some q) :
    (settle s).intake.turn = q ∧ s.intake.rings[q].eligible = true ∧
      (((settle s).intake.count = s.intake.count ∧ q = s.intake.turn ∧ s.intake.turnOver = false ∧
          (∃ c, s.intake.rings[q].config = some c ∧ s.intake.count < c.burst)) ∨
        ((settle s).intake.count = 0 ∧
          ∀ d : CommandRingId, d.val < (q - s.intake.turn - 1).val →
            s.intake.rings[s.intake.turn + 1 + d].eligible = true →
            (settle s).intake.rings[s.intake.turn + 1 + d].state = .stalled)) := by
  obtain ⟨kept, serves, rfl⟩ | serving := settle_fetching free path
  · obtain ⟨-, turn, count⟩ := settle_keeps_turn free kept serves
    exact ⟨turn, serves.1, .inl ⟨count, rfl, kept⟩⟩
  · have round := settle_rounded serving
    refine ⟨round.turn, serving.serves.1, .inr ⟨round.count, fun d hd eligible => ?_⟩⟩
    refine (round.passed _ eligible (.inl ?_)).1
    rw [position_of]
    exact hd

theorem stallOnRequest_eq (k : NoticeRingId) (r : CommandRingId) (s : State) :
    stallOnRequest k r s =
      setRing r { s.intake.rings[r] with requestOutstanding := true, state := .stalled }
        (setNotice k { s.notices[k] with requests := s.notices[k].requests ++ [r] }
          { s with intake := { s.intake with turnOver := true } }) := rfl

/-- The choice whole, in the words of its rules (R122, R143 to R145). -/
theorem settle_chosen_eq {s u : State} {q : CommandRingId} {c : CommandConfig} {x : CommandRing}
    (free : s.fetchingRing = none) (eligible : s.intake.rings[q].eligible = true)
    (config : s.intake.rings[q].config = some c) (chosen : s.Chosen q u)
    (hx : x =
      { s.intake.rings[q] with
        fetchReservation := false
        fetch := some
          { place := s.intake.rings[q].take, address := c.base.toNat + 64 * s.intake.rings[q].take, discarded := false } }) :
    settle s =
      if s.intake.rings[q].fetchReservation = true then setRing q x u
      else if s.notices[c.bound].state = .active ∧
          s.notices[c.bound].occupied + s.notices[c.bound].reserved < s.notices[c.bound].size ∧
          s.notices[c.bound].deferred = [] ∧ s.notices[c.bound].requests = [] then
        setRing q x (setNotice c.bound { s.notices[c.bound] with reserved := s.notices[c.bound].reserved + 1 } u)
      else
        settle
          (setRing q { s.intake.rings[q] with requestOutstanding := true, state := .stalled }
            (setNotice c.bound { s.notices[c.bound] with requests := s.notices[c.bound].requests ++ [q] }
              { u with intake := { u.intake with turnOver := true } })) := by
  obtain ⟨rings, notices, -⟩ := chosen.frame
  have begun : ∀ w : State, w.intake.rings = s.intake.rings → beginFetch q w = setRing q x w := fun w same => by
    rw [beginFetch, same, nextFetch_of_config config, hx]
  rw [settle_chosen free eligible config chosen]
  by_cases reserved : s.intake.rings[q].fetchReservation = true
  · rw [if_pos reserved, if_pos reserved, begun u rings]
  · rw [if_neg reserved, if_neg reserved]
    by_cases grants : s.notices[c.bound].grants
    · rw [if_pos ((grantsAtOnce_iff _).mpr grants), fetchWithGrant, begun (setNotice c.bound _ u) rings, notices]
      exact (if_pos grants).symm
    · rw [if_neg (mt (grantsAtOnce_iff _).mp grants)]
      refine Eq.trans (congrArg settle ?_) (if_neg grants).symm
      rw [stallOnRequest_eq, rings, notices]

/-- Settles O13: the choice whole, the round that it goes, and the count of the turn. -/
theorem turnsGoRoundInOrder : Obligations.TurnsGoRoundInOrder := by
  refine ⟨⟨fun x c config take post => eligible_iff config take post, fun s q free path => ?_,
    fun s q c free turn config eligible goes few reserved => ?_, fun s free idle => ?_⟩,
    ⟨fun s nothing => ?_, fun s u q c x free eligible config chosen hx => ?_⟩,
    fun s q served kept hserved hkept free given serves first => ?_,
    fun c s r k fetching takes => exec_takes_intake fetching takes⟩
  · obtain ⟨turn, eligible, count⟩ := settle_fetching_turn free path
    exact ⟨turn, eligible, fun c config => settle_fetch free path config, count⟩
  · subst turn
    exact settle_keeps_turn free ⟨goes, c, config, few⟩
      ⟨eligible, reserved.imp_right fun grants => ⟨c, config, grants⟩⟩
  · rw [settle_of_none_eligible idle]
    refine ⟨?_, (noteTurn_frame s).2.2.2.2.2.2.2.1, noteTurn_rings s⟩
    rw [fetchingRing_none, noteTurn_rings]
    exact (fetchingRing_none s).mp free
  · rw [settle_marks_only nothing, noteTurn_eq]
  · refine settle_chosen_eq free eligible config ?_ hx
    obtain ⟨turn, goes, few, rfl⟩ | given := chosen
    · refine .inl ⟨turn, ⟨goes, c, ?_, few⟩, rfl⟩
      subst turn
      exact config
    · exact .inr given
  · have round := settle_rounded (s := s) (q := q)
      ⟨free, fun h => given ⟨hkept.mpr h.1, (hserved _).mpr h.2⟩, (hserved q).mp serves,
        fun d hd h => first d hd ((hserved _).mpr h)⟩
    exact ⟨round.path, round.turn, round.count, round.goes, fun r eligible passed =>
      round.passed r eligible (passed.imp_right fun h => ⟨h.1, hkept.mp h.2⟩)⟩

end Sys2Proof.Machine
end

section
/-! R143 through the operations that begin no fetch: at most one fetch stays in flight, and the choice that follows
serves the fetch path. -/

namespace Sys2Proof.Machine

open Sys2Proof

variable {s t : State}

/-! ### No fetch begins -/

/-- At most one fetch is in flight (R143). -/
def OneFetch (s : State) : Prop :=
  ∀ r q : CommandRingId, s.intake.rings[r].fetch.isSome = true → s.intake.rings[q].fetch.isSome = true → r = q

/-- Every fetch in flight in `t` was in flight in `s`. -/
structure NoFetchBegins (s t : State) : Prop where
  fetch : ∀ q : CommandRingId, t.intake.rings[q].fetch.isSome = true → s.intake.rings[q].fetch.isSome = true

theorem OneFetch.kept (h : OneFetch s) (begins : NoFetchBegins s t) : OneFetch t :=
  fun r q hr hq => h r q (begins.fetch r hr) (begins.fetch q hq)

theorem NoFetchBegins.trans {u : State} (first : NoFetchBegins s t) (second : NoFetchBegins t u) : NoFetchBegins s u :=
  ⟨fun q hq => first.fetch q (second.fetch q hq)⟩

theorem NoFetchBegins.frame (rings : t.intake.rings = s.intake.rings) : NoFetchBegins s t :=
  ⟨fun q hq => by rw [rings] at hq; exact hq⟩

theorem NoFetchBegins.refl (s : State) : NoFetchBegins s s := .frame rfl

theorem setRing_begins {r : CommandRingId} {x : CommandRing}
    (fetch : x.fetch.isSome = true → s.intake.rings[r].fetch.isSome = true) : NoFetchBegins s (setRing r x s) := by
  refine ⟨fun q hq => ?_⟩
  rw [setRing_get] at hq
  split at hq
  · rename_i own
    subst own
    exact fetch hq
  · exact hq

theorem Serviced.begins (h : Serviced s t) : NoFetchBegins s t :=
  ⟨fun q hq => by rw [h.ring q] at hq; exact hq⟩

theorem Ends.begins (h : Ends s t) : NoFetchBegins s t := h.serviced.begins

/-! ### Free places and resets -/

theorem serve_begins (k : NoticeRingId) (s : State) : NoFetchBegins s (serve k s) := by
  refine ⟨fun q hq => ?_⟩
  obtain ⟨u, posted, granted, post, grant, -⟩ := serve_cases k s
  have rings : u.intake.rings = s.intake.rings := by rw [post.blocks]
  rw [grant.rings, rings] at hq
  split at hq <;> exact hq

theorem returnReservations_begins (k : NoticeRingId) (n : Nat) (s : State) :
    NoFetchBegins s (returnReservations k n s) := by
  unfold returnReservations
  refine .trans ?_ (serve_begins k _)
  exact .frame rfl

theorem fresh_fetch (c : Option CommandConfig) (x : CommandRing) : (x.fresh c).fetch.isSome = x.fetch.isSome :=
  Option.isSome_map

theorem clearRing_begins (k : NoticeRingId) (r : CommandRingId) (s : State) : NoFetchBegins s (clearRing k r s) := by
  have cleared : NoFetchBegins s (setRing r (s.intake.rings[r].fresh s.intake.rings[r].config) s) :=
    setRing_begins fun h => (fresh_fetch _ _).symm.trans h
  unfold clearRing
  dsimp only
  split <;> exact cleared.trans (.frame rfl)

theorem resetCommandRing_begins (cascade : Bool) (r : CommandRingId) (s : State) :
    NoFetchBegins s (resetCommandRing cascade r s) := by
  unfold resetCommandRing
  split
  · split
    · exact clearRing_begins _ r s
    · exact (clearRing_begins _ r s).trans (returnReservations_begins _ _ _)
  · exact .refl s

theorem cascadeReset_begins (k : NoticeRingId) (r : CommandRingId) (s : State) : NoFetchBegins s (cascadeReset k s r) := by
  unfold cascadeReset
  split
  · exact resetCommandRing_begins true r s
  · exact .refl s

theorem resetNoticeRing_begins (k : NoticeRingId) (s : State) : NoFetchBegins s (resetNoticeRing k s) := by
  have cascade : ∀ (l : List CommandRingId) (u : State), NoFetchBegins u (l.foldl (cascadeReset k) u) := by
    intro l
    induction l with
    | nil => exact .refl
    | cons r l ih => exact fun u => (cascadeReset_begins k r u).trans (ih _)
  have discards : NoFetchBegins s (discarded k s) := .frame (by rw [discarded_blocks]; rfl)
  have reset := discards.trans (cascade [0, 1, 2, 3] (discarded k s))
  unfold resetNoticeRing
  dsimp only
  split
  · exact reset.trans (.frame (by rw [(offerSystem_frame _ _).2.1]; rfl))
  · exact reset

/-! ### The ends of fetches, firings, works and faults -/

theorem advanceTake_begins (r : CommandRingId) (s : State) : NoFetchBegins s (advanceTake r s) := by
  refine ⟨fun q hq => ?_⟩
  rw [advanceTake_ring] at hq
  split at hq
  · cases hq
  · exact hq

theorem takeFetched_begins (hd : Header) (m : Option Command) (r : CommandRingId) (s : State) :
    NoFetchBegins s (takeFetched hd m r s) :=
  (advanceTake_begins r s).trans (takeFetched_serviced hd m r s).begins

theorem faultFetch_begins (r : CommandRingId) (s : State) : NoFetchBegins s (faultFetch r s) := by
  have ended : NoFetchBegins s (setRing r { s.intake.rings[r] with fetch := none, state := .faulted } s) :=
    setRing_begins fun h => by cases h
  have offered : ∀ u, NoFetchBegins u (offerSystem (.commandFault r) (setFault u)) := fun u => .frame (by simp)
  unfold faultFetch
  cases s.intake.rings[r].bound? with
  | none => exact ended.trans (offered _)
  | some k => exact (ended.trans (returnReservations_begins k 1 _)).trans (offered _)

theorem offerFiring_begins (k : NoticeRingId) (i : SlotId) (p : FiringReport) (s : State) :
    NoFetchBegins s (offerFiring k i p s) := .frame (by simp)

theorem fire_begins (x : Entry) (v : Event) (s : State) : NoFetchBegins s (fire x v s) := by
  have acted := ((fireState_ends x v s).trans (applyActions_ends x.expiry v.defn.actions _)).begins
  unfold fire
  dsimp only
  split
  · exact acted.trans (offerFiring_begins _ _ _ _)
  · exact acted

theorem passOver_begins (x : Entry) (v : Event) (s : State) : NoFetchBegins s (passOver x v s) := by
  have concluded : ∀ c, NoFetchBegins s (conclude x.slot v.defn c (setEvent x.slot (v.passedOver c) s)) := fun c =>
    (NoFetchBegins.frame (by simp)).trans (conclude_ends x.slot v.defn c _).begins
  unfold passOver
  dsimp only
  split
  · exact (concluded _).trans (offerFiring_begins _ _ _ _)
  · exact concluded _

theorem discardEntry_begins (x : Entry) (s : State) : NoFetchBegins s (discardEntry s x) := by
  have removed : NoFetchBegins s (removeEntry x.slot s) := .frame (by simp)
  unfold discardEntry
  split
  · exact removed.trans (passOver_begins x _ _)
  · exact removed

theorem resumeTimeline_begins (m : ResumeMode) (s : State) : NoFetchBegins s (resumeTimeline m s) := by
  have passed : ∀ (l : List Entry) (u : State), NoFetchBegins u (l.foldl discardEntry u) := by
    intro l
    induction l with
    | nil => exact .refl
    | cons x l ih => exact fun u => (discardEntry_begins x u).trans (ih _)
  cases m with
  | catchup => exact .frame rfl
  | discard => exact passed _ s

theorem leaveHalted_begins (m : ResumeMode) (s : State) : NoFetchBegins s (leaveHalted m s) := by
  have offered : NoFetchBegins s (offerSystem (.resumed m) (clearCauses s)) := .frame (by simp)
  exact (offered.trans (resumeTimeline_begins m _)).trans (.frame rfl)

theorem faultBound_begins (k : NoticeRingId) (s : State) : NoFetchBegins s (faultBound k s) := by
  refine ⟨fun q hq => ?_⟩
  have ring : (faultBound k s).intake.rings[q] =
      if s.intake.rings[q].bound? = some k then s.intake.rings[q].boundFault else s.intake.rings[q] :=
    Vector.getElem_map _ q.isLt
  rw [ring, CommandRing.boundFault] at hq
  split at hq
  · split at hq <;> exact hq
  · exact hq

/-- Every command ring is taken afresh, whatever configuration it gets (R162, R168). -/
theorem freshRings_begins {c : CommandRingId → Option CommandConfig}
    (rings : ∀ q : CommandRingId, t.intake.rings[q] = s.intake.rings[q].fresh (c q)) : NoFetchBegins s t :=
  ⟨fun q hq => by rw [rings, fresh_fetch] at hq; exact hq⟩

theorem controlReset_begins (s : State) : NoFetchBegins s (controlReset s) :=
  freshRings_begins fun q => Vector.getElem_map _ q.isLt

theorem configure_begins (b : SetupConfig) (s : State) : NoFetchBegins s (configure b s) :=
  freshRings_begins fun q => Vector.getElem_ofFn q.isLt

theorem offerSystem_begins (b : SystemBody) (s : State) : NoFetchBegins s (offerSystem b s) := .frame (by simp)

/-- The state of `faultNotices` that the choice follows (R132). -/
theorem faultedNotices_begins (k : NoticeRingId) (s : State) :
    NoFetchBegins s (setFault (faultBound k (setNotice k s.notices[k].faultWrite s))) := by
  have lost : NoFetchBegins s (setNotice k s.notices[k].faultWrite s) := .frame rfl
  exact (lost.trans (faultBound_begins k _)).trans (.frame rfl)

/-! ### The fetch path after the choice -/

/-- With the path free, the choice begins the fetch of one ring, or leaves no ring eligible (R143). -/
theorem settle_free (free : s.fetchingRing = none) :
    (∃ q, (settle s).intake.rings[q].fetch.isSome = true ∧
      ∀ r : CommandRingId, r ≠ q → (settle s).intake.rings[r].fetch = none) ∨
    ((∀ r : CommandRingId, (settle s).intake.rings[r].fetch = none) ∧
      ∀ r : CommandRingId, (settle s).intake.rings[r].eligible = false) := by
  induction n : eligibleCount s using Nat.strong_induction_on generalizing s with
  | _ n ih =>
    subst n
    have none := (fetchingRing_none s).mp free
    by_cases some : ∃ r : CommandRingId, s.intake.rings[r].eligible = true
    · obtain ⟨q, u, eligible, chosen⟩ := exists_chosen some
      obtain ⟨c, config⟩ := eligible_configured eligible
      have begun : ∀ v : State, v.intake.rings = s.intake.rings →
          (beginFetch q v).intake.rings[q].fetch.isSome = true ∧
            ∀ r : CommandRingId, r ≠ q → (beginFetch q v).intake.rings[r].fetch = Option.none := by
        intro v rings
        refine ⟨by rw [beginFetch, setRing_get, if_pos rfl]; rfl, fun r other => ?_⟩
        rw [beginFetch, setRing_get, if_neg other, rings]
        exact none r
      rw [settle_chosen free eligible config chosen]
      split
      · exact .inl ⟨q, begun u chosen.frame.1⟩
      · split
        · exact .inl ⟨q, begun (setNotice c.bound _ u) chosen.frame.1⟩
        · exact ih _ (Refused.eligibleCount c.bound eligible chosen)
            ((stallOnRequest_refused c.bound chosen).free free) rfl
    · have idle : ∀ r : CommandRingId, s.intake.rings[r].eligible = false := fun r =>
        Bool.eq_false_iff.mpr fun h => some ⟨r, h⟩
      rw [settle_of_none_eligible idle, noteTurn_rings]
      exact .inr ⟨none, idle⟩

/-- The choice serves the fetch path, and marks a turn that is over (R143, log entry 12). -/
theorem OneFetch.settle (h : OneFetch s) : FetchPathServed (settle s) := by
  cases path : s.fetchingRing with
  | some q =>
    have busy : s.fetchingRing ≠ none := by rw [path]; exact Option.some_ne_none q
    have kept := settle_marks_only (.inl busy)
    refine ⟨?_, fun free => absurd ?_ busy, fun _ => settle_marked s⟩
    · rw [kept, noteTurn_rings]
      exact h
    · rw [kept, fetchingRing_none, noteTurn_rings, ← fetchingRing_none] at free
      exact free
  | none =>
    obtain ⟨q, fetch, alone⟩ | ⟨none, idle⟩ := settle_free path
    · have only : ∀ r : CommandRingId, (Machine.settle s).intake.rings[r].fetch.isSome = true → r = q := by
        intro r hr
        by_contra other
        rw [alone r other] at hr
        cases hr
      refine ⟨fun r p hr hp => (only r hr).trans (only p hp).symm, fun free => ?_, fun _ => settle_marked s⟩
      rw [(fetchingRing_none _).mp free q] at fetch
      cases fetch
    · refine ⟨fun r q hr => ?_, fun _ => idle, fun _ => settle_marked s⟩
      rw [none r] at hr
      cases hr

end Sys2Proof.Machine
end

section
/-! R143 through every command, and so through every step (O57). -/

namespace Sys2Proof.Machine

open Sys2Proof

variable {s t : State}

/-! ### Operations that no choice follows -/

/-- What leaves the turn, each fetch, and each ring's eligibility as they are, and does not enter RUNNING. -/
theorem FetchPathServed.kept (h : FetchPathServed s) (intake : t.intake = { s.intake with rings := t.intake.rings })
    (fetch : ∀ q : CommandRingId, t.intake.rings[q].fetch = s.intake.rings[q].fetch)
    (eligible : ∀ q : CommandRingId, t.intake.rings[q].eligible = s.intake.rings[q].eligible)
    (running : t.control.core = .running → s.control.core = .running) : FetchPathServed t := by
  have turn : t.intake.turn = s.intake.turn := by rw [intake]
  have mark : t.intake.turnOver = s.intake.turnOver := by rw [intake]
  refine ⟨fun r q => ?_, fun free r => ?_, fun now => ?_⟩
  · rw [fetch, fetch]
    exact h.one r q
  · rw [eligible]
    simp only [fetchingRing_none, fetch] at free
    exact h.served ((fetchingRing_none s).mpr free) r
  · rw [eligible, turn, mark]
    exact h.turn (running now)

theorem FetchPathServed.frame (h : FetchPathServed s) (intake : t.intake = s.intake)
    (running : t.control.core = .running → s.control.core = .running) : FetchPathServed t :=
  h.kept (by rw [intake]) (fun q => by rw [intake]) (fun q => by rw [intake]) running

/-- What begins no fetch, with the arbiter's choice after it. -/
theorem FetchPathServed.settled (h : FetchPathServed s) (begins : NoFetchBegins s t) : FetchPathServed (settle t) :=
  OneFetch.settle (OneFetch.kept h.one begins)

/-- A completion taken from an outstanding list leaves the fetch path alone (R151). -/
theorem completeOwed_path (r : CommandRingId) (o : Owed) (st : Status) (x : Result) (h : FetchPathServed s) :
    FetchPathServed (completeOwed r o st x s) := by
  refine h.kept (completeOwed_only r o st x s).intake (fun q => ?_) (fun q => ?_) fun now => ?_
  · rw [completeOwed_ring]
    split
    · rename_i own
      rw [own]
    · rfl
  · rw [completeOwed_ring]
    split
    · rename_i own
      rw [own]
      rfl
    · rfl
  · rw [(completeOwed_only r o st x s).blocks] at now
    exact now

theorem countPass_path (m : Bool) (f : Pass → Pass) (h : FetchPathServed s) : FetchPathServed (countPass m f s) := by
  unfold countPass
  split
  · split
    · unfold notePass
      split
      · exact completeOwed_path _ _ _ _ (h.frame rfl id)
      · exact h.frame rfl id
    · exact h
  · exact h

theorem applyTrim_path (n : Nat) (h : FetchPathServed s) : FetchPathServed (applyTrim n s) := by
  unfold applyTrim
  split
  · exact completeOwed_path _ _ _ _ (h.frame rfl id)
  · exact h

/-- A reset of the core leaves no ring eligible, and no live turn (R168). -/
theorem controlReset_path (h : FetchPathServed s) : FetchPathServed (controlReset s) := by
  have ring : ∀ q : CommandRingId, (controlReset s).intake.rings[q] = s.intake.rings[q].fresh none := fun q =>
    Vector.getElem_map _ q.isLt
  refine ⟨OneFetch.kept h.one (controlReset_begins s), fun _ q => ?_, fun now => by cases now⟩
  rw [ring, fresh_not_eligible]

theorem fullReset_path (h : FetchPathServed s) : FetchPathServed (fullReset s) := (controlReset_path h).frame rfl id

theorem rejectIndex_path (o : Nat) (h : FetchPathServed s) : FetchPathServed (rejectIndex o s) :=
  h.frame (rejectIndex_frame o s).1 fun now => by rw [rejectIndex_control] at now; exact now

theorem evalReady_path (k : NoticeRingId) (h : FetchPathServed s) : FetchPathServed (evalReady k s) := h.frame rfl id

theorem latch_path {f : Control → Control} (core : (f s.control).core = s.control.core) (h : FetchPathServed s) :
    FetchPathServed (latch f s) := by
  refine h.frame ?_ fun now => by rw [latch_control, core] at now; exact now
  unfold latch
  split
  · rw [(enterHalted_frame _).2.1]
  · rfl

/-! ### Register writes -/

theorem hostWrite_path {f : State → State} (h : FetchPathServed s) (hf : FetchPathServed (f s)) :
    FetchPathServed (hostWrite f s) := by
  unfold hostWrite
  split
  · exact h
  · exact hf

theorem whileRunning_path {f : State → State} (h : FetchPathServed s) (hf : FetchPathServed (f s)) :
    FetchPathServed (whileRunning f s) := by
  unfold whileRunning
  split
  · exact hf
  · exact h

theorem whenBit_path {f : State → State} (v : BitVec 32) (i : Nat)
    (hf : v.getLsbD i = true → FetchPathServed s → FetchPathServed (f s)) (h : FetchPathServed s) :
    FetchPathServed (whenBit v i f s) := by
  unfold whenBit
  split
  · rename_i set
    exact hf set h
  · exact h

theorem whenBit_begins {f : State → State} (v : BitVec 32) (i : Nat) (hf : ∀ u, NoFetchBegins u (f u)) (s : State) :
    NoFetchBegins s (whenBit v i f s) := by
  unfold whenBit
  split
  · exact hf s
  · exact .refl s

theorem controlStart_path (h : FetchPathServed s) : FetchPathServed (controlStart s) := by
  unfold controlStart
  split
  · exact h.frame rfl fun now => by cases now
  · exact h.frame rfl id

/-- A RESUME that is no resume changes the causes and flags alone (R167). -/
theorem controlResume_path (m : ResumeMode) (stays : s.resumes = false) (h : FetchPathServed s) :
    FetchPathServed (controlResume m s) := by
  unfold controlResume
  split
  · exact h.frame rfl id
  · rename_i released
    split
    · rename_i halted
      rw [State.resumes, halted, Bool.eq_false_iff.mpr released] at stays
      cases stays
    · exact h.frame rfl id

theorem controlResume_begins (m : ResumeMode) (s : State) : NoFetchBegins s (controlResume m s) := by
  unfold controlResume
  split
  · exact .frame rfl
  · split
    · exact leaveHalted_begins m s
    · exact .frame rfl

theorem resumeAlone_path (m : ResumeMode) (h : FetchPathServed s) : FetchPathServed (resumeAlone m s) := by
  unfold resumeAlone
  split
  · exact h.settled (controlResume_begins m s)
  · rename_i stays
    exact controlResume_path m (Bool.eq_false_iff.mpr stays) h

/-- The choice follows a CONTROL write with a resume among its actions; the other actions need none (R160). -/
theorem writeControl_path (v : BitVec 32) (h : FetchPathServed s) : FetchPathServed (writeControl v s) := by
  have before : FetchPathServed (whenBit v 1 controlHalt (whenBit v 0 controlStart s)) :=
    whenBit_path v 1 (fun _ => latch_path rfl) (whenBit_path v 0 (fun _ => controlStart_path) h)
  unfold writeControl
  dsimp only
  generalize whenBit v 1 controlHalt (whenBit v 0 controlStart s) = a at before ⊢
  split
  · exact before.settled (((whenBit_begins v 2 (controlResume_begins _) a).trans (whenBit_begins v 3 controlReset_begins _)).trans
      (whenBit_begins (f := controlClear) v 4 (fun _ => .frame rfl) _))
  · rename_i alone
    refine whenBit_path v 4 (fun _ g => g.frame rfl id) (whenBit_path v 3 (fun _ => controlReset_path)
      (whenBit_path v 2 (fun set => controlResume_path _ ?_) before))
    rw [set, Bool.true_and] at alone
    exact Bool.eq_false_iff.mpr alone

theorem writeIntStatus_path (v : BitVec 32) (h : FetchPathServed s) : FetchPathServed (writeIntStatus v s) := by
  unfold writeIntStatus
  split
  · exact h.frame rfl id
  · exact h

theorem writeQueueReset_path (v : BitVec 32) (h : FetchPathServed s) : FetchPathServed (writeQueueReset v s) := by
  have notices : NoFetchBegins s (whenBit v 5 (resetNoticeRing 1) (whenBit v 4 (resetNoticeRing 0) s)) :=
    (whenBit_begins v 4 (resetNoticeRing_begins 0) s).trans (whenBit_begins v 5 (resetNoticeRing_begins 1) _)
  unfold writeQueueReset
  split
  · exact h
  · exact whileRunning_path h (h.settled ((((notices.trans (whenBit_begins v 0 (resetCommandRing_begins false 0) _)).trans
      (whenBit_begins v 1 (resetCommandRing_begins false 1) _)).trans
      (whenBit_begins v 2 (resetCommandRing_begins false 2) _)).trans
      (whenBit_begins v 3 (resetCommandRing_begins false 3) _)))

theorem writePost_path (r : CommandRingId) (v : BitVec 32) (h : FetchPathServed s) : FetchPathServed (writePost r v s) := by
  unfold writePost
  split
  · exact h.settled (setRing_begins id)
  · exact rejectIndex_path _ h

theorem writeRelease_path (k : NoticeRingId) (v : BitVec 32) (h : FetchPathServed s) :
    FetchPathServed (writeRelease k v s) := by
  have freed : NoFetchBegins s (setNotice k (s.notices[k].release v.toNat) s) := .frame rfl
  unfold writeRelease
  split
  · split
    · exact h.settled ((freed.trans (serve_begins k _)).trans (.frame rfl))
    · exact h
  · exact rejectIndex_path _ h

theorem writeRegister_path (o : Nat) (v : BitVec 32) (h : FetchPathServed s) : FetchPathServed (writeRegister o v s) := by
  unfold writeRegister
  split
  · exact writeControl_path v h
  · exact writeIntStatus_path v h
  · exact h.frame rfl id
  · exact writeQueueReset_path v h
  · exact h.frame rfl id
  · exact h.frame rfl id
  · exact writePost_path 0 v h
  · exact writePost_path 1 v h
  · exact writePost_path 2 v h
  · exact writePost_path 3 v h
  · exact writeRelease_path 0 v h
  · exact writeRelease_path 1 v h
  · exact h

/-! ### Happenings -/

/-- The end of a fetch, with the choice after it (R146 to R148). -/
theorem endFetch_path {f : CommandRingId → State → State} (begins : ∀ r, NoFetchBegins s (f r s)) (h : FetchPathServed s) :
    FetchPathServed (endFetch f s) := by
  unfold endFetch
  split
  · rename_i r _
    refine h.settled (NoFetchBegins.trans ?_ (stallIfFaulted_serviced r _).begins)
    split
    · exact setRing_begins fun fetch => by cases fetch
    · exact begins r
  · exact h

theorem fetchEnd_path {f : FetchEnd} {pins : BitVec 8} (h : FetchPathServed s)
    (e : exec (.fetchEnd f pins) s = .next t) : FetchPathServed t := by
  cases e
  cases f with
  | good record => exact endFetch_path (fun r => takeFetched_begins _ _ r s) h
  | busError => exact endFetch_path (fun r => faultFetch_begins r s) h

theorem firing_path (h : FetchPathServed s) (e : exec .firing s = .next t) : FetchPathServed t := by
  have dropped : NoFetchBegins s (dropHead s) := .frame rfl
  cases e
  split
  · split
    · exact h.settled (dropped.trans (fire_begins _ _ _))
    · exact h.frame rfl id
  · exact h

theorem secondBoundary_path (h : FetchPathServed s) (e : exec .secondBoundary s = .next t) : FetchPathServed t := by
  cases e
  split
  · exact applyTrim_path _ (h.frame rfl id)
  · exact h

theorem sample_path {c : CaptureId} {v : Level} (h : FetchPathServed s) (e : exec (.sample c v) s = .next t) :
    FetchPathServed t := by
  cases e
  split
  · split
    · exact h.frame (takeSample_frame ..).2.1 fun now => by rw [(takeSample_frame ..).1] at now; exact now
    · exact h
  · exact h

theorem deadlineExpiry_path {r : CommandRingId} (h : FetchPathServed s) (e : exec (.deadlineExpiry r) s = .next t) :
    FetchPathServed t := by
  cases e
  split
  · rename_i wait
    split
    · split
      · exact h.settled (Ends.wait wait .timedOut).begins
      · exact h
    · exact h
  · exact h

theorem faultNotices_path (k : NoticeRingId) (h : FetchPathServed s) : FetchPathServed (faultNotices k s) := by
  unfold faultNotices
  dsimp only
  refine h.settled ?_
  split
  · exact (faultedNotices_begins k s).trans (offerSystem_begins _ _)
  · exact faultedNotices_begins k s

theorem endHeadWrite_path (k : NoticeRingId) (q : Queued) (w : WriteEnd) (h : FetchPathServed s) :
    FetchPathServed (endHeadWrite k q w s) := by
  cases w with
  | good =>
    have written : FetchPathServed (setNotice k (s.notices[k].headWritten q s.time.timebase) s) := h.frame rfl id
    exact evalReady_path k written
  | busError => exact faultNotices_path k h

theorem writeEnd_path {k : NoticeRingId} {w : WriteEnd} (h : FetchPathServed s)
    (e : exec (.writeEnd k w) s = .next t) : FetchPathServed t := by
  have written : ∀ (q : Queued) {u : State}, FetchPathServed u → FetchPathServed (endWriteInMemory q w u) := fun q u g =>
    g.frame (by simp) (by simp)
  cases e
  split
  · exact written _ (h.frame rfl id)
  · exact endHeadWrite_path k _ w (written _ h)
  · exact h

/-- A good setup load begins no fetch; the core is RUNNING only with the choice after it (R162). -/
theorem loadSetup_path (b : SetupConfig) (h : FetchPathServed s) : FetchPathServed (loadSetup b s) := by
  unfold loadSetup
  refine h.settled ?_
  split
  · exact (configure_begins b s).trans (.frame (by simp))
  · exact configure_begins b s

theorem setupReadEnd_path {i : Nat} {r : SetupEnd} (h : FetchPathServed s)
    (e : exec (.setupReadEnd i r) s = .next t) : FetchPathServed t := by
  cases e
  split
  · dsimp only
    split
    · exact h.frame rfl id
    · split
      · exact loadSetup_path _ (h.frame rfl id)
      · exact h.frame rfl fun now => by cases now
  · exact h

theorem endWork_path (x : Item) (h : FetchPathServed s) : FetchPathServed (endWork x s) := by
  unfold endWork
  split
  · split
    · split
      · exact countPass_path _ _ (h.frame (by simp) (by simp))
      · have dormant : NoFetchBegins s (dropStarted (enterDormant x.slot s)) :=
          (enterDormant_ends x.slot s).begins.trans (.frame rfl)
        exact h.settled ((dormant.trans (offerFiring_begins _ _ _ _)).trans (countPass_ends _ _ _).begins)
    · exact h
  · exact h

theorem workEnd_path (h : FetchPathServed s) (e : exec .workEnd s = .next t) : FetchPathServed t := by
  cases e
  split
  · split
    · exact h.frame rfl id
    · exact endWork_path _ (h.frame rfl id)
  · exact h

theorem haltInAssert_path (h : FetchPathServed s) (e : exec .haltInAssert s = .next t) : FetchPathServed t := by
  cases e
  split
  · exact h
  · split
    · exact h.frame rfl id
    · exact latch_path rfl h

/-- The happenings of the lines, the work that begins, and the reference clock leave the intake and the control unit
alone. -/
theorem elsewhere_path {c : Instr} (h : FetchPathServed s)
    (which : (∃ l, c = .pulseEnd l ∨ c = .frameStart l ∨ c = .densityClock l) ∨ c = .take ∨ c = .referenceClockPeriod)
    (e : exec c s = .next t) : FetchPathServed t := by
  obtain ⟨l, line⟩ | rfl | rfl := which
  · obtain rfl | rfl | rfl := line
    all_goals
      cases e
      split
      · split
        · exact h.frame rfl id
        · exact h
      all_goals exact h
  · cases e
    split
    · exact h.frame rfl id
    all_goals exact h
  · cases e
    split
    · exact h
    · exact h.frame rfl id

/-! ### Every command -/

theorem exec_path {c : Instr} (h : FetchPathServed s) (e : exec c s = .next t) : FetchPathServed t := by
  cases carries : carried c with
  | some p =>
    obtain ⟨hd, m⟩ := p
    rw [exec_carried carries] at e
    cases e
    exact endFetch_path (fun r => takeFetched_begins hd _ r s) h
  | none =>
    cases c with
    | controlStart => cases e; exact hostWrite_path h (controlStart_path h)
    | halt => cases e; exact hostWrite_path h (latch_path rfl h)
    | resume m => cases e; exact hostWrite_path h (resumeAlone_path m h)
    | coreReset => cases e; exact hostWrite_path h (controlReset_path h)
    | clearFlags => cases e; exact hostWrite_path h (h.frame rfl id)
    | noticeRingReset k =>
      cases e
      exact hostWrite_path h (whileRunning_path h (h.settled (resetNoticeRing_begins k s)))
    | commandRingReset r =>
      cases e
      exact hostWrite_path h (whileRunning_path h (h.settled (resetCommandRing_begins false r s)))
    | postIndexWrite r v => cases e; exact hostWrite_path h (writePost_path r v h)
    | releaseIndexWrite k v => cases e; exact hostWrite_path h (writeRelease_path k v h)
    | intStatusWrite v => cases e; exact hostWrite_path h (writeIntStatus_path v h)
    | intEnableWrite v => cases e; exact hostWrite_path h (h.frame rfl id)
    | registerWrite o v n =>
      cases e
      split
      · exact hostWrite_path h (writeRegister_path _ v h)
      · exact h
    | powerOn => cases e; exact fullReset_path h
    | resetNAssert => cases e; exact fullReset_path (h.frame rfl id)
    | resetNRelease =>
      cases e
      split
      · exact h.frame rfl id
      · exact h
    | haltInAssert => exact haltInAssert_path h e
    | haltInRelease => cases e; exact h.frame rfl id
    | firing => exact firing_path h e
    | pulseEnd l => exact elsewhere_path h (.inl ⟨l, .inl rfl⟩) e
    | frameStart l => exact elsewhere_path h (.inl ⟨l, .inr (.inl rfl)⟩) e
    | densityClock l => exact elsewhere_path h (.inl ⟨l, .inr (.inr rfl)⟩) e
    | secondBoundary => exact secondBoundary_path h e
    | sample c v => exact sample_path h e
    | holdoffExpiry k =>
      cases e
      split
      · exact h
      · exact evalReady_path k h
    | deadlineExpiry r => exact deadlineExpiry_path h e
    | fetchEnd f pins => exact fetchEnd_path h e
    | writeEnd k w => exact writeEnd_path h e
    | setupReadEnd i r => exact setupReadEnd_path h e
    | take => exact elsewhere_path h (.inr (.inl rfl)) e
    | workEnd => exact workEnd_path h e
    | referenceClockPeriod => exact elsewhere_path h (.inr (.inr rfl)) e
    | _ => cases carries

/-- Settles O57: a command leaves the fetch path as it was, or has the arbiter's choice as its last effect. -/
theorem stepKeepsTheFetchPathServed : Obligations.StepKeepsTheFetchPathServed := by
  intro s t h e
  unfold step at e
  split at e
  · cases e
    exact h
  · rename_i _ cs _
    have queued : FetchPathServed { s with pending := cs } := h.frame rfl id
    exact exec_path queued e

end Sys2Proof.Machine
end

section
/-! WAIT, NOP and the deadline of a WAIT in flight (R151 to R153, R155). -/

namespace Sys2Proof.Machine

open Sys2Proof

/-! ### NOP -/

/-- Settles O8: the owner of a NOP does nothing and completes it at once. -/
theorem nopChangesOnlyTheTakeIndex : Obligations.NopChangesOnlyTheTakeIndex :=
  fun _ _ _ _ fetching => answered_of_op id fetching (fun _ => rfl) rfl fun _ _ => rfl

/-! ### The deadline -/

/-- The end of a WAIT whose entry stands: its ring is served again, and its notice ring handed the completion (R153). -/
theorem endWait_mem {r : CommandRingId} {k : NoticeRingId} {w : WaitInFlight} {s : State} (st : Status)
    (bound : s.intake.rings[r].bound? = some k)
    (mem : { kind := .wait, ident := w.ident, takeIndex := w.takeIndex } ∈ s.intake.rings[r].outstanding) :
    endWait r w st s =
      setNotice k (s.notices[k].answered (.completion r st w.ident w.takeIndex (s.slots[w.slot].result false)))
        (setRing r
          { s.intake.rings[r] with
            wait := none, state := if s.notices[k].state = .faulted then .stalled else .active
            outstanding := s.intake.rings[r].outstanding.erase
              { kind := .wait, ident := w.ident, takeIndex := w.takeIndex } } s) := by
  have own : (setRing r { s.intake.rings[r] with wait := none, state := servedState s.intake.rings[r] s } s).intake.rings[r]
      = { s.intake.rings[r] with wait := none, state := servedState s.intake.rings[r] s } := by
    rw [setRing_get, if_pos rfl]
  unfold endWait
  dsimp only
  rw [completeOwed_mem (k := k) (by rw [own]; exact mem) (by rw [own]; exact bound), own, setRing_setRing,
    bound_servedState bound]
  rfl

/-- Settles O9: the WAIT ends with its completion, and the choice follows. -/
theorem deadlineEndsTheWait : Obligations.DeadlineEndsTheWait := by
  rintro r s k w d x bound wait deadline reached mem rfl
  have due : s.time.reached d = true := decide_eq_true reached
  refine ⟨_, ?_, settle_arbiterOnly _⟩
  rw [← endWait_mem .timedOut bound mem]
  show execDeadlineExpiry r s = _
  simp only [execDeadlineExpiry, wait, deadline, due, if_true]

/-! ### WAIT -/

section

variable {h : Header} {timeout : BitVec 64} {s : State} {e : Event} (c : CommandRef)
  (event : s.slots[h.slot].event = some e) (generation : s.slots[h.slot].generation = h.generation)

include event generation

theorem takeWait_long (long : 2 ^ 40 < timeout.toNat) : takeWait c h timeout s = answerSlot h.slot .badParam s := by
  rw [takeWait, checked_loaded _ event generation]
  exact if_pos long

theorem takeWait_dormant (short : timeout.toNat ≤ 2 ^ 40) (run : e.run = .dormant) :
    takeWait c h timeout s = answerSlot h.slot .ok s := by
  rw [takeWait, checked_loaded _ event generation]
  exact (if_neg (Nat.not_lt.mpr short)).trans (if_pos run)

theorem takeWait_blocks (short : timeout.toNat ≤ 2 ^ 40) (run : e.run ≠ .dormant) :
    takeWait c h timeout s = (blockOnWait c h timeout s, .owe .wait) := by
  rw [takeWait, checked_loaded _ event generation]
  exact (if_neg (Nat.not_lt.mpr short)).trans (if_neg run)

end

/-- The deadline as R152 states it: the timebase plus the timeout, at most 2^64-1. -/
theorem waitDeadline_eq (t : Tick) (timeout : BitVec 64) :
    waitDeadline t timeout =
      if timeout = 0 then none
      else if t.toNat + timeout.toNat < 2 ^ 64 then some (t + timeout)
      else some (BitVec.allOnes 64) := by
  unfold waitDeadline
  split
  · rfl
  · split
    · rename_i below
      rw [satTick_eq]
      rw [BitVec.toNat_add, Nat.mod_eq_of_lt below]
      omega
    · rename_i beyond
      rw [satTick_eq]
      rw [BitVec.toNat_allOnes]
      omega

/-- A command ring whose WAIT `w` has been put in flight, its completion owed (R151, R152). -/
def CommandRing.waiting (w : WaitInFlight) (x : CommandRing) : CommandRing :=
  { x with state := .blocked, wait := some w
           outstanding := x.outstanding ++ [{ kind := .wait, ident := w.ident, takeIndex := w.takeIndex }] }

/-- The WAIT that a record of header `h` puts in flight on ring `r` (R152 step 5). -/
def State.waitOf (s : State) (r : CommandRingId) (h : Header) (timeout : BitVec 64) : WaitInFlight :=
  { slot := h.slot, generation := h.generation, ident := h.ident, takeIndex := s.intake.rings[r].nextTake
    deadline := waitDeadline s.time.timebase timeout }

/-- The end of a fetch that brings a WAIT on a slot that is not DORMANT (R146, R152 step 5). -/
theorem wait_blocks {h : Header} {timeout : BitVec 64} {s : State} {r : CommandRingId} {k : NoticeRingId} {e : Event}
    (fetching : Fetching s r k) (event : s.slots[h.slot].event = some e)
    (generation : s.slots[h.slot].generation = h.generation) (short : timeout.toNat ≤ 2 ^ 40) (run : e.run ≠ .dormant) :
    commandFetched h (.wait timeout) s =
      settle (afterTake r k [] (setRing r (s.intake.rings[r].waiting (s.waitOf r h timeout)) s)) := by
  have taken := takeWait_blocks (h := h) (timeout := timeout) (s := advanceTake r s)
    { ring := r, ident := h.ident, takeIndex := s.intake.rings[r].nextTake } (by rw [advanceTake_eq]; exact event)
    (by rw [advanceTake_eq]; exact generation) short run
  rw [commandFetched, endFetch_live fetching]
  congr 1
  refine stallIfFaulted_afterTake (by rw [setRing_get, if_pos rfl]; exact fetching.bound) ?_
  have answered : takeFetched h (some (.wait timeout)) r s =
      addOwed r { kind := .wait, ident := h.ident, takeIndex := s.intake.rings[r].nextTake }
        (blockOnWait { ring := r, ident := h.ident, takeIndex := s.intake.rings[r].nextTake } h timeout (advanceTake r s)) := by
    simp only [takeFetched, takeCommand, taken]
    rfl
  rw [answered]
  ext1 <;> simp [addOwed, blockOnWait, setRing, advanceTake_intake, NoticeRing.handed, CommandRing.nextTake,
    CommandRing.waiting, State.waitOf]

/-- A BLOCKED ring is as its command left it after the arbiter's choice. -/
theorem blocked_ring (r : CommandRingId) (k : NoticeRingId) (w : WaitInFlight) (s : State) :
    (settle (afterTake r k [] (setRing r (s.intake.rings[r].waiting w) s))).intake.rings[r] =
      { s.intake.rings[r].waiting w with take := s.intake.rings[r].nextTake, fetch := none } := by
  have taken : (afterTake r k [] (setRing r (s.intake.rings[r].waiting w) s)).intake.rings[r] =
      { s.intake.rings[r].waiting w with take := s.intake.rings[r].nextTake, fetch := none } := by
    rw [afterTake_ring, if_pos rfl, setRing_get, if_pos rfl]
    rfl
  rw [settle_ring_of_not_eligible (by rw [taken]; rfl), taken]

/-- Settles O7: the checks in their order, and the ring that blocks. -/
theorem waitCompletesAtOnceOrBlocksItsRing : Obligations.WaitCompletesAtOnceOrBlocksItsRing := by
  refine ⟨fun h timeout s r k st fetching first => ?_, fun h timeout s r k e fetching event generation short run => ?_⟩
  · refine answered_of_refusal fetching fun c x => ?_
    show takeWait c h timeout { s with intake := x } = _
    cases event : s.slots[h.slot].event with
    | none =>
      rw [event] at first
      rw [first]
      exact checked_free _ event
    | some e =>
      rw [event] at first
      dsimp only at first
      split at first
      · rename_i stale
        rw [first]
        exact checked_stale _ event stale
      · rename_i same
        have generation := not_not.mp same
        split at first
        · rename_i long
          rw [first]
          exact takeWait_long c event generation long
        · rename_i short
          rw [first.2]
          exact takeWait_dormant c event generation (Nat.not_lt.mp short) first.1
  · have ring := blocked_ring r k (s.waitOf r h timeout) s
    refine ⟨_, congrArg Host.Outcome.next (wait_blocks fetching event generation short run), ?_, ?_, ?_⟩
    · ext1 <;> simp [afterTake]
    · rw [ring, State.waitOf, waitDeadline_eq]
      rfl
    · rw [ring]
      rfl

end Sys2Proof.Machine
end

section
/-! Writes of the control unit's registers (R160, R162, R169, R171 to R173). -/

namespace Sys2Proof.Machine

open Sys2Proof

/-! ### Writes under RESET_N -/

theorem hostWrite_underReset {s : State} (f : State → State) (asserted : s.control.resetAsserted = true) :
    hostWrite f s = s := by
  rw [hostWrite, if_pos asserted]

/-- A write of any offset and size reaches the block as one register write (R178). -/
theorem exec_registerWrite_eq (o : BitVec 6) (v : BitVec 32) (n : Nat) (s : State) :
    exec (.registerWrite o v n) s = .next (hostWrite (if n = 4 then writeRegister o.toNat v else id) s) := by
  show execRegisterWrite o v n s = _
  rw [execRegisterWrite]
  by_cases word : n = 4
  · rw [if_pos word, if_pos word]
  · rw [if_neg word, if_neg word, hostWrite, id_eq, ite_self]

/-! ### Writes that reach the block -/

theorem exec_controlStart {s : State} (released : s.control.resetAsserted = false) :
    exec .controlStart s = .next (controlStart s) :=
  congrArg Host.Outcome.next (hostWrite_open controlStart released)

theorem exec_coreReset {s : State} (released : s.control.resetAsserted = false) :
    exec .coreReset s = .next (controlReset s) :=
  congrArg Host.Outcome.next (hostWrite_open controlReset released)

theorem exec_clearFlags {s : State} (released : s.control.resetAsserted = false) :
    exec .clearFlags s = .next (controlClear s) :=
  congrArg Host.Outcome.next (hostWrite_open controlClear released)

theorem exec_intStatusWrite {s : State} (v : BitVec 32) (released : s.control.resetAsserted = false) :
    exec (.intStatusWrite v) s = .next (writeIntStatus v s) :=
  congrArg Host.Outcome.next (hostWrite_open (writeIntStatus v) released)

theorem exec_intEnableWrite {s : State} (v : BitVec 32) (released : s.control.resetAsserted = false) :
    exec (.intEnableWrite v) s = .next (writeIntEnable v s) :=
  congrArg Host.Outcome.next (hostWrite_open (writeIntEnable v) released)

theorem controlStart_off {s : State} (off : s.control.core = .off) :
    controlStart s =
      { s with control :=
          { s.control with
            core := .loading
            setupReads := s.control.setupReads ++ [{ address := s.control.setupAddress, abandoned := false }] } } :=
  if_pos off

theorem controlStart_ignored {s : State} (on : s.control.core ≠ .off) :
    controlStart s = { s with control := { s.control with startIgnored := true } } :=
  if_neg on

/-- A write to INT_STATUS keeps FAULT exactly where bit 2 is 0 (R172). -/
theorem writeIntStatus_eq (v : BitVec 32) (s : State) :
    writeIntStatus v s = { s with control := { s.control with fault := s.control.fault && !v.getLsbD 2 } } := by
  cases clear : v.getLsbD 2
  · rw [writeIntStatus, clear, if_neg Bool.false_ne_true, Bool.not_false, Bool.and_true]
  · rw [writeIntStatus, clear, if_pos rfl, Bool.not_true, Bool.and_false]

/-- A write to INT_ENABLE stores the four low bits (R173). -/
theorem writeIntEnable_eq (v : BitVec 32) (s : State) :
    writeIntEnable v s = { s with control := { s.control with enable := v.setWidth 4 } } := by
  have low : v.extractLsb' 0 4 = v.setWidth 4 := BitVec.eq_of_toNat_eq rfl
  rw [← low]
  rfl

/-- Settles O44: each write by its equation, and every register write is ignored under RESET_N. -/
theorem controlUnitWrites : Obligations.ControlUnitWrites := by
  refine ⟨fun s v released => ⟨fun off => ?_, fun on => ?_, exec_clearFlags released, ?_, ?_⟩,
    fun c s asserted write => ?_⟩
  · rw [exec_controlStart released, controlStart_off off]
  · rw [exec_controlStart released, controlStart_ignored on]
  · rw [exec_intStatusWrite v released, writeIntStatus_eq]
  · rw [exec_intEnableWrite v released, writeIntEnable_eq]
  · have ignored : ∀ f, exec c s = .next (hostWrite f s) → exec c s = .next s := fun f reaches => by
      rw [reaches, hostWrite_underReset f asserted]
    obtain rfl | rfl | ⟨m, rfl⟩ | rfl | rfl | ⟨k, rfl⟩ | ⟨r, rfl⟩ | ⟨r, v, rfl⟩ | ⟨k, v, rfl⟩ | ⟨v, rfl⟩ | ⟨v, rfl⟩ |
      ⟨o, v, n, rfl⟩ := write
    on_goal 12 => exact ignored _ (exec_registerWrite_eq o v n s)
    all_goals exact ignored _ rfl

end Sys2Proof.Machine
end

section
/-! Reads of the register window: a word is its fields, one above the other (R171 to R173, R178, Table 10-16). -/

namespace Sys2Proof.Machine

open Sys2Proof

/-! ### Words of fields -/

/-- The number whose fields, from the lowest digit up, have the widths and values listed. -/
def fieldSum : List (Nat × Nat) → Nat
  | [] => 0
  | f :: l => f.2 + 2 ^ f.1 * fieldSum l

/-- The position of field `j`: how many digits the fields below it take. -/
def fieldPosition (l : List (Nat × Nat)) (j : Nat) : Nat := ((l.take j).map Prod.fst).sum

theorem fieldSum_lt {l : List (Nat × Nat)} (fit : ∀ f ∈ l, f.2 < 2 ^ f.1) :
    fieldSum l < 2 ^ (l.map Prod.fst).sum := by
  induction l with
  | nil => exact Nat.one_pos
  | cons f l ih =>
    have rest : fieldSum l + 1 ≤ 2 ^ (l.map Prod.fst).sum := ih fun g hg => fit g (List.mem_cons_of_mem f hg)
    calc f.2 + 2 ^ f.1 * fieldSum l < 2 ^ f.1 + 2 ^ f.1 * fieldSum l :=
          Nat.add_lt_add_right (fit f List.mem_cons_self) _
      _ = 2 ^ f.1 * (fieldSum l + 1) := by rw [Nat.mul_succ, Nat.add_comm]
      _ ≤ 2 ^ f.1 * 2 ^ (l.map Prod.fst).sum := Nat.mul_le_mul_left _ rest
      _ = 2 ^ ((f :: l).map Prod.fst).sum := by rw [List.map_cons, List.sum_cons, Nat.pow_add]

/-- The digits at the position of field `j` are its value. -/
theorem fieldSum_field {l : List (Nat × Nat)} (fit : ∀ f ∈ l, f.2 < 2 ^ f.1) {j w x : Nat}
    (field : l[j]? = some (w, x)) :
    fieldSum l / 2 ^ fieldPosition l j % 2 ^ w = x := by
  induction l generalizing j with
  | nil => exact absurd field (by simp)
  | cons f l ih =>
    cases j with
    | zero =>
      obtain rfl : f = (w, x) := by simpa using field
      show (x + 2 ^ w * fieldSum l) / 1 % 2 ^ w = x
      rw [Nat.div_one, Nat.add_mul_mod_self_left, Nat.mod_eq_of_lt (fit (w, x) List.mem_cons_self)]
    | succ j =>
      have position : fieldPosition (f :: l) (j + 1) = f.1 + fieldPosition l j := by simp [fieldPosition]
      rw [position, Nat.pow_add, ← Nat.div_div_eq_div_mul, fieldSum, Nat.add_mul_div_left _ _ (by positivity),
        Nat.div_eq_of_lt (fit f List.mem_cons_self), Nat.zero_add]
      exact ih (fun g hg => fit g (List.mem_cons_of_mem f hg)) (by simpa using field)

theorem toNat_fieldSum {l : List (Nat × Nat)} {n : Nat} (fit : ∀ f ∈ l, f.2 < 2 ^ f.1) (wide : (l.map Prod.fst).sum ≤ n) :
    (BitVec.ofNat n (fieldSum l)).toNat = fieldSum l :=
  Nat.mod_eq_of_lt ((fieldSum_lt fit).trans_le (Nat.pow_le_pow_right Nat.two_pos wide))

/-! ### The fields of STATUS -/

theorem CoreState.code_lt (x : CoreState) : x.code < 2 ^ 2 := by cases x <;> decide

theorem CommandRingState.code_lt (x : CommandRingState) : x.code < 2 ^ 3 := by cases x <;> decide

theorem NoticeRingState.code_lt (x : NoticeRingState) : x.code < 2 ^ 2 := by cases x <;> decide

theorem bitAt_eq (i : Nat) (b : Bool) : bitAt i b = 2 ^ i * b.toNat := by cases b <;> simp [bitAt]

/-- The fields of STATUS (Table 10-16). -/
def State.statusFields (s : State) : List (Nat × Nat) :=
  [(2, s.control.core.code), (1, s.control.software.toNat), (1, s.control.pin.toNat), (1, s.control.haltIn.toNat),
    (1, s.control.badIndex.toNat), (1, s.control.startIgnored.toNat), (1, s.control.resumeRefused.toNat),
    (3, s.intake.rings[(0 : CommandRingId)].state.code), (3, s.intake.rings[(1 : CommandRingId)].state.code),
    (3, s.intake.rings[(2 : CommandRingId)].state.code), (3, s.intake.rings[(3 : CommandRingId)].state.code),
    (2, s.notices[(0 : NoticeRingId)].state.code), (2, s.notices[(1 : NoticeRingId)].state.code)]

theorem statusFields_fit (s : State) : ∀ f ∈ s.statusFields, f.2 < 2 ^ f.1 := by
  simp only [State.statusFields, List.forall_mem_cons, CoreState.code_lt, CommandRingState.code_lt,
    NoticeRingState.code_lt, pow_one, Bool.toNat_lt, List.not_mem_nil, false_implies, implies_true, and_self]

theorem statusFields_width (s : State) : (s.statusFields.map Prod.fst).sum = 24 := by simp [State.statusFields]

theorem readRegister_status (s : State) : s.readRegister 1 = BitVec.ofNat 32 (fieldSum s.statusFields) := by
  show s.statusWord = _
  rw [State.statusWord]
  refine congrArg (BitVec.ofNat 32) ?_
  simp only [State.statusFields, fieldSum, bitAt_eq]
  ring

theorem status_toNat (s : State) : (s.readRegister 1).toNat = fieldSum s.statusFields := by
  rw [readRegister_status, toNat_fieldSum (statusFields_fit s) (by rw [statusFields_width]; decide)]

theorem status_lt (s : State) : (s.readRegister 1).toNat < 2 ^ 24 := by
  rw [status_toNat, ← statusFields_width s]
  exact fieldSum_lt (statusFields_fit s)

/-- The field of STATUS of width `w` at position `p`. -/
theorem status_field {s : State} (j : Nat) {p w x : Nat} (field : s.statusFields[j]? = some (w, x))
    (position : fieldPosition s.statusFields j = p) : (s.readRegister 1).extractLsb' p w = BitVec.ofNat w x := by
  refine BitVec.eq_of_toNat_eq ?_
  have digits := fieldSum_field (statusFields_fit s) field
  rw [extract_toNat, status_toNat, ← position, digits, BitVec.toNat_ofNat]
  exact (Nat.mod_eq_of_lt (statusFields_fit s (w, x) (List.mem_of_getElem? field))).symm

theorem getLsbD_of_extract {n : Nat} {v : BitVec n} {i : Nat} {b : Bool}
    (digit : v.extractLsb' i 1 = BitVec.ofNat 1 b.toNat) : v.getLsbD i = b := by
  have bit := congrArg (BitVec.getLsbD · 0) digit
  rw [BitVec.getLsbD_extractLsb'] at bit
  cases b <;> simpa using bit

theorem status_bit {s : State} (j : Nat) {p : Nat} {b : Bool} (field : s.statusFields[j]? = some (1, b.toNat))
    (position : fieldPosition s.statusFields j = p) : (s.readRegister 1).getLsbD p = b :=
  getLsbD_of_extract (status_field j field position)

theorem status_commandRing (s : State) (r : CommandRingId) :
    (s.readRegister 1).extractLsb' (8 + 3 * r.val) 3 = BitVec.ofNat 3 s.intake.rings[r].state.code :=
  match r with
  | 0 => status_field 7 rfl (by simp [fieldPosition, State.statusFields])
  | 1 => status_field 8 rfl (by simp [fieldPosition, State.statusFields])
  | 2 => status_field 9 rfl (by simp [fieldPosition, State.statusFields])
  | 3 => status_field 10 rfl (by simp [fieldPosition, State.statusFields])

theorem status_noticeRing (s : State) (k : NoticeRingId) :
    (s.readRegister 1).extractLsb' (20 + 2 * k.val) 2 = BitVec.ofNat 2 s.notices[k].state.code :=
  match k with
  | 0 => status_field 11 rfl (by simp [fieldPosition, State.statusFields])
  | 1 => status_field 12 rfl (by simp [fieldPosition, State.statusFields])

/-! ### INT_STATUS and INTR -/

theorem intBits_getLsbD (s : State) :
    s.intBits.getLsbD 0 = s.notices[(0 : NoticeRingId)].ready ∧ s.intBits.getLsbD 1 = s.notices[(1 : NoticeRingId)].ready ∧
      s.intBits.getLsbD 2 = s.control.fault ∧ s.intBits.getLsbD 3 = s.halted := by
  rw [State.intBits]
  generalize s.notices[(0 : NoticeRingId)].ready = a, s.notices[(1 : NoticeRingId)].ready = b, s.control.fault = c,
    s.halted = d
  revert a b c d
  decide

theorem intStatus_getLsbD (s : State) {i : Nat} (h : i < 4) : (s.readRegister 2).getLsbD i = s.intBits.getLsbD i := by
  show (s.intBits.setWidth 32).getLsbD i = _
  rw [BitVec.getLsbD_setWidth, decide_eq_true (by omega), Bool.true_and]

theorem intStatus_lt (s : State) : (s.readRegister 2).toNat < 16 := by
  show (s.intBits.setWidth 32).toNat < 16
  rw [BitVec.toNat_setWidth_of_le (by decide)]
  exact s.intBits.isLt

theorem and_ne_zero_iff {n : Nat} (x y : BitVec n) :
    x &&& y ≠ 0 ↔ ∃ i, i < n ∧ x.getLsbD i = true ∧ y.getLsbD i = true := by
  constructor
  · contrapose!
    refine fun apart => BitVec.eq_of_getLsbD_eq fun i hi => ?_
    simpa [BitVec.getLsbD_and] using apart i hi
  · rintro ⟨i, -, hx, hy⟩ zero
    have bit := congrArg (BitVec.getLsbD · i) zero
    simp [hx, hy] at bit

theorem intr_iff (s : State) :
    s.intr = true ↔ ∃ i, i < 4 ∧ (s.readRegister 2).getLsbD i = true ∧ s.control.enable.getLsbD i = true := by
  rw [State.intr, decide_eq_true_iff, and_ne_zero_iff]
  refine exists_congr fun i => and_congr_right fun hi => ?_
  rw [intStatus_getLsbD s hi]

/-! ### Index registers and narrow reads -/

theorem postWord_toNat {x : CommandRing} (bound : x.post < 4096) :
    (postWord x).toNat = if x.config.isSome then x.post else 0 := by
  rw [postWord]
  split
  · exact Nat.mod_eq_of_lt (by omega)
  · rfl

theorem releaseWord_toNat {x : NoticeRing} (bound : x.releaseIndex < 4096) :
    (releaseWord x).toNat = if x.config.isSome then x.releaseIndex else 0 := by
  rw [releaseWord]
  split
  · exact Nat.mod_eq_of_lt (by omega)
  · rfl

theorem readRegister_post (s : State) (r : CommandRingId) : s.readRegister ⟨7 + r.val, by omega⟩ =
    postWord s.intake.rings[r] :=
  match r with
  | 0 | 1 | 2 | 3 => rfl

theorem readRegister_release (s : State) (k : NoticeRingId) : s.readRegister ⟨11 + k.val, by omega⟩ =
    releaseWord s.notices[k] :=
  match k with
  | 0 | 1 => rfl

theorem readRegister_setupAddress (s : State) :
    (s.readRegister 6 ++ s.readRegister 5 : BitVec 64) = s.control.setupAddress := BitVec.extractLsb'_append_extractLsb'

theorem readBytes_eq (s : State) {w : Fin 16} {i n : Nat} {o : BitVec 6} (within : i + n ≤ 4)
    (offset : o.toNat = 4 * w.val + i) : s.readBytes o n = (s.readRegister w).toNat / 2 ^ (8 * i) % 2 ^ (8 * n) := by
  obtain rfl | bytes := Nat.eq_zero_or_pos n
  · rw [State.readBytes, Nat.mul_zero, Nat.pow_zero, Nat.mod_one, Nat.mod_one]
  · have word : (⟨o.toNat / 4, by omega⟩ : Fin 16) = w := Fin.ext (by show o.toNat / 4 = w.val; omega)
    have byte : o.toNat % 4 = i := by omega
    rw [State.readBytes, word, byte, Nat.shiftRight_eq_div_pow]

/-- Settles O47: STATUS and INT_STATUS field by field, the other registers by their words. -/
theorem registerWindowReads : Obligations.RegisterWindowReads := by
  intro s
  obtain ⟨ready0, ready1, fault, halted⟩ := intBits_getLsbD s
  refine ⟨rfl, rfl, rfl, rfl, rfl, rfl, readRegister_setupAddress s, fun r w place bound => ?_, fun k w place bound => ?_,
    ⟨?_, ?_, ?_, ?_, intStatus_lt s⟩,
    ⟨?_, status_bit 1 rfl rfl, status_bit 2 rfl rfl, status_bit 3 rfl rfl, status_bit 4 rfl rfl, status_bit 5 rfl rfl,
      status_bit 6 rfl rfl, fun r => ?_, fun k => ?_, status_lt s⟩, intr_iff s, fun w i n o => readBytes_eq s⟩
  · rw [← postWord_toNat bound, ← readRegister_post s r]
    exact congrArg (fun x => (s.readRegister x).toNat) (Fin.ext place)
  · rw [← releaseWord_toNat bound, ← readRegister_release s k]
    exact congrArg (fun x => (s.readRegister x).toNat) (Fin.ext place)
  · rw [intStatus_getLsbD s (by decide), ready0]
  · rw [intStatus_getLsbD s (by decide), ready1]
  · rw [intStatus_getLsbD s (by decide), fault]
  · rw [intStatus_getLsbD s (by decide), halted]
  · refine (status_field 0 rfl rfl).trans ?_
    cases s.control.core <;> rfl
  · rw [status_commandRing]
    cases s.intake.rings[r].state <;> rfl
  · rw [status_noticeRing]
    cases s.notices[k].state <;> rfl

end Sys2Proof.Machine
end

section
/-! Writes of the register window (R160, R170, R178, Table 10-15). -/

namespace Sys2Proof.Machine

open Sys2Proof

/-! ### The register at an offset -/

theorem exec_registerWrite_word {s : State} (o : BitVec 6) (v : BitVec 32) (released : s.control.resetAsserted = false) :
    exec (.registerWrite o v 4) s = .next (writeRegister o.toNat v s) := by
  rw [exec_registerWrite_eq, if_pos rfl, hostWrite_open _ released]

theorem exec_registerWrite_narrow (o : BitVec 6) (v : BitVec 32) {n : Nat} (narrow : n ≠ 4) (s : State) :
    exec (.registerWrite o v n) s = .next s := by
  rw [exec_registerWrite_eq, if_neg narrow, hostWrite, id_eq, ite_self]

theorem writeRegister_post (r : CommandRingId) : writeRegister (0x1C + 4 * r.val) = writePost r :=
  match r with
  | 0 | 1 | 2 | 3 => rfl

theorem writeRegister_release (k : NoticeRingId) : writeRegister (0x2C + 4 * k.val) = writeRelease k :=
  match k with
  | 0 | 1 => rfl

theorem exec_postRegisterWrite {o : BitVec 6} {r : CommandRingId} (offset : o.toNat = 0x1C + 4 * r.val) (v : BitVec 32)
    (s : State) : exec (.registerWrite o v 4) s = exec (.postIndexWrite r v) s := by
  rw [exec_registerWrite_eq, if_pos rfl, offset, writeRegister_post]
  rfl

theorem exec_releaseRegisterWrite {o : BitVec 6} {k : NoticeRingId} (offset : o.toNat = 0x2C + 4 * k.val) (v : BitVec 32)
    (s : State) : exec (.registerWrite o v 4) s = exec (.releaseIndexWrite k v) s := by
  rw [exec_registerWrite_eq, if_pos rfl, offset, writeRegister_release]
  rfl

/-- A write of the low half of the setup address stores it and keeps the high half (R162). -/
theorem writeSetupAddress_low_reads (v : BitVec 32) (s : State) :
    (writeSetupAddress false v s).readRegister 5 = v ∧
      (writeSetupAddress false v s).readRegister 6 = s.readRegister 6 :=
  ⟨BitVec.extractLsb'_append_eq_right, BitVec.extractLsb'_append_eq_left⟩

/-- A write of the high half of the setup address stores it and keeps the low half (R162). -/
theorem writeSetupAddress_high_reads (v : BitVec 32) (s : State) :
    (writeSetupAddress true v s).readRegister 6 = v ∧ (writeSetupAddress true v s).readRegister 5 = s.readRegister 5 :=
  ⟨BitVec.extractLsb'_append_eq_left, BitVec.extractLsb'_append_eq_right⟩

/-! ### The low digits of a written word -/

/-- An action whose digit is one of the `n` low digits depends on these alone. -/
theorem whenBit_low (v : BitVec 32) {i n : Nat} (h : i < n) (wide : n ≤ 32) (f : State → State) (s : State) :
    whenBit ((v.extractLsb' 0 n).setWidth 32) i f s = whenBit v i f s := by
  have digit : ((v.extractLsb' 0 n).setWidth 32).getLsbD i = v.getLsbD i := by
    rw [BitVec.getLsbD_setWidth, BitVec.getLsbD_extractLsb', Nat.zero_add, decide_eq_true h, Bool.true_and,
      decide_eq_true (h.trans_le wide), Bool.true_and]
  rw [whenBit, whenBit, digit]

/-! ### CONTROL -/

/-- The actions of a CONTROL write whose five low digits are `low`, with the mode `m` (R160). -/
def controlActions (low : BitVec 5) (m : ResumeMode) (s : State) : State :=
  let v : BitVec 32 := low.setWidth 32
  let a := whenBit v 1 controlHalt (whenBit v 0 controlStart s)
  let b := whenBit v 4 controlClear (whenBit v 3 controlReset (whenBit v 2 (controlResume m) a))
  whenBit v 2 (fun t => if a.resumes then settle t else t) b

theorem writeControl_eq_actions (v : BitVec 32) (s : State) :
    writeControl v s = controlActions (v.extractLsb' 0 5) (resumeModeOf v) s := by
  unfold controlActions
  simp (disch := decide) only [whenBit_low, writeControl, Bool.and_eq_true, ite_and]
  rfl

theorem exec_controlWrite {s : State} {v : BitVec 32} {low : BitVec 5} (digits : v.extractLsb' 0 5 = low)
    (released : s.control.resetAsserted = false) :
    exec (.registerWrite 0x00 v 4) s = .next (controlActions low (resumeModeOf v) s) := by
  rw [← digits, ← writeControl_eq_actions]
  exact exec_registerWrite_word 0x00 v released

theorem resumes_iff (s : State) : s.resumes = true ↔ s.halted = true ∧ s.control.haltIn = false := by
  rw [State.resumes, Bool.and_eq_true, Bool.not_eq_true']

theorem controlStart_resetAsserted (s : State) : (controlStart s).control.resetAsserted = s.control.resetAsserted := by
  unfold controlStart
  split <;> rfl

theorem controlHalt_resetAsserted (s : State) : (controlHalt s).control.resetAsserted = s.control.resetAsserted := by
  rw [controlHalt, latch_control]

/-! ### QUEUE_RESET -/

theorem resetRings_low (v : BitVec 32) (s : State) : resetRings ((v.extractLsb' 0 6).setWidth 32) s = resetRings v s := by
  unfold resetRings
  simp (disch := decide) only [whenBit_low]

theorem exec_queueResetWrite {s : State} (v : BitVec 32) (released : s.control.resetAsserted = false) :
    exec (.registerWrite 0x10 v 4) s = .next (writeQueueReset v s) := exec_registerWrite_word 0x10 v released

theorem writeQueueReset_outside {s : State} (v : BitVec 32) (outside : s.control.core ≠ .running) :
    writeQueueReset v s = s := by
  rw [writeQueueReset, whileRunning, if_neg outside, ite_self]

/-- A write to QUEUE_RESET whose one digit of a ring is digit `p` (R170). -/
theorem exec_queueResetWrite_one {v : BitVec 32} {p : Nat} {f : State → State} (only : (v.extractLsb' 0 6).toNat = 2 ^ p)
    (one : ∀ u, resetRings ((BitVec.ofNat 6 (2 ^ p)).setWidth 32) u = settle (f u)) (s : State) :
    exec (.registerWrite 0x10 v 4) s = .next (hostWrite (whileRunning fun u => settle (f u)) s) := by
  have digits : BitVec.ofNat 6 (2 ^ p) = v.extractLsb' 0 6 := by rw [← only, BitVec.ofNat_toNat, BitVec.setWidth_eq]
  have named : v.extractLsb' 0 6 ≠ 0 := fun zero => by
    rw [zero] at only
    exact (Nat.two_pow_pos p).ne only
  have reset : writeQueueReset v = whileRunning fun u => settle (f u) := funext fun u => by
    rw [writeQueueReset, if_neg named]
    refine congrArg (whileRunning · u) (funext fun t => ?_)
    rw [← one t, digits, resetRings_low]
  rw [exec_registerWrite_eq, if_pos rfl, ← reset]
  rfl

theorem resetRings_command (r : CommandRingId) (s : State) :
    resetRings ((BitVec.ofNat 6 (2 ^ r.val)).setWidth 32) s = settle (resetCommandRing false r s) :=
  match r with
  | 0 | 1 | 2 | 3 => rfl

theorem resetRings_notice (k : NoticeRingId) (s : State) :
    resetRings ((BitVec.ofNat 6 (2 ^ (4 + k.val))).setWidth 32) s = settle (resetNoticeRing k s) :=
  match k with
  | 0 | 1 => rfl

theorem exec_noticeRingReset_running {s : State} (k : NoticeRingId) (released : s.control.resetAsserted = false)
    (running : s.control.core = .running) :
    exec (.noticeRingReset k) s = .next (settle (resetNoticeRing k s)) := by
  show Host.Outcome.next _ = _
  rw [hostWrite_open _ released, whileRunning, if_pos running]

theorem exec_commandRingReset_running {s : State} (r : CommandRingId) (released : s.control.resetAsserted = false)
    (running : s.control.core = .running) :
    exec (.commandRingReset r) s = .next (settle (resetCommandRing false r s)) := by
  show Host.Outcome.next _ = _
  rw [hostWrite_open _ released, whileRunning, if_pos running]

/-- Settles O46: the register at the offset, then the digits of a CONTROL word and of a QUEUE_RESET word. -/
theorem registerWindowWrites : Obligations.RegisterWindowWrites := by
  intro o v n s released
  refine ⟨fun narrow => exec_registerWrite_narrow o v narrow s, fun noRegister => ?_, rfl, rfl,
    fun r offset => exec_postRegisterWrite offset v s, fun k offset => exec_releaseRegisterWrite offset v s,
    ⟨_, exec_registerWrite_word 0x14 v released, rfl, writeSetupAddress_low_reads v s⟩,
    ⟨_, exec_registerWrite_word 0x18 v released, rfl, writeSetupAddress_high_reads v s⟩,
    fun low => exec_controlWrite low released,
    fun low => (exec_controlWrite low released).trans (exec_controlStart released).symm,
    fun low => (exec_controlWrite low released).trans (exec_halt released).symm,
    fun low => (exec_controlWrite low released).trans (exec_resume _ released).symm,
    fun low => (exec_controlWrite low released).trans (exec_coreReset released).symm,
    fun low => (exec_controlWrite low released).trans (exec_clearFlags released).symm,
    fun t u low first second => ?_, fun t u low first second => ?_, fun t u low first second => ?_, fun low => ?_,
    fun r only => exec_queueResetWrite_one only (resetRings_command r) s,
    fun k only => exec_queueResetWrite_one only (resetRings_notice k) s,
    ⟨exec_controlStart released, exec_halt released, exec_coreReset released, exec_clearFlags released, fun m => ?_⟩,
    fun a b c d e ha hb hc hd he => ?_, fun outside => ?_,
    fun running => ⟨fun k => exec_noticeRingReset_running k released running,
      fun r => exec_commandRingReset_running r released running, fun a b c d e f named ha hb hc hd he hf => ?_⟩⟩
  · obtain rfl | rfl | rfl | rfl := noRegister <;> exact exec_registerWrite_word _ v released
  · obtain rfl := Host.Outcome.next.inj ((exec_controlStart released).symm.trans first)
    have still := (controlStart_resetAsserted s).trans released
    exact (exec_controlWrite low released).trans ((exec_coreReset still).symm.trans second)
  · obtain rfl := Host.Outcome.next.inj ((exec_controlStart released).symm.trans first)
    have still := (controlStart_resetAsserted s).trans released
    exact (exec_controlWrite low released).trans ((exec_halt still).symm.trans second)
  · obtain rfl := Host.Outcome.next.inj ((exec_halt released).symm.trans first)
    have still := (controlHalt_resetAsserted s).trans released
    exact (exec_controlWrite low released).trans ((exec_resume _ still).symm.trans second)
  · rw [exec_queueResetWrite v released, writeQueueReset, if_pos low]
  · simp only [exec_resume m released, resumeAlone, resumes_iff]
  · subst ha hb hc hd he
    simp only [← resumes_iff, ← Bool.and_eq_true]
    exact exec_registerWrite_word 0x00 v released
  · rw [exec_queueResetWrite v released, writeQueueReset_outside v outside]
  · subst ha hb hc hd he hf
    rw [exec_queueResetWrite v released, writeQueueReset, if_neg named, whileRunning, if_pos running]
    rfl

end Sys2Proof.Machine
end

section
/-! Notice records: which bytes of a record each content fills (R174, R176, Tables 10-7 to 10-12). -/

namespace Sys2Proof.Machine

open Sys2Proof

/-! ### Fields side by side -/

theorem testBit_recordField {w : Nat} (x : BitVec w) (o n i : Nat) :
    (recordField x o n).testBit i = (decide (i < 8 * n) && x.getLsbD (8 * o + i)) := by
  rw [← fieldAt_toNat, BitVec.testBit_toNat, fieldAt, BitVec.getLsbD_extractLsb']

theorem testBit_recordField_putField (p k v o n i : Nat) : (recordField (putField p k v) o n).testBit i =
    (decide (i < 8 * n) && (decide (8 * o + i < 256) && !decide (8 * o + i < 8 * p) && (decide (8 * o + i - 8 * p < 256) &&
      (decide (8 * o + i - 8 * p < 8 * k) && v.testBit (8 * o + i - 8 * p))))) := by
  rw [testBit_recordField, putField, BitVec.getLsbD_shiftLeft, BitVec.getLsbD_ofNat, Nat.testBit_mod_two_pow]

@[simp] theorem recordField_zero (w o n : Nat) : recordField 0#w o n = 0 := by simp [recordField]

@[simp] theorem recordField_or {w : Nat} (x y : BitVec w) (o n : Nat) :
    recordField (x ||| y) o n = recordField x o n ||| recordField y o n :=
  Nat.eq_of_testBit_eq fun i => by
    simp only [testBit_recordField, Nat.testBit_or, BitVec.getLsbD_or, Bool.and_or_distrib_left]

/-- A field reads the value put there. -/
@[simp] theorem recordField_putField {o n v : Nat} (inside : o + n ≤ 32) (fits : v < 2 ^ (8 * n)) :
    recordField (putField o n v) o n = v :=
  Nat.eq_of_testBit_eq fun i => by
    rw [testBit_recordField_putField]
    by_cases within : i < 8 * n
    · have byte : 8 * o + i < 256 := by omega
      have digit : i < 256 := by omega
      simp [within, byte, digit]
    · have beyond : v.testBit i = false :=
        Nat.testBit_lt_two_pow (fits.trans_le (Nat.pow_le_pow_right Nat.two_pos (Nat.le_of_not_lt within)))
      simp [within, beyond]

/-- Bytes that a field does not lie in read 0 of it. -/
@[simp] theorem recordField_putField_apart {p k o n : Nat} (v : Nat) (apart : o + n ≤ p ∨ p + k ≤ o) :
    recordField (putField p k v) o n = 0 :=
  Nat.eq_of_testBit_eq fun i => by
    rw [testBit_recordField_putField, Nat.zero_testBit]
    have outside : ¬ (i < 8 * n ∧ ¬ 8 * o + i < 8 * p ∧ 8 * o + i - 8 * p < 8 * k) := by omega
    simp only [Bool.and_eq_false_iff, decide_eq_false_iff_not, Bool.not_eq_false', decide_eq_true_eq]
    tauto

/-- A field that holds a flag reads 1 where the flag is set. -/
@[simp] theorem recordField_putField_bitAt {o : Nat} (b : Bool) (inside : o + 1 ≤ 32) :
    recordField (putField o 1 (bitAt 0 b)) o 1 = if b then 1 else 0 := by
  refine (recordField_putField inside ?_).trans rfl
  cases b <;> decide

/-- Digits of a field whose value is given digit by digit. -/
theorem extract_of_recordField {w : Nat} {x : BitVec w} {o n : Nat} {l : List (Nat × Nat)}
    (value : recordField x o n = fieldSum l) (fit : ∀ f ∈ l, f.2 < 2 ^ f.1) (j : Nat) {i m v : Nat}
    (field : l[j]? = some (m, v)) (position : fieldPosition l j = i) (inside : i + m ≤ 8 * n) :
    x.extractLsb' (8 * o + i) m = BitVec.ofNat m v := by
  refine BitVec.eq_of_getLsbD_eq fun d below => ?_
  have digits := fieldSum_field fit field
  rw [position, ← value] at digits
  rw [BitVec.getLsbD_ofNat, ← digits, Nat.testBit_mod_two_pow, Nat.testBit_div_two_pow, testBit_recordField,
    BitVec.getLsbD_extractLsb', Nat.add_assoc, Nat.add_comm d i]
  have within : i + d < 8 * n := by omega
  simp [below, within]

/-! ### Codes -/

theorem bitAt_le (i : Nat) (b : Bool) : bitAt i b ≤ 2 ^ i := by cases b <;> simp [bitAt]

theorem Level.code_eq (v : Level) : Level.code v = if v = .high then 1 else 0 := by cases v <;> rfl

theorem Level.code_lt (v : Level) : Level.code v < 2 := by cases v <;> decide

theorem levelByte_lt (v : Option Level) : levelByte v < 2 ^ 8 :=
  match v with
  | none => by decide
  | some v => (Level.code_lt v).trans (by decide)

theorem trimWord_lt (v : Option Int) : trimWord v < 2 ^ 16 :=
  match v with
  | none => by decide
  | some v => (BitVec.ofInt 16 v).isLt

theorem trimWord_some (v : Int) : trimWord (some v) = (v % 65536).toNat := BitVec.toNat_ofInt v

theorem Status.code_lt (v : Status) : v.code < 16 := by cases v <;> decide

theorem EdgeMode.code_lt (v : EdgeMode) : v.code < 4 := by cases v <;> decide

theorem systemCodes_lt (body : SystemBody) : (systemCodes body).1 < 256 ∧ (systemCodes body).2 < 256 := by
  cases body with
  | halted software pin =>
    have low := bitAt_le 0 software
    have high := bitAt_le 1 pin
    simp only [systemCodes]
    omega
  | resumed mode => cases mode <;> decide
  | commandFault _ | noticeFault _ _ | badIndex _ =>
    simp only [systemCodes]
    omega

theorem resumeModeCode_eq (m : ResumeMode) : resumeModeCode m = if m = .discard then 1 else 0 := by cases m <;> rfl

/-- The flag byte of a firing record, digit by digit (Table 10-10). -/
def FiringFlags.digits (f : FiringFlags) : List (Nat × Nat) :=
  [(1, f.late.toNat), (1, f.last.toNat), (1, f.coalesced.toNat), (1, f.actionFailed.toNat), (1, f.haltedOver.toNat),
    (1, f.missed.toNat), (1, f.noMatch.toNat), (1, false.toNat)]

theorem FiringFlags.code_eq_fieldSum (f : FiringFlags) : f.code = fieldSum f.digits := by
  simp only [FiringFlags.code, FiringFlags.digits, fieldSum, bitAt_eq, Bool.toNat_false]
  ring

theorem FiringFlags.digits_fit (f : FiringFlags) : ∀ d ∈ f.digits, d.2 < 2 ^ d.1 := by
  simp only [FiringFlags.digits, List.forall_mem_cons, pow_one, Bool.toNat_lt, List.not_mem_nil, false_implies,
    implies_true, and_self]

/-- Byte 00h of a firing record: the kind 2, the mask above it and the phase on top (Tables 10-7, 10-8). -/
def firingKindDigits (b : Bool) (mask : BitVec 4) : List (Nat × Nat) := [(3, 2), (4, mask.toNat), (1, b.toNat)]

theorem firingKindDigits_fit (b : Bool) (mask : BitVec 4) : ∀ d ∈ firingKindDigits b mask, d.2 < 2 ^ d.1 := by
  simp [firingKindDigits, mask.isLt, Bool.toNat_le]

theorem getD_map_eq_elim {α : Type} (f : α → Nat) (v : Option α) : (v.map f).getD 0 = v.elim 0 f := by cases v <;> rfl

theorem elim_lt {α : Type} {f : α → Nat} {k : Nat} (v : Option α) (positive : 0 < k) (bounded : ∀ a, f a < k) :
    v.elim 0 f < k :=
  match v with
  | none => positive
  | some a => bounded a

/-! ### The phase -/

/-- The phase stands above the kind in byte 00h. -/
theorem or_phase {v : Nat} (b : Bool) (low : v < 2 ^ 7) : v ||| bitAt 7 b = v + if b then 128 else 0 := by
  cases b
  · exact Nat.or_zero v
  · have joined := Nat.two_pow_add_eq_or_of_lt low 1
    rw [Nat.or_comm, Nat.add_comm]
    exact joined.symm

/-- The phase lies in byte 00h alone. -/
theorem recordField_noticeRecord (b : Bool) (n : Notice) {o : Nat} (k : Nat) (above : 1 ≤ o) :
    recordField (noticeRecord b n) o k = recordField (noticeBody n) o k := by
  simp (disch := omega) only [noticeRecord, recordField_or, recordField_putField_apart, Nat.or_zero]

theorem recordField_noticeRecord_kind (b : Bool) {n : Notice} {v : Nat} (kind : recordField (noticeBody n) 0 1 = v)
    (low : v < 2 ^ 7) : recordField (noticeRecord b n) 0 1 = v + if b then 128 else 0 := by
  have phase := bitAt_le 7 b
  rw [noticeRecord, recordField_or, recordField_putField (by decide) (by omega), kind, or_phase b low]

/-! ### Firing, edge and system notices -/

theorem firing_fields (b : Bool) (i : SlotId) (g : BitVec 8) (tag : BitVec 64) {p : FiringReport}
    (count : p.count ≤ 65535) (overruns : p.overruns ≤ 65535) {x : NoticeRecord}
    (record : x = noticeRecord b (.firing i g tag p)) :
    recordField x 0 1 = fieldSum (firingKindDigits b p.mask) ∧ recordField x 1 1 = i.val ∧
      recordField x 2 1 = g.toNat ∧ recordField x 3 1 = fieldSum p.flags.digits ∧ recordField x 4 2 = p.count ∧
      recordField x 6 2 = p.overruns ∧ recordField x 8 8 = tag.toNat ∧ recordField x 16 8 = p.expiry.toNat ∧
      recordField x 24 8 = p.fire.toNat := by
  subst record
  have flags : p.flags.code < 2 ^ 8 := by
    rw [FiringFlags.code_eq_fieldSum]
    exact fieldSum_lt p.flags.digits_fit
  rw [← FiringFlags.code_eq_fieldSum]
  refine ⟨?_, by simp (disch := omega) [recordField_noticeRecord, noticeBody]⟩
  have kind : recordField (noticeBody (.firing i g tag p)) 0 1 = 2 + p.mask.toNat * 8 := by
    simp (disch := omega) [noticeBody]
  rw [recordField_noticeRecord_kind b kind (by omega)]
  have phase : (if b then 128 else 0) = 128 * b.toNat := by cases b <;> rfl
  simp only [phase, firingKindDigits, fieldSum]
  omega

theorem firing_layout (b : Bool) (i : SlotId) (g : BitVec 8) (tag : BitVec 64) {p : FiringReport}
    (count : p.count ≤ 65535) (overruns : p.overruns ≤ 65535) {x : NoticeRecord}
    (record : x = noticeRecord b (.firing i g tag p)) :
    x.extractLsb' 0 3 = 2 ∧ x.extractLsb' 3 4 = p.mask ∧ x.getLsbD 7 = b ∧ (x.extractLsb' 8 8).toNat = i.val ∧
      x.extractLsb' 16 8 = g ∧ x.getLsbD 24 = p.flags.late ∧ x.getLsbD 25 = p.flags.last ∧
      x.getLsbD 26 = p.flags.coalesced ∧ x.getLsbD 27 = p.flags.actionFailed ∧ x.getLsbD 28 = p.flags.haltedOver ∧
      x.getLsbD 29 = p.flags.missed ∧ x.getLsbD 30 = p.flags.noMatch ∧ x.getLsbD 31 = false ∧
      (x.extractLsb' 32 16).toNat = p.count ∧ (x.extractLsb' 48 16).toNat = p.overruns ∧
      x.extractLsb' 64 64 = tag ∧ x.extractLsb' 128 64 = p.expiry ∧ x.extractLsb' 192 64 = p.fire := by
  obtain ⟨kind, slot, generation, flags, counted, overrun, tagged, expiry, fire⟩ :=
    firing_fields b i g tag count overruns record
  have kindDigit (j i : Nat) {m v : Nat} (digit : (firingKindDigits b p.mask)[j]? = some (m, v))
      (position : fieldPosition (firingKindDigits b p.mask) j = i) (inside : i + m ≤ 8) :
      x.extractLsb' (0 + i) m = BitVec.ofNat m v :=
    extract_of_recordField kind (firingKindDigits_fit b p.mask) j digit position inside
  have mask : x.extractLsb' 3 4 = BitVec.ofNat 4 p.mask.toNat := kindDigit 1 3 rfl rfl (by decide)
  have flag (j : Nat) {v : Bool} (digit : p.flags.digits[j]? = some (1, v.toNat))
      (position : fieldPosition p.flags.digits j = j) (inside : j + 1 ≤ 8) : x.getLsbD (24 + j) = v :=
    getLsbD_of_extract (extract_of_recordField flags p.flags.digits_fit j digit position inside)
  exact ⟨kindDigit 0 0 rfl rfl (by decide), mask.trans (by simp),
    getLsbD_of_extract (kindDigit 2 7 rfl rfl (by decide)), (fieldAt_byte x 1).trans slot,
    BitVec.eq_of_toNat_eq ((fieldAt_byte x 2).trans generation),
    flag 0 rfl rfl (by decide), flag 1 rfl rfl (by decide), flag 2 rfl rfl (by decide), flag 3 rfl rfl (by decide),
    flag 4 rfl rfl (by decide), flag 5 rfl rfl (by decide), flag 6 rfl rfl (by decide), flag 7 rfl rfl (by decide),
    (fieldAt_half x 4).trans counted, (fieldAt_half x 6).trans overrun,
    BitVec.eq_of_toNat_eq ((fieldAt_double x 8).trans tagged),
    BitVec.eq_of_toNat_eq ((fieldAt_double x 16).trans expiry),
    BitVec.eq_of_toNat_eq ((fieldAt_double x 24).trans fire)⟩

theorem edge_layout (b : Bool) (c : CaptureId) (v : Level) (ts : Tick) (q : BitVec 16) {lost : Nat} {x : NoticeRecord}
    (counted : lost ≤ 255) (record : x = noticeRecord b (.edge c v ts q lost)) :
    recordField x 0 1 = 3 + (if b then 128 else 0) ∧ recordField x 1 1 = c.val ∧
      recordField x 2 1 = (if v = .high then 1 else 0) ∧ recordField x 3 1 = lost ∧ recordField x 4 2 = q.toNat ∧
      recordField x 6 2 = 0 ∧ recordField x 8 8 = ts.toNat ∧ recordField x 16 16 = 0 := by
  subst record
  have level := Level.code_lt v
  rw [← Level.code_eq]
  exact ⟨recordField_noticeRecord_kind b (by simp (disch := omega) [noticeBody]) (by decide),
    by simp (disch := omega) [recordField_noticeRecord, noticeBody]⟩

/-- The codes of Table 10-11 stand at 01h and 03h, the lost-record count at 04h. -/
theorem system_fields (b : Bool) {n : SystemNotice} {lost : Nat} {x : NoticeRecord} (counted : lost ≤ 255)
    (record : x = noticeRecord b (.system n lost)) :
    (recordField x 0 1 = 4 + (if b then 128 else 0) ∧ recordField x 2 1 = lost ∧ recordField x 6 2 = 0 ∧
      recordField x 8 8 = n.tick.toNat ∧ recordField x 16 16 = 0) ∧
    recordField x 1 1 = (systemCodes n.body).1 ∧ recordField x 3 1 = (systemCodes n.body).2 ∧
      (systemLostRecords n.body ≤ 65535 → recordField x 4 2 = systemLostRecords n.body) := by
  subst record
  have codes := systemCodes_lt n.body
  refine ⟨⟨recordField_noticeRecord_kind b (by simp (disch := omega) [noticeBody]) (by decide),
    by simp (disch := omega) [recordField_noticeRecord, noticeBody]⟩, ?_, ?_, fun bounded => ?_⟩ <;>
  simp (disch := omega) [recordField_noticeRecord, noticeBody]

/-! ### Completions -/

/-- The result lies behind the 8 bytes of the header. -/
theorem recordField_resultRecord_header (res : Result) {o n : Nat} (header : o + n ≤ 8) :
    recordField (resultRecord res) o n = 0 := by
  cases res <;>
    simp (disch := omega) [resultRecord, slotResultRecord, timeResultRecord, captureResultRecord]

theorem completion_header (b : Bool) (r : CommandRingId) (st : Status) (ident : BitVec 16) {take : Nat} (res : Result)
    {x : NoticeRecord} (index : take ≤ 65535) (record : x = noticeRecord b (.completion r st ident take res)) :
    recordField x 0 1 = 1 + (if b then 128 else 0) ∧ recordField x 1 1 = st.code ∧ recordField x 2 1 = r.val ∧
      recordField x 3 1 = 0 ∧ recordField x 4 2 = ident.toNat ∧ recordField x 6 2 = take := by
  subst record
  have status := st.code_lt
  exact ⟨recordField_noticeRecord_kind b
      (by simp (disch := omega) [noticeBody, recordField_resultRecord_header]) (by decide),
    by simp (disch := omega) [recordField_noticeRecord, noticeBody, recordField_resultRecord_header]⟩

/-- Behind the header a completion record holds its result. -/
theorem recordField_completion {b : Bool} {r : CommandRingId} {st : Status} {ident : BitVec 16} {take : Nat}
    {res : Result} {x : NoticeRecord} (record : x = noticeRecord b (.completion r st ident take res)) {o : Nat} (n : Nat)
    (behind : 8 ≤ o) : recordField x o n = recordField (resultRecord res) o n := by
  subst record
  simp (disch := omega) [recordField_noticeRecord, noticeBody]

/-! ### The rows of Table 10-12 -/

section

/- A record whose bytes from 08h on are those of a result. -/
variable {x record : NoticeRecord}
  (behind : ∀ {o : Nat} (n : Nat), 8 ≤ o → recordField x o n = recordField record o n)
include behind

theorem slotResult_layout {y : SlotResult} (row : record = slotResultRecord y) (state : y.state ≤ 255)
    (remaining : ∀ n, y.remaining = some n → n ≤ 65535) (firings : y.firingsDone < 2 ^ 32) :
    recordField x 8 1 = y.state ∧ recordField x 9 1 = y.generation.toNat ∧
      recordField x 10 1 =
        (if y.remaining.isSome then 1 else 0) + (if y.expiry.isSome then 2 else 0) + (if y.noticePending then 4 else 0) +
          (if y.expiryApplied then 8 else 0) + (if y.triggerLine.isSome then 16 else 0) ∧
      recordField x 11 1 = (y.triggerLine.map Fin.val).getD 0 ∧ recordField x 12 2 = y.remaining.getD 0 ∧
      recordField x 14 1 = (if y.calendarKind then 1 else 0) ∧ recordField x 15 1 = 0 ∧
      recordField x 16 4 = y.firingsDone ∧ recordField x 20 4 = 0 ∧
      recordField x 24 8 = (y.expiry.map BitVec.toNat).getD 0 := by
  subst row
  have left : y.remaining.getD 0 < 2 ^ 16 := by
    cases held : y.remaining with
    | none => decide
    | some n => exact Nat.lt_succ_of_le (remaining n held)
  have line := elim_lt y.triggerLine (by decide) Fin.isLt
  have expiry := elim_lt y.expiry (by decide) BitVec.isLt
  have flags : recordField x 10 1 = bitAt 0 y.remaining.isSome + bitAt 1 y.expiry.isSome + bitAt 2 y.noticePending +
      bitAt 3 y.expiryApplied + bitAt 4 y.triggerLine.isSome := by
    have present := bitAt_le 0 y.remaining.isSome
    have set := bitAt_le 1 y.expiry.isSome
    have pending := bitAt_le 2 y.noticePending
    have applied := bitAt_le 3 y.expiryApplied
    have triggered := bitAt_le 4 y.triggerLine.isSome
    simp (disch := omega) [behind, slotResultRecord]
  refine ⟨?_, ?_, flags, ?_⟩ <;> simp (disch := omega) [behind, slotResultRecord, getD_map_eq_elim]

theorem timeResult_layout {y : TimeResult} (row : record = timeResultRecord y) (year : y.year ≤ 65535)
    (month : y.month ≤ 255) (day : y.day ≤ 255) (hour : y.hour ≤ 255) (minute : y.minute ≤ 255)
    (second : y.second ≤ 255) (weekday : y.weekday ≤ 255) (into : y.into < 2 ^ 32) :
    recordField x 8 8 = y.tick.toNat ∧ recordField x 16 2 = y.year ∧ recordField x 18 1 = y.month ∧
      recordField x 19 1 = y.day ∧ recordField x 20 1 = y.hour ∧ recordField x 21 1 = y.minute ∧
      recordField x 22 1 = y.second ∧ recordField x 23 1 = y.weekday ∧ recordField x 24 4 = y.into ∧
      recordField x 28 2 = trimWord (some y.trim) ∧ recordField x 30 2 = trimWord y.pending := by
  subst row
  have trim := trimWord_lt (some y.trim)
  have pending := trimWord_lt y.pending
  simp (disch := omega) [behind, timeResultRecord]

theorem captureResult_layout {y : CaptureResult} (row : record = captureResultRecord y) (qualify : y.qualify ≤ 255)
    (interval : y.interval ≤ 65535) (lost : y.lost ≤ 255) (waiting : y.waiting ≤ 65535) :
    recordField x 8 1 = EdgeMode.code y.edgeMode ∧ recordField x 9 1 = y.qualify ∧
      recordField x 10 1 = (if y.notify then 1 else 0) ∧ recordField x 11 1 = y.ring.val ∧
      recordField x 12 2 = y.interval ∧ recordField x 14 1 = levelByte y.stable ∧
      recordField x 15 1 = (if y.heldPresent then 1 else 0) ∧ recordField x 16 1 = y.lost ∧ recordField x 17 1 = 0 ∧
      recordField x 18 2 = y.edgeSequence.toNat ∧ recordField x 20 2 = y.waiting ∧ recordField x 22 10 = 0 := by
  subst row
  have mode := EdgeMode.code_lt y.edgeMode
  have stable := levelByte_lt y.stable
  simp (disch := omega) [behind, captureResultRecord]

end

theorem Status.code_position (st : Status) :
    [Status.ok, .alreadyStopped, .notLoaded, .stale, .slotBusy, .notDormant, .wrongKind, .noticePending, .calendarFull,
      .busy, .superseded, .timedOut, .lineDisabled, .halted, .badCommand, .badParam][st.code]? = some st := by
  cases st <;> rfl

theorem EdgeMode.code_position (m : EdgeMode) :
    [EdgeMode.off, .rising, .falling, .both][EdgeMode.code m]? = some m := by
  cases m <;> rfl

/-- Settles O39: each record is the union of its fields, so that the bytes of a field hold its value and the bytes
of none read 0. -/
theorem noticeRecordLayouts : Obligations.NoticeRecordLayouts := by
  refine ⟨fun b i g tag _ _ count overruns => firing_layout b i g tag count overruns,
    fun b c v ts q _ _ => edge_layout b c v ts q, fun b n lost x counted record => ?_,
    fun b r st ident take res x level maybe trim index levels somes absent trims untrimmed record => ?_⟩
  · obtain ⟨⟨kind, lostField, gap, tick, rest⟩, subkind, detail, lostRecords⟩ := system_fields b counted record
    refine ⟨kind, lostField, gap, tick, rest, ?_⟩
    obtain ⟨body, _⟩ := n
    cases body with
    | noticeFault k m => exact ⟨subkind, detail, lostRecords⟩
    | resumed m => exact ⟨subkind, detail.trans (resumeModeCode_eq m), lostRecords (Nat.zero_le _)⟩
    | commandFault _ | badIndex _ | halted _ _ => exact ⟨subkind, detail, lostRecords (Nat.zero_le _)⟩
  · obtain rfl : level = Level.code := funext fun v => (levels v).trans (Level.code_eq v).symm
    obtain rfl : maybe = levelByte := funext fun
      | none => absent
      | some v => somes v
    obtain rfl : trim = trimWord := funext fun
      | none => untrimmed
      | some v => (trims v).trans (trimWord_some v).symm
    obtain ⟨kind, status, ring, gap, identifier, position⟩ := completion_header b r st ident res index record
    have behind {o : Nat} (n : Nat) (above : 8 ≤ o) := recordField_completion record n above
    refine ⟨kind, by rw [status, st.code_position], ring, gap, identifier, position, ?_⟩
    cases res with
    | zero => simp (disch := omega) [behind, resultRecord]
    | slot y => exact slotResult_layout behind rfl
    | time y => exact timeResult_layout behind rfl
    | trim v pending tick c =>
      intro bounded
      have value := trimWord_lt (some v)
      have waiting := trimWord_lt pending
      simp (disch := omega) [behind, resultRecord]
    | step before stepped c applied =>
      intro bounded
      simp (disch := omega) [behind, resultRecord]
    | calendar tick c placed matched noMatch stopped =>
      intro bounded placed_le matched_le noMatch_le stopped_le
      simp (disch := omega) [behind, resultRecord]
    | lineSetup state safe held pin =>
      intro bounded
      have safe_lt := Level.code_lt safe
      have held_lt := levelByte_lt held
      have pin_lt := Level.code_lt pin
      simp (disch := omega) [behind, resultRecord]
    | lineForce state held pending pin =>
      intro bounded
      have held_lt := levelByte_lt held
      have pin_lt := Level.code_lt pin
      simp (disch := omega) [behind, resultRecord]
    | capture y =>
      intro qualify interval lost waiting
      obtain ⟨mode, rest⟩ := captureResult_layout behind rfl qualify interval lost waiting
      exact ⟨by rw [mode, EdgeMode.code_position], rest⟩

end Sys2Proof.Machine
end

section
/-! The queue of commands: what one step does, by the shape of the queue (log entry 1). -/

namespace Sys2Proof.Machine

open Sys2Proof

/-- Log entry 1: with no command waiting the block idles. -/
theorem step_of_pending_nil {s : State} (h : s.pending = []) : step s = .next s := by
  rw [step, h]

/-- Log entry 1: the command at the front leaves the queue before it runs, so that it sees the queue's rest. -/
theorem step_of_pending_cons {c : Instr} {l : List Instr} {s : State} (h : s.pending = c :: l) :
    step s = exec c { s with pending := l } := by
  rw [step, h]

/-- Settles O50: one branch of the queue each. -/
theorem stepRunsTheFrontCommand : Obligations.StepRunsTheFrontCommand :=
  fun _ _ _ => ⟨step_of_pending_cons, step_of_pending_nil⟩

end Sys2Proof.Machine
end
